-- ==== Sys2Proof/Word.lean ====
section
/-! DEFINITION. The plain types that every other file uses: bytes, words, exact values, sparse maps. -/

namespace Sys2Proof

/-- One byte of memory. -/
abbrev Byte := BitVec 8

/-- One 64-bit word of a command, a packet or a record (spec 00 R3: little-endian in memory). -/
abbrev Word := BitVec 64

/-- A sparse map from numbers: rising keys, no entry equal to the default (Machine/Map.lean reads and writes it). -/
abbrev Map (α : Type) := List (Nat × α)

/-- The exact value a lane stands for before any rounding (spec 03 R58, R59, 08 R182 `value`).
`fin neg mag exp` is (−1)^neg · mag · 2^exp; the sign of a zero is kept. -/
inductive Val where
  | fin (neg : Bool) (mag : Nat) (exp : Int)
  | inf (neg : Bool)
  | nan
  deriving DecidableEq, Repr

/-- The four rounding modes of spec 03 R65. -/
inductive RMode where
  | rne | rtz | rdn | sr
  deriving DecidableEq, Repr

/-- The six element types of spec 01 R13. -/
inductive ElemType where
  | st | se | ve | le | me | ae
  deriving DecidableEq, Repr

/-- The classes of master of spec 01 R27. -/
inductive Master where
  | fab | cpy | bin | col | acc | cfg | host | peer | fw
  deriving DecidableEq, Repr

end Sys2Proof
end

