-- ==== Sys2Proof/Syntax.lean ====
section
/-! DEFINITION. The instruction set: one constructor of Instr for each row of spec/opcode_table.json, and the
records its operands are held in. An element instruction carries the fields of its 96-bit slot (spec 08 R165), an engine
command its eight words (05 R104), a queue packet its slots (16 R368), a management packet its slot and body (18 R422),
an event of the part the names of what it happens to. -/

namespace Sys2Proof

/-- The fields of a 96-bit slot other than OP (spec 08 R165). The guard is sv .. val, the action sa .. imm. -/
structure Slot where
  sv : BitVec 6
  sm : BitVec 6
  qa : BitVec 3
  qb : BitVec 3
  ta : BitVec 3
  tea : Bool
  tb : BitVec 3
  teb : Bool
  ka : BitVec 2
  kb : BitVec 2
  os : BitVec 6
  pcl : BitVec 2
  str : Bool
  val : Bool
  sa : BitVec 3
  sb : BitVec 3
  dd : BitVec 2
  dwe : Bool
  om : BitVec 6
  ot : BitVec 3
  oeos : Bool
  dqa : Bool
  dqb : Bool
  ns : BitVec 6
  nse : Bool
  md : BitVec 4
  imm : BitVec 16
  deriving DecidableEq, Repr

/-- A 64-byte engine command as eight little-endian words (spec 05 R104). -/
structure Command where
  w0 : Word
  w1 : Word
  w2 : Word
  w3 : Word
  w4 : Word
  w5 : Word
  w6 : Word
  w7 : Word
  deriving DecidableEq, Repr

/-- A queue packet: its first slot, and its second for COPYH (spec 16 R368). -/
structure QPacket where
  first : Command
  second : Command
  deriving DecidableEq, Repr

/-- A management packet: ring slot, operand words, signature record bytes (spec 18 R422). -/
structure MgmtPacket where
  slot : Command
  operands : List Word
  sig : List Byte
  deriving DecidableEq, Repr

/-- One access to a core window (spec 01 R26, R27): who asks, where, the bytes written, whether they are marked poisoned.
`scope` is the scope of a FAB access (R27), DOM for every other class. -/
structure WinAccess where
  core : Nat
  off : Nat
  data : List Byte
  pois : Bool
  master : Master
  role : BitVec 26
  scope : Nat
  deriving DecidableEq, Repr

/-- Who walks a page table: a die's walkers, for a translation context (spec 02 R50). -/
structure Walker where
  die : Nat
  tcid : Nat
  deriving DecidableEq, Repr

/-- What an element record of a container defines (spec 16 R366): contexts of 208 bytes and constants. -/
structure ImageElem where
  elem : Nat
  ctxs : List (Nat × List Byte)
  consts : List (Nat × BitVec 256)
  deriving DecidableEq, Repr

/-- A Daxara data frame (spec 18 R424): sequence number, acknowledgement if valid, virtual channel, flits as bytes;
`good` is whether FCS and MACsec passed and VER and KIND are legal. -/
structure Frame where
  seq : Nat
  ack : Option Nat
  vc : Nat
  flits : List Byte
  good : Bool
  deriving DecidableEq, Repr

/-- What a peer request asks (spec 18 R429): of memory; of a range, on the accumulate channels (14 R316, R339); of the members of a collective
in this package (09 R218, log 47); of a launch, on the task channel (16 R386, log 48). -/
inductive PeerOp where
  | read | write | atomic | contribution | bind | marker | unbind | collective | task | ended
  deriving DecidableEq, Repr

/-- A request between packages (spec 18 R429). `tag` tells the issuer's requests apart; `arg` holds the operation of an atomic, the chain tag of a
word of the accumulate network, the rank of a member (log 34); `pois` is the poison mask, bit i for the i-th 32 B sector that its bytes
touch; `issuer` is the ROLE of the master that issued it (05 R111), as a number. -/
structure PeerReq where
  port : Nat
  pa : Nat
  op : PeerOp
  size : Nat
  data : List Byte
  tcid : Nat
  srcPkg : Nat
  srcCore : Nat
  tag : Nat
  arg : Nat
  pois : BitVec 2
  issuer : Nat
  deriving DecidableEq, Repr

/-- An answer of another package to the request with a tag (spec 18 R429, log 34): bytes, and their poison mask. -/
structure PeerAnswer where
  tag : Nat
  data : List Byte
  pois : BitVec 2
  deriving DecidableEq, Repr

/-- The operations and events of spec/opcode_table.json, one constructor a row, element instructions first, then engine commands, packets, the events that the part itself brings about, and those that come from outside. -/
inductive Instr where
  /-- NOP (R267): Performs only the state update of the firing, optionally waiting on named queue heads without consuming them. -/
  | nop (f : Slot)
  /-- ADD (R225): Lane-wise integer addition keeping the low w bits. -/
  | add (f : Slot)
  /-- SUB (R225): Lane-wise integer subtraction keeping the low w bits. -/
  | sub (f : Slot)
  /-- ADDS (R225): Lane-wise saturating integer addition. -/
  | adds (f : Slot)
  /-- SUBS (R225): Lane-wise saturating integer subtraction. -/
  | subs (f : Slot)
  /-- MUL (R225): Lane-wise integer multiplication keeping the low w bits. -/
  | mul (f : Slot)
  /-- MULH (R225): Lane-wise signed high half of the product. -/
  | mulh (f : Slot)
  /-- MULHN (R225): Lane-wise unsigned high half of the product. -/
  | mulhn (f : Slot)
  /-- MADD (R226): Lane-wise multiply-add into the destination entry, which is also read as the addend. -/
  | madd (f : Slot)
  /-- ABS (R225): Lane-wise absolute value, optionally saturating. -/
  | abs (f : Slot)
  /-- NEG (R225): Lane-wise negation, optionally saturating. -/
  | neg (f : Slot)
  /-- MIN (R225): Lane-wise signed minimum. -/
  | min (f : Slot)
  /-- MAX (R225): Lane-wise signed maximum. -/
  | max (f : Slot)
  /-- MINN (R225): Lane-wise unsigned minimum. -/
  | minn (f : Slot)
  /-- MAXN (R225): Lane-wise unsigned maximum. -/
  | maxn (f : Slot)
  /-- AND (R225): Lane-wise bitwise AND. -/
  | and (f : Slot)
  /-- OR (R225): Lane-wise bitwise OR. -/
  | or (f : Slot)
  /-- XOR (R225): Lane-wise bitwise XOR. -/
  | xor (f : Slot)
  /-- ANDN (R225): Lane-wise a AND NOT b. -/
  | andn (f : Slot)
  /-- SHL (R225): Lane-wise shift left. -/
  | shl (f : Slot)
  /-- SHR (R225): Lane-wise logical shift right. -/
  | shr (f : Slot)
  /-- SHA (R225): Lane-wise arithmetic shift right. -/
  | sha (f : Slot)
  /-- ROL (R225): Lane-wise rotate left. -/
  | rol (f : Slot)
  /-- CLZ (R225): Lane-wise count of leading zero bits. -/
  | clz (f : Slot)
  /-- CTZ (R225): Lane-wise count of trailing zero bits. -/
  | ctz (f : Slot)
  /-- POPC (R225): Lane-wise population count. -/
  | popc (f : Slot)
  /-- BREV (R225): Lane-wise bit reversal. -/
  | brev (f : Slot)
  /-- BITI (R230): Interleaves the bits of every g consecutive lanes into one lane. -/
  | biti (f : Slot)
  /-- BITD (R230): De-interleaves each lane into g lanes. -/
  | bitd (f : Slot)
  /-- BFX (R229): Extracts a bit field from each lane, zero- or sign-extended. -/
  | bfx (f : Slot)
  /-- BFI (R229): Inserts the low bits of b into a bit field of each lane of a. -/
  | bfi (f : Slot)
  /-- CMPEQ (R227): Lane-wise integer equality compare, optionally writing a state bit. -/
  | cmpeq (f : Slot)
  /-- CMPNE (R227): Lane-wise integer inequality compare. -/
  | cmpne (f : Slot)
  /-- CMPLT (R227): Lane-wise signed less-than compare. -/
  | cmplt (f : Slot)
  /-- CMPLTN (R227): Lane-wise unsigned less-than compare. -/
  | cmpltn (f : Slot)
  /-- CMPLE (R227): Lane-wise signed less-or-equal compare. -/
  | cmple (f : Slot)
  /-- CMPLEN (R227): Lane-wise unsigned less-or-equal compare. -/
  | cmplen (f : Slot)
  /-- SEL (R228): State mode: selects the whole of A or B by a state bit. -/
  | sel (f : Slot)
  /-- SEL_LANE (R228): Lane mode: selects each lane from a or b by the old destination entry. -/
  | selLane (f : Slot)
  /-- MOV (R225): Lane-wise move. -/
  | mov (f : Slot)
  /-- MOVI (R231): Replaces one 16-bit chunk of each lane with the immediate. -/
  | movi (f : Slot)
  /-- MOVH (R225): Joins the low halves of a and b into each lane. -/
  | movh (f : Slot)
  /-- MOVX (R232): Register mode: reads the data-file entry named by a run-time index. -/
  | movx (f : Slot)
  /-- MOVX_LANE (R232): Lane mode: extracts the lane of B named by a run-time index. -/
  | movxLane (f : Slot)
  /-- MOVXW (R232): Register mode: writes B to the data-file entry named by a run-time index. -/
  | movxw (f : Slot)
  /-- MOVXW_LANE (R232): Lane mode: writes lane 0 of B into the lane of the destination entry named by a run-time index. -/
  | movxwLane (f : Slot)
  /-- SHUF (R233): Permutes lanes within halves of a packet by immediate selectors. -/
  | shuf (f : Slot)
  /-- BCAST (R234): Produces copies of one lane of A. -/
  | bcast (f : Slot)
  /-- EXTL (R234): Extracts one lane of A. -/
  | extl (f : Slot)
  /-- INSL (R234): Replaces one lane of A with lane 0 of B. -/
  | insl (f : Slot)
  /-- PACK (R236): Narrows lanes to a second integer or pair format, optionally saturating. -/
  | pack (f : Slot)
  /-- UNPK (R236): Widens lanes from a second integer or pair format. -/
  | unpk (f : Slot)
  /-- REDA (R237): Sums all lanes into one lane. -/
  | reda (f : Slot)
  /-- REDM (R237): Reduces all lanes to their signed or unsigned minimum or maximum. -/
  | redm (f : Slot)
  /-- SCANA (R237): Inclusive or exclusive prefix sum over lanes. -/
  | scana (f : Slot)
  /-- LEN (R235): Produces the length of A as one lane. -/
  | len (f : Slot)
  /-- SETLEN (R235): Truncates or zero-extends A to a fixed length. -/
  | setlen (f : Slot)
  /-- FADD (R244): Lane-wise float addition with one rounding. -/
  | fadd (f : Slot)
  /-- FSUB (R244): Lane-wise float subtraction with one rounding. -/
  | fsub (f : Slot)
  /-- FMUL (R244): Lane-wise float multiplication with one rounding. -/
  | fmul (f : Slot)
  /-- FFMA (R245): Fused a×b+c into the destination entry. -/
  | ffma (f : Slot)
  /-- FFMS (R245): Fused a×b−c into the destination entry. -/
  | ffms (f : Slot)
  /-- FNMA (R245): Fused −(a×b)+c into the destination entry. -/
  | fnma (f : Slot)
  /-- FMIN (R244): Lane-wise float minimum. -/
  | fmin (f : Slot)
  /-- FMAX (R244): Lane-wise float maximum. -/
  | fmax (f : Slot)
  /-- FABS (R244): Lane-wise float absolute value. -/
  | fabs (f : Slot)
  /-- FNEG (R244): Lane-wise float negation. -/
  | fneg (f : Slot)
  /-- FCPYS (R244): Lane-wise magnitude of a with the sign bit of b. -/
  | fcpys (f : Slot)
  /-- FCMPEQ (R246): Lane-wise float equality compare. -/
  | fcmpeq (f : Slot)
  /-- FCMPLT (R246): Lane-wise float less-than compare. -/
  | fcmplt (f : Slot)
  /-- FCMPLE (R246): Lane-wise float less-or-equal compare. -/
  | fcmple (f : Slot)
  /-- FCMPUN (R246): Lane-wise unordered (NaN) test. -/
  | fcmpun (f : Slot)
  /-- FCLASS (R244): Lane-wise classification of stored float bits. -/
  | fclass (f : Slot)
  /-- FCVT (R247): Converts lanes from a second float format to FMT. -/
  | fcvt (f : Slot)
  /-- FCVTI (R247): Converts float lanes to an integer FMT. -/
  | fcvti (f : Slot)
  /-- ICVTF (R247): Converts integer lanes to a float FMT, applying any group header. -/
  | icvtf (f : Slot)
  /-- FRND (R244): Rounds each lane to an integer value in the context rounding mode. -/
  | frnd (f : Slot)
  /-- FRCPE (R248): Table estimate of the reciprocal. -/
  | frcpe (f : Slot)
  /-- FRSQE (R249): Table estimate of the reciprocal square root. -/
  | frsqe (f : Slot)
  /-- FSCL (R244): Scales each lane by 2 to the integer in b. -/
  | fscl (f : Slot)
  /-- FEXPT (R244): Produces the binary exponent of each lane. -/
  | fexpt (f : Slot)
  /-- FREDA (R250): Exact sum of all lanes with one rounding. -/
  | freda (f : Slot)
  /-- FDOT (R250): Exact dot product with one rounding, optionally accumulating. -/
  | fdot (f : Slot)
  /-- FALGN (R251): Data mode: aligns float elements to integers under a given block exponent. -/
  | falgn (f : Slot)
  /-- FALGN_EXP (R251): Exponent mode: produces the largest exponent of the block. -/
  | falgnExp (f : Slot)
  /-- FALGN_HDR (R251): Header mode: pushes an MX block-scale HDR token for an exponent. -/
  | falgnHdr (f : Slot)
  /-- LUTE (R255): Evaluates the piecewise-linear function table at each lane. -/
  | lute (f : Slot)
  /-- LUTI (R256): Reads the intercept or slope of table entries by index. -/
  | luti (f : Slot)
  /-- LUTW (R254): Writes 64-bit lanes into the function table. -/
  | lutw (f : Slot)
  /-- RRED (R258): Range-reduces each lane into a pair (r, k). -/
  | rred (f : Slot)
  /-- RCOMB (R259): Recombines (y, k) pairs into results. -/
  | rcomb (f : Slot)
  /-- LCLAMP (R257): Clamps each lane between two bounds. -/
  | lclamp (f : Slot)
  /-- PASS (R268): Passes a token unchanged, optionally retagged. -/
  | pass (f : Slot)
  /-- DROP (R269): Pops heads and pushes nothing, counting ERR tokens unless silent. -/
  | drop (f : Slot)
  /-- EMIT (R268): Produces an operand as DATA, or an EOS of level OT. -/
  | emit (f : Slot)
  /-- EOSE (R270): Raises or lowers the level of EOS tokens and passes other tokens. -/
  | eose (f : Slot)
  /-- STEER (R271): Routes a token to one of one or two outputs by a state bit. -/
  | steer (f : Slot)
  /-- STEER_DATA (R271): Routes a token to one of one or two outputs by lane 0 of B. -/
  | steerData (f : Slot)
  /-- MERGE (R272): Joins consecutive DATA packets of one tag in the merge register. -/
  | merge (f : Slot)
  /-- SPLIT (R273): Pushes the next piece of n lanes of the head packet. -/
  | split (f : Slot)
  /-- CARRY (R274): Runs a loop-carried value between initial and feedback inputs. -/
  | carry (f : Slot)
  /-- DELAY (R275): Outputs each value one iteration late. -/
  | delay (f : Slot)
  /-- DELTA (R277): Emits coordinate entries whose value moved by at least the threshold and updates the kept values. -/
  | delta (f : Slot)
  /-- COUNT (R276): Counts DATA packets or lanes and emits the count at an EOS. -/
  | count (f : Slot)
  /-- SINK (R278): Consumes its head, counting ERR tokens and EOS boundaries, and reports the sink at its count. -/
  | sink (f : Slot)
  /-- TSEND (R280): Sends operand A as a task packet to a label of its own core. -/
  | tsend (f : Slot)
  /-- TSEND_FAR (R280): Sends operand A as a task packet to a label of the core named by B. -/
  | tsendFar (f : Slot)
  /-- CFGK (R281): Stages A into a constant of an element of its own core, optionally committing. -/
  | cfgk (f : Slot)
  /-- CFGK_FAR (R281): Stages A into a constant of an element of the core named by B. -/
  | cfgkFar (f : Slot)
  /-- MARK (R282): Passes a token with its tag replaced from B. -/
  | mark (f : Slot)
  /-- ERRT (R283): Forwards an ERR head to the region's repair element. -/
  | errt (f : Slot)
  /-- ERRT_MAKE (R283): Builds a software ERR token with cause 0x25. -/
  | errtMake (f : Slot)
  /-- REPAIR (R284): Replaces an ERR head with operand B pushed on OM. -/
  | repair (f : Slot)
  /-- REPAIR_BACK (R284): Replaces an ERR head with operand B reinjected at the originating element. -/
  | repairBack (f : Slot)
  /-- TRAP (R285): Takes a software precise trap, optionally recording A. -/
  | trap (f : Slot)
  /-- TIME (R286): Reads the package cycle counter. -/
  | time (f : Slot)
  /-- WHO (R286): Produces core, element, context, package and RID. -/
  | who (f : Slot)
  /-- TAGOF (R282): Produces the tag, kind, CRD and length of an operand. -/
  | tagof (f : Slot)
  /-- HDR (R287): Pushes an HDR token with a payload from A. -/
  | hdr (f : Slot)
  /-- SLD (R191): Loads lanes from a fixed scratchpad offset. -/
  | sld (f : Slot)
  /-- SST (R191): Stores A at a fixed scratchpad offset. -/
  | sst (f : Slot)
  /-- SLDS (R192): Affine scratchpad load from a generator. -/
  | slds (f : Slot)
  /-- SSTS (R192): Affine scratchpad store from a generator. -/
  | ssts (f : Slot)
  /-- SGTH (R193): Indexed scratchpad gather through a table. -/
  | sgth (f : Slot)
  /-- SSCT (R193): Indexed scratchpad scatter through a table. -/
  | ssct (f : Slot)
  /-- SAMO (R194): Indexed scratchpad atomic operation per lane. -/
  | samo (f : Slot)
  /-- PQIN (R196): Inserts coordinate entries into the priority queue. -/
  | pqin (f : Slot)
  /-- PQOUT (R197): Removes up to m qualifying entries from the priority queue, or an EOS when none qualify. -/
  | pqout (f : Slot)
  /-- SPND (R198): Tests pending bits of a line range into a state bit. -/
  | spnd (f : Slot)
  /-- SZERO (R198): Zeroes a range of scratchpad lines and clears their poison. -/
  | szero (f : Slot)
  /-- LDS (R192): Affine virtual-address load through the return buffer. -/
  | lds (f : Slot)
  /-- STS (R192): Affine virtual-address store. -/
  | sts (f : Slot)
  /-- LDX (R193): Indexed virtual-address gather through the return buffer. -/
  | ldx (f : Slot)
  /-- STX (R193): Indexed virtual-address scatter. -/
  | stx (f : Slot)
  /-- LDA (R201): Ordered load of one table lane, optionally writing an error predicate. -/
  | lda (f : Slot)
  /-- STA (R201): Ordered store of one table lane. -/
  | sta (f : Slot)
  /-- AMO (R194): Ordered atomic read-modify-write at the owning node. -/
  | amo (f : Slot)
  /-- MCST (R202): Stores A and sends copies as task packets to cluster members. -/
  | mcst (f : Slot)
  /-- PREF (R203): Requests memory-side cache fills, never faulting. -/
  | pref (f : Slot)
  /-- FENCE (R204): Orders the element's FAB accesses at a scope. -/
  | fence (f : Slot)
  /-- XFENCE (R205): Orders accesses of one class before accesses of another. -/
  | xfence (f : Slot)
  /-- DRAIN (R206): Waits for earlier writes of a class to a memory kind. -/
  | drain (f : Slot)
  /-- SWAIT (R208): Waits on a semaphore count condition or error and reads it. -/
  | swait (f : Slot)
  /-- SSIG (R209): Signals a semaphore of its own core. -/
  | ssig (f : Slot)
  /-- SINIT (R209): Initialises a semaphore count and clears its error. -/
  | sinit (f : Slot)
  /-- BINIT (R210): Initialises a named barrier's expectations. -/
  | binit (f : Slot)
  /-- BARV (R210): Adds arrivals to a named barrier. -/
  | barv (f : Slot)
  /-- BWAIT (R211): Waits for a named barrier's phase to change or its error. -/
  | bwait (f : Slot)
  /-- ECMD (R212): Offers a 64-byte command to an engine and lasts until it is accepted. -/
  | ecmd (f : Slot)
  /-- ERESP (R213): Takes the completion record of the oldest tracked command. -/
  | eresp (f : Slot)
  /-- MWLD (R301): Loads a row segment of a weight bank. -/
  | mwld (f : Slot)
  /-- MWSEL (R302): Selects the active weight bank. -/
  | mwsel (f : Slot)
  /-- MPASS (R305): Bit-serial pass of a ready row buffer over the active bank, with row intake. -/
  | mpass (f : Slot)
  /-- MPASS_FEED (R305): Bit-serial pass of a buffer filled by MFEED. -/
  | mpassFeed (f : Slot)
  /-- MZPC (R307): Applies weight zero-point corrections to the last pass. -/
  | mzpc (f : Slot)
  /-- MSCL (R303): Writes column scale, zero-point and exponent descriptors. -/
  | mscl (f : Slot)
  /-- MOUT (R308): Sends the column registers south as a partial row, optionally adding the PIN. -/
  | mout (f : Slot)
  /-- MCLR (R309): Clears column registers, sets XC and optionally empties buffers and PIN. -/
  | mclr (f : Slot)
  /-- MFEED (R306): Appends operand elements to the filling row buffer. -/
  | mfeed (f : Slot)
  /-- MSUMW (R304): Computes the column sums of a bank. -/
  | msumw (f : Slot)
  /-- MSTAT (R310): Reports the matrix element's status. -/
  | mstat (f : Slot)
  /-- ACHAIN (R329): Binds a chain register to a remote range, retrying until reserved. -/
  | achain (f : Slot)
  /-- ARSV (R328): Reserves an AM range of its own core. -/
  | arsv (f : Slot)
  /-- ASEND (R330): Sends packet lanes as contributions on a chain at the cursor. -/
  | asend (f : Slot)
  /-- ASEND_IDX (R330): Sends packet lanes as contributions on a chain at indexed offsets. -/
  | asendIdx (f : Slot)
  /-- ASEND_PIN (R330): Sends the PIN partial row as contributions on a chain. -/
  | asendPin (f : Slot)
  /-- AADD (R331): Adds data lanes to entries of its own core's AM. -/
  | aadd (f : Slot)
  /-- AADD_PIN (R331): Adds the PIN partial row to consecutive entries of its own AM. -/
  | aaddPin (f : Slot)
  /-- AWR (R333): Overwrites AM entries with aligned words. -/
  | awr (f : Slot)
  /-- ARD (R334): Reads and rounds AM entries. -/
  | ard (f : Slot)
  /-- AFLSH (R334): Streams out a range with a cursor, optionally clearing. -/
  | aflsh (f : Slot)
  /-- ACLR (R333): Zeroes a run of AM entries. -/
  | aclr (f : Slot)
  /-- AREL (R335): Releases a live range. -/
  | arel (f : Slot)
  /-- AWAIT (R336): Waits until a range reaches its expected count or error. -/
  | await (f : Slot)
  /-- AXS (R332): Forwards AM words of its own core on a chain, optionally clearing them. -/
  | axs (f : Slot)
  /-- COPY (R215): Engine copy of an n-dimensional source to a destination. -/
  | copy (c : Command)
  /-- COPYM (R117): Engine copy with each chunk written to every cluster member in the mask. -/
  | copym (c : Command)
  /-- COPYV (R215): Engine copy converting formats or forming MX blocks. -/
  | copyv (c : Command)
  /-- FILL (R216): Engine write of a repeated 8-byte pattern. -/
  | fill (c : Command)
  /-- CKSM (R216): Engine CRC-32C of a source written to a destination. -/
  | cksm (c : Command)
  /-- BINAP (R217): Appends update records to bushels. -/
  | binap (c : Command)
  /-- BINPL (R217): Replays bushels into regions staged in core memory. -/
  | binpl (c : Command)
  /-- CRED (R218): Collective reduction to a root through a WA128 range. -/
  | cred (c : Command)
  /-- CARD (R218): Collective all-reduce delivered to every member. -/
  | card (c : Command)
  /-- CAGA (R218): Collective all-gather. -/
  | caga (c : Command)
  /-- CBCS (R218): Collective broadcast or scatter from a root. -/
  | cbcs (c : Command)
  /-- LNCH (R386): Reads a task packet and delivers a child launch to a region controller. -/
  | lnch (c : Command)
  /-- NOPQ (R368): Queue packet that completes at once. -/
  | nopq (p : QPacket)
  /-- LAUNCH (R372): Queue packet that checks, places, loads and starts a launch. -/
  | launch (p : QPacket)
  /-- QUEUE_DELTA (R383): Queue packet that applies a configuration delta to a launch, holding current contexts. -/
  | queueDelta (p : QPacket)
  /-- COPYH (R368): Queue packet that issues a copy-family command to a core. -/
  | copyh (p : QPacket)
  /-- WAITQ (R370): Queue packet that waits for a condition on an 8-byte word. -/
  | waitq (p : QPacket)
  /-- SIGQ (R370): Queue packet that signals a semaphore or stores a word as a release. -/
  | sigq (p : QPacket)
  /-- FENCEQ (R380): Queue packet that waits for earlier packets and optionally releases a resident launch. -/
  | fenceq (p : QPacket)
  /-- CREATE (R423): Management operation creating a process with TCID, KIDs, fault ring and save pool. -/
  | create (m : MgmtPacket)
  /-- DESTROY (R421): Management operation removing a process and all its resources. -/
  | destroy (m : MgmtPacket)
  /-- MAPQ (R423): Management operation binding a host ring to a queue thread. -/
  | mapq (m : MgmtPacket)
  /-- UNMAPQ (R423): Management operation unbinding a host ring. -/
  | unmapq (m : MgmtPacket)
  /-- KEY (R423): Management operation writing a host key entry. -/
  | key (m : MgmtPacket)
  /-- THAW (R438): Management operation thawing a frozen master and retrying its access. -/
  | thaw (m : MgmtPacket)
  /-- DISCARD (R438): Management operation discarding a frozen master. -/
  | discard (m : MgmtPacket)
  /-- ENROLL (R423): Management operation installing or revoking an image key. -/
  | enroll (m : MgmtPacket)
  /-- DOMAIN (R423): Management operation writing peer route, window and measurement tables. -/
  | domain (m : MgmtPacket)
  /-- MAP (R423): Management operation writing leaf page-table entries. -/
  | map (m : MgmtPacket)
  /-- UNMAP (R423): Management operation removing leaf entries and invalidating translations. -/
  | unmap (m : MgmtPacket)
  /-- ATTEST (R436): Management operation returning a signed attestation report. -/
  | attest (m : MgmtPacket)
  /-- TELEM (R440): Management operation returning lifetime telemetry records. -/
  | telem (m : MgmtPacket)
  /-- MANAGEMENT_PACKET_MALFORMED (R422): A management packet with a reserved OP or bad fields is not performed, and a STATUS 3 reply is written. -/
  | managementPacketMalformed (m : MgmtPacket)
  /-- ENGINE_COMMAND_ACCEPT (R103): An engine accepts a command into its queue and marks pending scratchpad lines. -/
  | engineCommandAccept (core eng : Nat)
  /-- ENGINE_COMMAND_START (R106): A queued command starts once its WAIT condition is observed, or completes with wait error. -/
  | engineCommandStart (core eng : Nat)
  /-- ENGINE_CHUNK (R108): An engine translates, checks and performs one chunk of a command. -/
  | engineChunk (core eng idx : Nat)
  /-- ENGINE_COMMAND_COMPLETE (R107): A command completes, writing its completion record and signalling its semaphore. -/
  | engineCommandComplete (core eng idx : Nat)
  /-- LINK_TRANSFER (R125): A packet moves on a link, express link or bypass into a queue or register. -/
  | linkTransfer (key out : Nat)
  /-- HEADER_LATCH (R130): An HDR at the head of a latching input is latched and removed. -/
  | headerLatch (key inp : Nat)
  /-- JOIN_STEP (R132): The join unit consumes entries from its two inputs and builds joined packets. -/
  | joinStep (key : Nat)
  /-- SWITCH_WAVE (R151): An element acts on a switch wave, changing context and resetting state. -/
  | switchWave (key : Nat)
  /-- WITHY (R139): An element acts on a pre-emption marker and saves its state in place. -/
  | withy (key : Nat)
  /-- COMMIT_WAVE (R139): An element acts on a commit wave, applying staged constants. -/
  | commitWave (key : Nat)
  /-- RETURN_BUFFER_DRAIN (R199): The filled head entry of a stream element's return buffer moves to its output registers. -/
  | returnBufferDrain (key : Nat)
  /-- LOAD_DATA_RETURN (R199): Loaded data returns and fills a return-buffer entry. -/
  | loadDataReturn (n : Nat)
  /-- ROW_INTAKE (R295): A matrix element takes one A packet from qw into a row buffer. -/
  | rowIntake (key : Nat)
  /-- LOCAL_PORT_ACCEPT (R279): The region controller accepts one oy packet from an element of its core. -/
  | localPortAccept (key : Nat)
  /-- LOCAL_PORT_DELIVER (R279): The region controller passes a buffered packet to a qy, the task network or constant staging. -/
  | localPortDeliver (core : Nat)
  /-- TASK_DELIVER (R280): A destination picker delivers a waiting task packet through the binding table. -/
  | taskDeliver (core n : Nat)
  /-- CONTRIBUTION_ARRIVAL (R320): A contribution reaches its destination adders and is added or refused. -/
  | contributionArrival (n : Nat)
  /-- MARKER_ARRIVAL (R320): A chain marker increments its range's MRK. -/
  | markerArrival (n : Nat)
  /-- UNBIND_ARRIVAL (R320): An unbind decrements its range's BNDS. -/
  | unbindArrival (n : Nat)
  /-- BIND_REQUEST (R329): A region controller answers a chain bind request. -/
  | bindRequest (n : Nat)
  /-- BIND_ANSWER (R329): An AE receives a bind answer and loads, retries or traps. -/
  | bindAnswer (n : Nat)
  /-- BIND_RETRY (R329): A not-yet-reserved bind request is sent again 64 cycles later. -/
  | bindRetry (key chain : Nat)
  /-- REFUSAL_ARRIVAL (R337): A refusal reaches an AE and is written to its refusal record. -/
  | refusalArrival (n : Nat)
  /-- REFUSAL_TRAP (R337): In its first free cycle the AE traps with cause 0x44. -/
  | refusalTrap (key : Nat)
  /-- MEMORY_ACCESS (R34): The memory node accepts and performs an HBM access through its cache, cipher and ECC. -/
  | memoryAccess (n : Nat)
  /-- WAKE_COMPLETE (R32): A gated core finishes waking and the held traffic is delivered. -/
  | wakeComplete (core : Nat)
  /-- PENDING_LINE_TIMEOUT (R93): A pending bit set for 2^20 counted cycles stops the owning region. -/
  | pendingLineTimeout (core spad line : Nat)
  /-- DEADLOCK (R403): The detector count reaches WIN and the region traps with cause 0x50. -/
  | deadlock (core block : Nat)
  /-- LAUNCH_PLACEMENT (R365): A launch waiting for free cores is placed once cores become free. -/
  | launchPlacement (launch : Nat) (place : List Nat)
  /-- DELTA_APPLY (R383): Once every held element has stopped, the delta is checked and written and holds are released. -/
  | deltaApply (launch : Nat)
  /-- WAITQ_EVALUATE (R370): A write to the watched sector re-evaluates a waiting WAITQ. -/
  | waitqEvaluate (thread : Nat)
  /-- INVOCATION_COMPLETION (R377): Once all sinks report and its accesses are performed, the region counts residue, merges and goes idle. -/
  | invocationCompletion (core block : Nat)
  /-- CHILD_LAUNCH_RECEIVE (R386): A region controller checks a child task packet and queues or refuses it. -/
  | childLaunchReceive (n : Nat)
  /-- CHILD_START (R386): A queued child starts when its region is idle, with a switch wave and payload. -/
  | childStart (core block : Nat)
  /-- CUT_COMPLETE (R405): Every element has acted and markers match, so clocks are gated and the region is saved. -/
  | cutComplete (core block : Nat)
  /-- CUT_OVERDUE (R407): A cut not complete after 65,536 cycles stops the region with cause 0x53. -/
  | cutOverdue (core block : Nat)
  /-- TRANSLATION_WALK (R51): A hardware walker completes a page-table walk for a TLB miss. -/
  | translationWalk (walker : Walker) (va : Nat)
  /-- PATROL_SCRUB (R42): The patrol scrub reads and corrects sectors of the stacks. -/
  | patrolScrub (sector : Nat)
  /-- WAKE_FAILURE (R401): A failed wake fails each held access and stops issuing regions asynchronously. -/
  | wakeFailure (core : Nat)
  /-- STATE_STORAGE_ERROR (R401): An uncorrectable soft error in element storage stops the region asynchronously. -/
  | stateStorageError (core elem unit : Nat)
  /-- WINDOW_WRITE (R26): A write to a window or control register without behaviour of its own, checked under R26 and R27. -/
  | windowWrite (w : WinAccess)
  /-- CONSTANT_WRITE (R29): A write to a constant register stages bytes and poison until the next commit. -/
  | constantWrite (w : WinAccess)
  /-- DESCRIPTOR_WRITE (R23): A write to a data-file descriptor sets length, width and poison. -/
  | descriptorWrite (w : WinAccess)
  /-- CONTEXT_IMAGE_WRITE (R172): A write to a context image clears that context's loaded flag. -/
  | contextImageWrite (w : WinAccess)
  /-- AM_WINDOW_WRITE (R31): A window write overwrites a whole AM entry. -/
  | amWindowWrite (w : WinAccess)
  /-- SEMAPHORE_WRITE (R112): A window write replaces all or the low half of a semaphore. -/
  | semaphoreWrite (w : WinAccess)
  /-- SEMAPHORE_ATOMIC_ADD (R112): A window atomic add signals a semaphore. -/
  | semaphoreAtomicAdd (w : WinAccess)
  /-- BARRIER_ARRIVAL_ADD (R115): A window atomic add at offset 4 adds arrivals to a named barrier. -/
  | barrierArrivalAdd (w : WinAccess)
  /-- BARRIER_BYTE_ADD (R115): A window atomic add at offset 12 performs a byte arrival on a named barrier. -/
  | barrierByteAdd (w : WinAccess)
  /-- CONFIGURATION_LOAD (R171): Checks and writes an image's headers, routing words, slots and constants. -/
  | configurationLoad (core : Nat) (img : List ImageElem)
  /-- TLB_INVALIDATE (R52): Foreveder invalidates translations of a TCID and range. -/
  | tlbInvalidate (tcid lo hi : Nat)
  /-- KID_PURGE (R45): A node writes back and invalidates every line of a KID. -/
  | kidPurge (die kid : Nat)
  /-- KEY_SLOT_WRITE (R44): The security root writes a key slot on all four dies. -/
  | keySlotWrite (kid : Nat)
  /-- ORDERING_CONTROL_WRITE (R353): Foreveder writes CONS, setting BUSY and propagating the new mode. -/
  | orderingControlWrite (v : Bool)
  /-- CONS_CHANGE_COMPLETE (R353): Every element has adopted the new CONS value and BUSY clears. -/
  | consChangeComplete
  /-- QUEUE_DOORBELL (R367): A write to a mapped queue's WIX wakes its thread. -/
  | queueDoorbell (thread : Nat)
  /-- RUN_LIST_TURN (R371): At quantum expiry Foreveder maps the incoming process's queues and unmaps the outgoing ones. -/
  | runListTurn
  /-- PRE_EMPT (R405): Region operation 1: closes the set, injects withies and drains to a cut. -/
  | preEmpt (core block : Nat)
  /-- RESUME (R399): Region operation 2: clears the trap and releases every stop. -/
  | resume (core block : Nat)
  /-- RESUME_SKIPPING (R399): Region operation 3: resumes with each trapping TRAP firing popped and its state applied. -/
  | resumeSkipping (core block : Nat)
  /-- REGION_DISCARD (R400): Region operation 4: ends the region, sets errors on its semaphores and barriers and merges. -/
  | regionDiscard (core block : Nat)
  /-- RESTORE (R414): Region operation 5: checks and writes saved state onto a rectangle and resumes. -/
  | restore (save core row col : Nat)
  /-- RDMA_WRITE (R417): A host RDMA WRITE checked against the host key table and performed. -/
  | rdmaWrite (qp : Nat) (rkey : BitVec 32) (va : Nat) (data : List Byte)
  /-- RDMA_READ (R419): A host RDMA READ checked and answered sector by sector. -/
  | rdmaRead (qp : Nat) (rkey : BitVec 32) (va len : Nat)
  /-- RDMA_INVALID_REQUEST (R416): Any other RDMA operation is answered with an invalid-request NAK. -/
  | rdmaInvalidRequest (qp : Nat)
  /-- CNP_RECEIVE (R416): A congestion notification rate-limits the device's responses. -/
  | cnpReceive (qp : Nat)
  /-- MKA_EXCHANGE (R415): A MACsec key agreement frame establishes link keys. -/
  | mkaExchange (port : Nat) (frame : List Byte)
  /-- DAXARA_DATA_FRAME (R425): A peer data frame is accepted in sequence or dropped with a NAK. -/
  | daxaraDataFrame (port : Nat) (fr : Frame)
  /-- DAXARA_ACK (R425): An acknowledgement frees replay buffer entries. -/
  | daxaraAck (port ack : Nat)
  /-- DAXARA_NAK (R425): A NAK makes the sender resend from the expected number. -/
  | daxaraNak (port ack : Nat)
  /-- DAXARA_CREDIT (R426): A credit frame returns buffer space per VC. -/
  | daxaraCredit (port : Nat) (credits : List Nat)
  /-- REPLAY_TIMEOUT (R425): No acknowledgement within 20 µs makes the sender resend from its oldest frame. -/
  | replayTimeout (port : Nat)
  /-- LINK_RETRAIN (R425): After 16 resends without progress the link retrains. -/
  | linkRetrain (port : Nat)
  /-- LINK_FAILED (R425): A link not retrained within 1 ms fails, and its requests complete with cause 0x51. -/
  | linkFailed (port : Nat)
  /-- PEER_ATTESTATION (R428): Mutual attestation with a neighbour admits a port to the domain. -/
  | peerAttestation (port : Nat) (report : List Byte)
  /-- PEER_REQUEST (R429): An inbound peer request is checked against the peer window table and R27. -/
  | peerRequest (r : PeerReq)
  /-- PEER_REFUSAL (R429): A refusal from another package freezes the issuer with cause 0x52. -/
  | peerRefusal (r : PeerReq)
  /-- BOOT (R431): At reset the security root verifies and starts the firmware or enters recovery. -/
  | boot
  /-- TELEMETRY_UPDATE (R440): Lifetime telemetry records are updated in non-volatile memory. -/
  | telemetryUpdate (rec : Nat) (counts : BitVec 512)
  /-- CLOCK_THROTTLE (R442): Above the power cap or 105 °C Foreveder lowers the fabric clock. -/
  | clockThrottle
  /-- EMERGENCY_STOP (R442): At 115 °C or a supply fault every running region stops with cause 0x56. -/
  | emergencyStop
  /-- CORE_POWER_GATING (R32): A core enters the power-gated state from which held traffic later wakes it. -/
  | corePowerGating (core : Nat)
  /-- CLOCK_RESTORE (R442): The fabric clock returns from a throttled frequency towards 2.25 GHz once power and temperature are back within limits. -/
  | clockRestore
  /-- PRIORITY_FLOW_CONTROL (R415): A received IEEE 802.1Qbb pause frame on the configured priority pauses or resumes host-port transmission. -/
  | priorityFlowControl (pause : Bool)
  /-- MACSEC_DROP (R415): A frame without MACsec, or whose integrity check fails, is discarded and counted. -/
  | macsecDrop (port : Nat)
  /-- OWNER_KEY_PROVISIONING (R434): The owner keys are installed once, through a firmware-verified provisioning step, into non-volatile memory. -/
  | ownerKeyProvisioning (ecdsa : List Byte) (hss : List Byte)
  /-- POWER_LOSS (R440): Loss of power stops the device; telemetry may lose up to its last 60 s and an HSS leaf may be skipped. -/
  | powerLoss
  deriving DecidableEq, Repr

end Sys2Proof
end

