-- ==== Sys2Proof/Config.lean ====
section
/-! DEFINITION. What the spec leaves to the implementation or to mathematics it only names: free values (log 4), keys,
signatures of the device and formats (logs 7, 8). Each is a constant without a body: no proof can see its value. -/

namespace Sys2Proof

/-- A value the spec leaves open, fresh for each number (log 4). -/
opaque Config.freeValue : Nat → BitVec 256

/-- The key that the security root draws from its random generator (spec 18 R437, log 7). -/
opaque Config.randomKey : Nat → BitVec 512

/-- The signature pair that the device makes over a message with its own keys, given the leaf number (spec 18 R435, log 8). -/
opaque Config.deviceSign : Nat → List Byte → List Byte

/-- The Azdal keys fused into the device, ECDSA then HSS (spec 18 R431, R434, log 8). -/
opaque Config.azdalEcdsa : List Byte
opaque Config.azdalHss : List Byte

/-- The security version a firmware image carries and the length of its signed part (spec 18 R431, log 8). -/
opaque Config.firmwareVersion : List Byte → Nat
opaque Config.firmwareBody : List Byte → List Byte
opaque Config.firmwareEcdsa : List Byte → List Byte
opaque Config.firmwareHss : List Byte → List Byte

/-- The flits that carry a request, an answer and a refusal: their bits have no layout in the spec (18 R424, R429, log 34). -/
opaque Config.requestFlits : PeerReq → List Byte
opaque Config.answerFlits : PeerReq → List Byte → BitVec 2 → List Byte
opaque Config.refusalFlits : PeerReq → List Byte

/-- The answers that flits received on a response channel carry (spec 18 R424, log 34). -/
opaque Config.answersOf : List Byte → List PeerAnswer

/-- Whether a MACsec key agreement frame is accepted on a port (spec 18 R415, R428, log 8). -/
opaque Config.mkaAccepts : Nat → List Byte → Bool

/-- Whether a neighbour's attestation report is signed by a device that the Azdal keys certify (spec 18 R428, R435, log 8). -/
opaque Config.reportGenuine : List Byte → Bool

/-- The device's own public keys, ECDSA then HSS: made at manufacture (spec 18 R435, log 8). -/
opaque Config.deviceEcdsa : List Byte
opaque Config.deviceHss : List Byte

end Sys2Proof
end

