-- ==== Sys2Proof/WellFormed.lean ====
section
/-! DEFINITION. What the encoding of each operation accepts: the encoding rows of the instruction chapters (spec 09 R185, 10 R223,
11 R242, 12 R265, 13 R298, 14 R323) and the checks of spec 08 R168, R169 that need no context; Machine/LoadCheck.lean holds those
that need the context, the element's type or its neighbours. -/

namespace Sys2Proof

/-- The MOD classes of spec 08 R169. -/
inductive SlotClass where
  | n | l | c | o | s | x
  deriving DecidableEq, Repr

/-- One row of an encoding table: opcode, class, the selectors A and B accept (bit i for code i; 0 where the selector is not read),
whether d and push may be set, MOD and IMM bits the row assigns beyond its class, orderings accepted (bit i for code i), and the
MOD bits that fix the row's mode with their value. -/
structure EncRow where
  op : Nat
  cls : SlotClass
  aSel : Nat
  bSel : Nat
  dest : Bool
  push : Bool
  md : Nat
  imm : Nat
  ords : Nat
  fixMask : Nat
  fixVal : Nat
  deriving DecidableEq, Repr

/-- The encoding row of an element instruction; none for commands, packets and events. -/
def Instr.encRow : Instr → Option EncRow
  | .nop _ => some ⟨0x00, .n, 0x00, 0x00, false, false, 0, 0x0000, 15, 0, 0⟩
  | .add _ => some ⟨0x01, .l, 0xFF, 0xFF, true, true, 0, 0x0000, 15, 0, 0⟩
  | .sub _ => some ⟨0x02, .l, 0xFF, 0xFF, true, true, 0, 0x0000, 15, 0, 0⟩
  | .adds _ => some ⟨0x03, .l, 0xFF, 0xFF, true, true, 0, 0x0000, 15, 0, 0⟩
  | .subs _ => some ⟨0x04, .l, 0xFF, 0xFF, true, true, 0, 0x0000, 15, 0, 0⟩
  | .mul _ => some ⟨0x05, .l, 0xFF, 0xFF, true, true, 0, 0x0000, 15, 0, 0⟩
  | .mulh _ => some ⟨0x06, .l, 0xFF, 0xFF, true, true, 0, 0x0000, 15, 0, 0⟩
  | .mulhn _ => some ⟨0x07, .l, 0xFF, 0xFF, true, true, 0, 0x0000, 15, 0, 0⟩
  | .madd _ => some ⟨0x08, .l, 0xFF, 0xFF, true, true, 0, 0x0000, 15, 0, 0⟩
  | .abs _ => some ⟨0x09, .l, 0xFF, 0x00, true, true, 1, 0x0000, 15, 0, 0⟩
  | .neg _ => some ⟨0x0A, .l, 0xFF, 0x00, true, true, 1, 0x0000, 15, 0, 0⟩
  | .min _ => some ⟨0x0B, .l, 0xFF, 0xFF, true, true, 0, 0x0000, 15, 0, 0⟩
  | .max _ => some ⟨0x0C, .l, 0xFF, 0xFF, true, true, 0, 0x0000, 15, 0, 0⟩
  | .minn _ => some ⟨0x0D, .l, 0xFF, 0xFF, true, true, 0, 0x0000, 15, 0, 0⟩
  | .maxn _ => some ⟨0x0E, .l, 0xFF, 0xFF, true, true, 0, 0x0000, 15, 0, 0⟩
  | .and _ => some ⟨0x0F, .l, 0xFF, 0xFF, true, true, 0, 0x0000, 15, 0, 0⟩
  | .or _ => some ⟨0x10, .l, 0xFF, 0xFF, true, true, 0, 0x0000, 15, 0, 0⟩
  | .xor _ => some ⟨0x11, .l, 0xFF, 0xFF, true, true, 0, 0x0000, 15, 0, 0⟩
  | .andn _ => some ⟨0x12, .l, 0xFF, 0xFF, true, true, 0, 0x0000, 15, 0, 0⟩
  | .shl _ => some ⟨0x13, .l, 0xFF, 0xFF, true, true, 0, 0x0000, 15, 0, 0⟩
  | .shr _ => some ⟨0x14, .l, 0xFF, 0xFF, true, true, 0, 0x0000, 15, 0, 0⟩
  | .sha _ => some ⟨0x15, .l, 0xFF, 0xFF, true, true, 0, 0x0000, 15, 0, 0⟩
  | .rol _ => some ⟨0x16, .l, 0xFF, 0xFF, true, true, 0, 0x0000, 15, 0, 0⟩
  | .clz _ => some ⟨0x17, .l, 0xFF, 0x00, true, true, 0, 0x0000, 15, 0, 0⟩
  | .ctz _ => some ⟨0x18, .l, 0xFF, 0x00, true, true, 0, 0x0000, 15, 0, 0⟩
  | .popc _ => some ⟨0x19, .l, 0xFF, 0x00, true, true, 0, 0x0000, 15, 0, 0⟩
  | .brev _ => some ⟨0x1A, .l, 0xFF, 0x00, true, true, 0, 0x0000, 15, 0, 0⟩
  | .biti _ => some ⟨0x1B, .s, 0x7F, 0x00, true, true, 1, 0x01F0, 15, 0, 0⟩
  | .bitd _ => some ⟨0x1C, .s, 0x7F, 0x00, true, true, 1, 0x01F0, 15, 0, 0⟩
  | .bfx _ => some ⟨0x1D, .s, 0x7F, 0x00, true, true, 1, 0xFFF0, 15, 0, 0⟩
  | .bfi _ => some ⟨0x1E, .s, 0x7F, 0x7F, true, true, 0, 0xFFF0, 15, 0, 0⟩
  | .cmpeq _ => some ⟨0x1F, .c, 0xFF, 0xFF, true, true, 0, 0x0000, 15, 0, 0⟩
  | .cmpne _ => some ⟨0x20, .c, 0xFF, 0xFF, true, true, 0, 0x0000, 15, 0, 0⟩
  | .cmplt _ => some ⟨0x21, .c, 0xFF, 0xFF, true, true, 0, 0x0000, 15, 0, 0⟩
  | .cmpltn _ => some ⟨0x22, .c, 0xFF, 0xFF, true, true, 0, 0x0000, 15, 0, 0⟩
  | .cmple _ => some ⟨0x23, .c, 0xFF, 0xFF, true, true, 0, 0x0000, 15, 0, 0⟩
  | .cmplen _ => some ⟨0x24, .c, 0xFF, 0xFF, true, true, 0, 0x0000, 15, 0, 0⟩
  | .sel _ => some ⟨0x25, .l, 0xFF, 0xFF, true, true, 0, 0xE000, 15, 1, 0⟩
  | .selLane _ => some ⟨0x25, .l, 0xFF, 0xFF, true, true, 1, 0x0000, 15, 1, 1⟩
  | .mov _ => some ⟨0x26, .l, 0xFF, 0x00, true, true, 0, 0x0000, 15, 0, 0⟩
  | .movi _ => some ⟨0x27, .s, 0x3F, 0x00, true, true, 3, 0xFFFF, 15, 0, 0⟩
  | .movh _ => some ⟨0x28, .l, 0xFF, 0xFF, true, true, 0, 0x0000, 15, 0, 0⟩
  | .movx _ => some ⟨0x29, .s, 0x7F, 0x00, true, true, 0, 0x0000, 15, 1, 0⟩
  | .movxLane _ => some ⟨0x29, .s, 0x7F, 0x7F, true, true, 1, 0x0000, 15, 1, 1⟩
  | .movxw _ => some ⟨0x2A, .s, 0x7F, 0x7F, true, true, 0, 0x0000, 15, 1, 0⟩
  | .movxwLane _ => some ⟨0x2A, .s, 0x7F, 0x7F, true, true, 1, 0x0000, 15, 1, 1⟩
  | .shuf _ => some ⟨0x2B, .s, 0x3F, 0x00, true, true, 1, 0xFFFF, 15, 0, 0⟩
  | .bcast _ => some ⟨0x2C, .s, 0x7F, 0x00, true, true, 0, 0x03F0, 15, 0, 0⟩
  | .extl _ => some ⟨0x2D, .s, 0x7F, 0x00, true, true, 0, 0x0070, 15, 0, 0⟩
  | .insl _ => some ⟨0x2E, .s, 0x7F, 0x7F, true, true, 0, 0x0070, 15, 0, 0⟩
  | .pack _ => some ⟨0x2F, .s, 0x7F, 0x00, true, true, 1, 0x01F0, 15, 0, 0⟩
  | .unpk _ => some ⟨0x30, .s, 0x7F, 0x00, true, true, 0, 0x01F0, 15, 0, 0⟩
  | .reda _ => some ⟨0x31, .s, 0x7F, 0x00, true, true, 1, 0x0000, 15, 0, 0⟩
  | .redm _ => some ⟨0x32, .s, 0x7F, 0x00, true, true, 3, 0x0000, 15, 0, 0⟩
  | .scana _ => some ⟨0x33, .s, 0x7F, 0x00, true, true, 3, 0x0000, 15, 0, 0⟩
  | .len _ => some ⟨0x34, .s, 0x3F, 0x00, true, true, 0, 0x0000, 15, 0, 0⟩
  | .setlen _ => some ⟨0x35, .s, 0x7F, 0x00, true, true, 0, 0x0070, 15, 0, 0⟩
  | .fadd _ => some ⟨0x40, .l, 0xFF, 0xFF, true, true, 0, 0x0000, 15, 0, 0⟩
  | .fsub _ => some ⟨0x41, .l, 0xFF, 0xFF, true, true, 0, 0x0000, 15, 0, 0⟩
  | .fmul _ => some ⟨0x42, .l, 0xFF, 0xFF, true, true, 0, 0x0000, 15, 0, 0⟩
  | .ffma _ => some ⟨0x43, .l, 0xFF, 0xFF, true, true, 0, 0x0000, 15, 0, 0⟩
  | .ffms _ => some ⟨0x44, .l, 0xFF, 0xFF, true, true, 0, 0x0000, 15, 0, 0⟩
  | .fnma _ => some ⟨0x45, .l, 0xFF, 0xFF, true, true, 0, 0x0000, 15, 0, 0⟩
  | .fmin _ => some ⟨0x46, .l, 0xFF, 0xFF, true, true, 0, 0x0000, 15, 0, 0⟩
  | .fmax _ => some ⟨0x47, .l, 0xFF, 0xFF, true, true, 0, 0x0000, 15, 0, 0⟩
  | .fabs _ => some ⟨0x48, .l, 0xFF, 0x00, true, true, 0, 0x0000, 15, 0, 0⟩
  | .fneg _ => some ⟨0x49, .l, 0xFF, 0x00, true, true, 0, 0x0000, 15, 0, 0⟩
  | .fcpys _ => some ⟨0x4A, .l, 0xFF, 0xFF, true, true, 0, 0x0000, 15, 0, 0⟩
  | .fcmpeq _ => some ⟨0x4B, .c, 0xFF, 0xFF, true, true, 0, 0x0000, 15, 0, 0⟩
  | .fcmplt _ => some ⟨0x4C, .c, 0xFF, 0xFF, true, true, 0, 0x0000, 15, 0, 0⟩
  | .fcmple _ => some ⟨0x4D, .c, 0xFF, 0xFF, true, true, 0, 0x0000, 15, 0, 0⟩
  | .fcmpun _ => some ⟨0x4E, .c, 0xFF, 0xFF, true, true, 0, 0x0000, 15, 0, 0⟩
  | .fclass _ => some ⟨0x4F, .l, 0xFF, 0x00, true, true, 0, 0x0000, 15, 0, 0⟩
  | .fcvt _ => some ⟨0x50, .s, 0x7F, 0x00, true, true, 0, 0x01F0, 15, 0, 0⟩
  | .fcvti _ => some ⟨0x51, .s, 0x7F, 0x00, true, true, 0, 0x01F0, 15, 0, 0⟩
  | .icvtf _ => some ⟨0x52, .s, 0x7F, 0x00, true, true, 0, 0x01F0, 15, 0, 0⟩
  | .frnd _ => some ⟨0x53, .l, 0xFF, 0x00, true, true, 0, 0x0000, 15, 0, 0⟩
  | .frcpe _ => some ⟨0x54, .l, 0xFF, 0x00, true, true, 0, 0x0000, 15, 0, 0⟩
  | .frsqe _ => some ⟨0x55, .l, 0xFF, 0x00, true, true, 0, 0x0000, 15, 0, 0⟩
  | .fscl _ => some ⟨0x56, .l, 0xFF, 0xFF, true, true, 0, 0x0000, 15, 0, 0⟩
  | .fexpt _ => some ⟨0x57, .l, 0xFF, 0x00, true, true, 0, 0x0000, 15, 0, 0⟩
  | .freda _ => some ⟨0x58, .s, 0x7F, 0x00, true, true, 0, 0x0000, 15, 0, 0⟩
  | .fdot _ => some ⟨0x59, .s, 0x7F, 0x7F, true, true, 1, 0x0000, 15, 0, 0⟩
  | .falgn _ => some ⟨0x5A, .s, 0x7F, 0xFF, true, true, 0, 0x0000, 15, 3, 0⟩
  | .falgnExp _ => some ⟨0x5A, .s, 0x7F, 0x00, true, true, 3, 0x0000, 15, 3, 1⟩
  | .falgnHdr _ => some ⟨0x5A, .s, 0x00, 0x7F, false, true, 3, 0xFF80, 15, 3, 2⟩
  | .lute _ => some ⟨0x60, .l, 0xFF, 0x00, true, true, 1, 0x0000, 15, 0, 0⟩
  | .luti _ => some ⟨0x61, .s, 0x7F, 0x00, true, true, 1, 0x0000, 15, 0, 0⟩
  | .lutw _ => some ⟨0x62, .s, 0x7F, 0xFF, false, false, 0, 0x0000, 15, 0, 0⟩
  | .rred _ => some ⟨0x63, .s, 0x7F, 0x00, true, true, 7, 0x0000, 15, 0, 0⟩
  | .rcomb _ => some ⟨0x64, .s, 0x7F, 0x00, true, true, 3, 0x0000, 15, 0, 0⟩
  | .lclamp _ => some ⟨0x65, .s, 0x7F, 0x7F, true, true, 0, 0x0000, 15, 0, 0⟩
  | .pass _ => some ⟨0x70, .s, 0x7F, 0x00, true, true, 1, 0x0000, 15, 0, 0⟩
  | .drop _ => some ⟨0x71, .s, 0x10, 0x21, false, false, 1, 0x0000, 15, 0, 0⟩
  | .emit _ => some ⟨0x72, .s, 0xCF, 0x00, true, true, 0, 0x0380, 15, 0, 0⟩
  | .eose _ => some ⟨0x73, .s, 0x10, 0x00, false, true, 1, 0x0007, 15, 0, 0⟩
  | .steer _ => some ⟨0x74, .s, 0x7F, 0x00, false, true, 2, 0xE000, 15, 1, 0⟩
  | .steerData _ => some ⟨0x74, .s, 0x7F, 0x7F, false, true, 3, 0x0000, 15, 1, 1⟩
  | .merge _ => some ⟨0x75, .s, 0x10, 0x00, false, true, 0, 0x0000, 15, 0, 0⟩
  | .split _ => some ⟨0x76, .s, 0x10, 0x00, false, true, 0, 0x0007, 15, 0, 0⟩
  | .carry _ => some ⟨0x77, .s, 0x10, 0x20, false, true, 0, 0x0007, 15, 0, 0⟩
  | .delay _ => some ⟨0x78, .s, 0x10, 0xCF, true, true, 7, 0x0000, 15, 0, 0⟩
  | .delta _ => some ⟨0x79, .s, 0x10, 0x40, false, true, 0, 0x0300, 15, 0, 0⟩
  | .count _ => some ⟨0x7A, .s, 0x10, 0x00, false, true, 1, 0x0007, 15, 0, 0⟩
  | .sink _ => some ⟨0x7B, .s, 0x10, 0x00, false, false, 0, 0xFFFF, 15, 0, 0⟩
  | .tsend _ => some ⟨0x7C, .s, 0x7F, 0x00, false, true, 0, 0x07F0, 15, 1, 0⟩
  | .tsendFar _ => some ⟨0x7C, .s, 0x7F, 0x7F, false, true, 1, 0x07F0, 15, 1, 1⟩
  | .cfgk _ => some ⟨0x7D, .s, 0x7F, 0x00, false, true, 2, 0x1FF0, 15, 1, 0⟩
  | .cfgkFar _ => some ⟨0x7D, .s, 0x7F, 0x7F, false, true, 3, 0x1FF0, 15, 1, 1⟩
  | .mark _ => some ⟨0x7E, .s, 0x7F, 0xFF, true, true, 0, 0x0000, 15, 0, 0⟩
  | .errt _ => some ⟨0x7F, .s, 0x10, 0x00, false, true, 0, 0x0000, 15, 1, 0⟩
  | .errtMake _ => some ⟨0x7F, .s, 0xFF, 0x00, false, true, 1, 0x0000, 15, 1, 1⟩
  | .repair _ => some ⟨0x80, .s, 0x10, 0xFF, false, true, 0, 0x0000, 15, 1, 0⟩
  | .repairBack _ => some ⟨0x80, .s, 0x10, 0xFF, false, true, 1, 0x0000, 15, 1, 1⟩
  | .trap _ => some ⟨0x81, .s, 0x7F, 0x00, false, false, 1, 0x0070, 15, 0, 0⟩
  | .time _ => some ⟨0x82, .s, 0x00, 0x00, true, true, 0, 0x0000, 15, 0, 0⟩
  | .who _ => some ⟨0x83, .s, 0x00, 0x00, true, true, 0, 0x0000, 15, 0, 0⟩
  | .tagof _ => some ⟨0x84, .s, 0x3F, 0x00, true, true, 0, 0x0000, 15, 0, 0⟩
  | .hdr _ => some ⟨0x85, .s, 0xFF, 0x00, false, true, 0, 0x0000, 15, 0, 0⟩
  | .sld _ => some ⟨0x90, .s, 0x00, 0x00, true, true, 7, 0x7FFF, 15, 0, 0⟩
  | .sst _ => some ⟨0x91, .s, 0x3F, 0x00, false, false, 0, 0x7FFF, 15, 0, 0⟩
  | .slds _ => some ⟨0x92, .s, 0x00, 0x00, true, true, 3, 0x1F00, 15, 0, 0⟩
  | .ssts _ => some ⟨0x93, .s, 0x7F, 0x00, false, false, 3, 0x1F00, 15, 0, 0⟩
  | .sgth _ => some ⟨0x94, .s, 0x7F, 0x00, true, true, 0, 0x0300, 15, 0, 0⟩
  | .ssct _ => some ⟨0x95, .s, 0x7F, 0x7F, false, false, 0, 0x0300, 15, 0, 0⟩
  | .samo _ => some ⟨0x96, .s, 0x7F, 0x7F, true, true, 0, 0x03F0, 15, 0, 0⟩
  | .pqin _ => some ⟨0x97, .s, 0x3F, 0x00, false, false, 0, 0x0000, 15, 0, 0⟩
  | .pqout _ => some ⟨0x98, .s, 0x00, 0x7F, true, true, 3, 0x0030, 15, 0, 0⟩
  | .spnd _ => some ⟨0x99, .s, 0x00, 0x00, false, false, 0, 0xFFFF, 15, 0, 0⟩
  | .szero _ => some ⟨0x9A, .s, 0x00, 0x00, false, false, 0, 0x1FFF, 15, 0, 0⟩
  | .lds _ => some ⟨0x9B, .s, 0x00, 0x00, false, true, 3, 0x1F00, 15, 0, 0⟩
  | .sts _ => some ⟨0x9C, .s, 0x7F, 0x00, false, false, 3, 0x1F00, 15, 0, 0⟩
  | .ldx _ => some ⟨0x9D, .s, 0x7F, 0x00, false, true, 0, 0x0300, 15, 0, 0⟩
  | .stx _ => some ⟨0x9E, .s, 0x7F, 0x7F, false, false, 0, 0x0300, 15, 0, 0⟩
  | .lda _ => some ⟨0x9F, .o, 0x7F, 0x00, true, true, 4, 0x1F00, 11, 0, 0⟩
  | .sta _ => some ⟨0xA0, .o, 0x7F, 0x7F, false, false, 0, 0x0300, 13, 0, 0⟩
  | .amo _ => some ⟨0xA1, .o, 0x7F, 0x7F, true, true, 4, 0x1FF0, 15, 0, 0⟩
  | .mcst _ => some ⟨0xA2, .o, 0x3F, 0x3F, false, false, 0, 0x0300, 5, 0, 0⟩
  | .pref _ => some ⟨0xA3, .s, 0x7F, 0x00, false, false, 0, 0x0300, 15, 0, 0⟩
  | .fence _ => some ⟨0xB0, .o, 0x00, 0x00, false, false, 0, 0x0000, 14, 0, 0⟩
  | .xfence _ => some ⟨0xB1, .o, 0x00, 0x00, false, false, 0, 0x0077, 1, 0, 0⟩
  | .drain _ => some ⟨0xB2, .s, 0x00, 0x00, false, false, 0, 0x0077, 15, 0, 0⟩
  | .swait _ => some ⟨0xB3, .o, 0x7F, 0x00, true, true, 4, 0x1FFC, 3, 0, 0⟩
  | .ssig _ => some ⟨0xB4, .o, 0x7F, 0x00, false, false, 0, 0x1FE0, 5, 0, 0⟩
  | .sinit _ => some ⟨0xB5, .o, 0x7F, 0x00, false, false, 0, 0x1FE0, 5, 0, 0⟩
  | .binit _ => some ⟨0xB6, .o, 0x7F, 0x00, false, false, 0, 0x1FFC, 5, 0, 0⟩
  | .barv _ => some ⟨0xB7, .o, 0x7F, 0x00, false, false, 0, 0x1FFC, 5, 0, 0⟩
  | .bwait _ => some ⟨0xB8, .o, 0x7F, 0x00, true, true, 12, 0x1FFC, 3, 0, 0⟩
  | .ecmd _ => some ⟨0xB9, .s, 0x7F, 0x7F, false, false, 1, 0x0000, 15, 0, 0⟩
  | .eresp _ => some ⟨0xBA, .o, 0x00, 0x00, true, true, 4, 0x1C00, 3, 0, 0⟩
  | .mwld _ => some ⟨0xC0, .s, 0x3F, 0x3F, false, false, 15, 0x7FFF, 15, 0, 0⟩
  | .mwsel _ => some ⟨0xC1, .s, 0x00, 0x00, false, false, 0, 0x0003, 15, 0, 0⟩
  | .mpass _ => some ⟨0xC2, .s, 0x00, 0x00, false, false, 2, 0x0000, 15, 1, 0⟩
  | .mpassFeed _ => some ⟨0xC2, .s, 0x00, 0x00, false, false, 3, 0x0000, 15, 1, 1⟩
  | .mzpc _ => some ⟨0xC3, .s, 0x00, 0x00, false, false, 0, 0x0000, 15, 0, 0⟩
  | .mscl _ => some ⟨0xC4, .s, 0x3F, 0x00, false, false, 0, 0x7F0F, 15, 0, 0⟩
  | .mout _ => some ⟨0xC5, .s, 0x00, 0x00, false, false, 1, 0x0000, 15, 0, 0⟩
  | .mclr _ => some ⟨0xC6, .s, 0x00, 0x00, false, false, 3, 0x01FF, 15, 0, 0⟩
  | .mfeed _ => some ⟨0xC7, .s, 0xFF, 0x00, false, false, 1, 0x0000, 15, 0, 0⟩
  | .msumw _ => some ⟨0xC8, .s, 0x00, 0x00, false, false, 0, 0x0003, 15, 0, 0⟩
  | .mstat _ => some ⟨0xC9, .s, 0x00, 0x00, true, true, 0, 0x0000, 15, 0, 0⟩
  | .achain _ => some ⟨0xD0, .s, 0x7F, 0x00, false, false, 0, 0x0010, 15, 0, 0⟩
  | .arsv _ => some ⟨0xD1, .s, 0x7F, 0x00, false, false, 0, 0x0000, 15, 0, 0⟩
  | .asend _ => some ⟨0xD2, .s, 0x7F, 0x00, false, false, 0, 0x0010, 15, 3, 0⟩
  | .asendIdx _ => some ⟨0xD2, .s, 0x7F, 0x7F, false, false, 3, 0x0010, 15, 3, 1⟩
  | .asendPin _ => some ⟨0xD2, .s, 0x00, 0x00, false, false, 3, 0x0010, 15, 3, 2⟩
  | .aadd _ => some ⟨0xD3, .s, 0x7F, 0x7F, false, false, 0, 0x0000, 15, 1, 0⟩
  | .aaddPin _ => some ⟨0xD3, .s, 0x00, 0x7F, false, false, 1, 0x0000, 15, 1, 1⟩
  | .awr _ => some ⟨0xD4, .s, 0x7F, 0x7F, false, false, 0, 0x1FF0, 15, 0, 0⟩
  | .ard _ => some ⟨0xD5, .x, 0x7F, 0x00, true, true, 0, 0x0000, 15, 0, 0⟩
  | .aflsh _ => some ⟨0xD6, .x, 0x7F, 0x00, true, true, 5, 0x1C00, 15, 0, 0⟩
  | .aclr _ => some ⟨0xD7, .s, 0x7F, 0x00, false, false, 0, 0x0000, 15, 0, 0⟩
  | .arel _ => some ⟨0xD8, .s, 0x7F, 0x00, false, false, 0, 0x0000, 15, 0, 0⟩
  | .await _ => some ⟨0xD9, .o, 0x7F, 0x00, true, true, 4, 0x1C00, 3, 0, 0⟩
  | .axs _ => some ⟨0xDA, .s, 0x7F, 0x00, false, false, 1, 0x0010, 15, 0, 0⟩
  | .copy _ => none
  | .copym _ => none
  | .copyv _ => none
  | .fill _ => none
  | .cksm _ => none
  | .binap _ => none
  | .binpl _ => none
  | .cred _ => none
  | .card _ => none
  | .caga _ => none
  | .cbcs _ => none
  | .lnch _ => none
  | .nopq _ => none
  | .launch _ => none
  | .queueDelta _ => none
  | .copyh _ => none
  | .waitq _ => none
  | .sigq _ => none
  | .fenceq _ => none
  | .create _ => none
  | .destroy _ => none
  | .mapq _ => none
  | .unmapq _ => none
  | .key _ => none
  | .thaw _ => none
  | .discard _ => none
  | .enroll _ => none
  | .domain _ => none
  | .map _ => none
  | .unmap _ => none
  | .attest _ => none
  | .telem _ => none
  | .managementPacketMalformed _ => none
  | .engineCommandAccept _ _ => none
  | .engineCommandStart _ _ => none
  | .engineChunk _ _ _ => none
  | .engineCommandComplete _ _ _ => none
  | .linkTransfer _ _ => none
  | .headerLatch _ _ => none
  | .joinStep _ => none
  | .switchWave _ => none
  | .withy _ => none
  | .commitWave _ => none
  | .returnBufferDrain _ => none
  | .loadDataReturn _ => none
  | .rowIntake _ => none
  | .localPortAccept _ => none
  | .localPortDeliver _ => none
  | .taskDeliver _ _ => none
  | .contributionArrival _ => none
  | .markerArrival _ => none
  | .unbindArrival _ => none
  | .bindRequest _ => none
  | .bindAnswer _ => none
  | .bindRetry _ _ => none
  | .refusalArrival _ => none
  | .refusalTrap _ => none
  | .memoryAccess _ => none
  | .wakeComplete _ => none
  | .pendingLineTimeout _ _ _ => none
  | .deadlock _ _ => none
  | .launchPlacement _ _ => none
  | .deltaApply _ => none
  | .waitqEvaluate _ => none
  | .invocationCompletion _ _ => none
  | .childLaunchReceive _ => none
  | .childStart _ _ => none
  | .cutComplete _ _ => none
  | .cutOverdue _ _ => none
  | .translationWalk _ _ => none
  | .patrolScrub _ => none
  | .wakeFailure _ => none
  | .stateStorageError _ _ _ => none
  | .windowWrite _ => none
  | .constantWrite _ => none
  | .descriptorWrite _ => none
  | .contextImageWrite _ => none
  | .amWindowWrite _ => none
  | .semaphoreWrite _ => none
  | .semaphoreAtomicAdd _ => none
  | .barrierArrivalAdd _ => none
  | .barrierByteAdd _ => none
  | .configurationLoad _ _ => none
  | .tlbInvalidate _ _ _ => none
  | .kidPurge _ _ => none
  | .keySlotWrite _ => none
  | .orderingControlWrite _ => none
  | .consChangeComplete => none
  | .queueDoorbell _ => none
  | .runListTurn => none
  | .preEmpt _ _ => none
  | .resume _ _ => none
  | .resumeSkipping _ _ => none
  | .regionDiscard _ _ => none
  | .restore _ _ _ _ => none
  | .rdmaWrite _ _ _ _ => none
  | .rdmaRead _ _ _ _ => none
  | .rdmaInvalidRequest _ => none
  | .cnpReceive _ => none
  | .mkaExchange _ _ => none
  | .daxaraDataFrame _ _ => none
  | .daxaraAck _ _ => none
  | .daxaraNak _ _ => none
  | .daxaraCredit _ _ => none
  | .replayTimeout _ => none
  | .linkRetrain _ => none
  | .linkFailed _ => none
  | .peerAttestation _ _ => none
  | .peerRequest _ => none
  | .peerRefusal _ => none
  | .boot => none
  | .telemetryUpdate _ _ => none
  | .clockThrottle => none
  | .emergencyStop => none
  | .corePowerGating _ => none
  | .clockRestore => none
  | .priorityFlowControl _ => none
  | .macsecDrop _ => none
  | .ownerKeyProvisioning _ _ => none
  | .powerLoss => none

/-- The slot of an element instruction. -/
def Instr.slot : Instr → Option Slot
  | .nop f => some f
  | .add f => some f
  | .sub f => some f
  | .adds f => some f
  | .subs f => some f
  | .mul f => some f
  | .mulh f => some f
  | .mulhn f => some f
  | .madd f => some f
  | .abs f => some f
  | .neg f => some f
  | .min f => some f
  | .max f => some f
  | .minn f => some f
  | .maxn f => some f
  | .and f => some f
  | .or f => some f
  | .xor f => some f
  | .andn f => some f
  | .shl f => some f
  | .shr f => some f
  | .sha f => some f
  | .rol f => some f
  | .clz f => some f
  | .ctz f => some f
  | .popc f => some f
  | .brev f => some f
  | .biti f => some f
  | .bitd f => some f
  | .bfx f => some f
  | .bfi f => some f
  | .cmpeq f => some f
  | .cmpne f => some f
  | .cmplt f => some f
  | .cmpltn f => some f
  | .cmple f => some f
  | .cmplen f => some f
  | .sel f => some f
  | .selLane f => some f
  | .mov f => some f
  | .movi f => some f
  | .movh f => some f
  | .movx f => some f
  | .movxLane f => some f
  | .movxw f => some f
  | .movxwLane f => some f
  | .shuf f => some f
  | .bcast f => some f
  | .extl f => some f
  | .insl f => some f
  | .pack f => some f
  | .unpk f => some f
  | .reda f => some f
  | .redm f => some f
  | .scana f => some f
  | .len f => some f
  | .setlen f => some f
  | .fadd f => some f
  | .fsub f => some f
  | .fmul f => some f
  | .ffma f => some f
  | .ffms f => some f
  | .fnma f => some f
  | .fmin f => some f
  | .fmax f => some f
  | .fabs f => some f
  | .fneg f => some f
  | .fcpys f => some f
  | .fcmpeq f => some f
  | .fcmplt f => some f
  | .fcmple f => some f
  | .fcmpun f => some f
  | .fclass f => some f
  | .fcvt f => some f
  | .fcvti f => some f
  | .icvtf f => some f
  | .frnd f => some f
  | .frcpe f => some f
  | .frsqe f => some f
  | .fscl f => some f
  | .fexpt f => some f
  | .freda f => some f
  | .fdot f => some f
  | .falgn f => some f
  | .falgnExp f => some f
  | .falgnHdr f => some f
  | .lute f => some f
  | .luti f => some f
  | .lutw f => some f
  | .rred f => some f
  | .rcomb f => some f
  | .lclamp f => some f
  | .pass f => some f
  | .drop f => some f
  | .emit f => some f
  | .eose f => some f
  | .steer f => some f
  | .steerData f => some f
  | .merge f => some f
  | .split f => some f
  | .carry f => some f
  | .delay f => some f
  | .delta f => some f
  | .count f => some f
  | .sink f => some f
  | .tsend f => some f
  | .tsendFar f => some f
  | .cfgk f => some f
  | .cfgkFar f => some f
  | .mark f => some f
  | .errt f => some f
  | .errtMake f => some f
  | .repair f => some f
  | .repairBack f => some f
  | .trap f => some f
  | .time f => some f
  | .who f => some f
  | .tagof f => some f
  | .hdr f => some f
  | .sld f => some f
  | .sst f => some f
  | .slds f => some f
  | .ssts f => some f
  | .sgth f => some f
  | .ssct f => some f
  | .samo f => some f
  | .pqin f => some f
  | .pqout f => some f
  | .spnd f => some f
  | .szero f => some f
  | .lds f => some f
  | .sts f => some f
  | .ldx f => some f
  | .stx f => some f
  | .lda f => some f
  | .sta f => some f
  | .amo f => some f
  | .mcst f => some f
  | .pref f => some f
  | .fence f => some f
  | .xfence f => some f
  | .drain f => some f
  | .swait f => some f
  | .ssig f => some f
  | .sinit f => some f
  | .binit f => some f
  | .barv f => some f
  | .bwait f => some f
  | .ecmd f => some f
  | .eresp f => some f
  | .mwld f => some f
  | .mwsel f => some f
  | .mpass f => some f
  | .mpassFeed f => some f
  | .mzpc f => some f
  | .mscl f => some f
  | .mout f => some f
  | .mclr f => some f
  | .mfeed f => some f
  | .msumw f => some f
  | .mstat f => some f
  | .achain f => some f
  | .arsv f => some f
  | .asend f => some f
  | .asendIdx f => some f
  | .asendPin f => some f
  | .aadd f => some f
  | .aaddPin f => some f
  | .awr f => some f
  | .ard f => some f
  | .aflsh f => some f
  | .aclr f => some f
  | .arel f => some f
  | .await f => some f
  | .axs f => some f
  | .copy _ => none
  | .copym _ => none
  | .copyv _ => none
  | .fill _ => none
  | .cksm _ => none
  | .binap _ => none
  | .binpl _ => none
  | .cred _ => none
  | .card _ => none
  | .caga _ => none
  | .cbcs _ => none
  | .lnch _ => none
  | .nopq _ => none
  | .launch _ => none
  | .queueDelta _ => none
  | .copyh _ => none
  | .waitq _ => none
  | .sigq _ => none
  | .fenceq _ => none
  | .create _ => none
  | .destroy _ => none
  | .mapq _ => none
  | .unmapq _ => none
  | .key _ => none
  | .thaw _ => none
  | .discard _ => none
  | .enroll _ => none
  | .domain _ => none
  | .map _ => none
  | .unmap _ => none
  | .attest _ => none
  | .telem _ => none
  | .managementPacketMalformed _ => none
  | .engineCommandAccept _ _ => none
  | .engineCommandStart _ _ => none
  | .engineChunk _ _ _ => none
  | .engineCommandComplete _ _ _ => none
  | .linkTransfer _ _ => none
  | .headerLatch _ _ => none
  | .joinStep _ => none
  | .switchWave _ => none
  | .withy _ => none
  | .commitWave _ => none
  | .returnBufferDrain _ => none
  | .loadDataReturn _ => none
  | .rowIntake _ => none
  | .localPortAccept _ => none
  | .localPortDeliver _ => none
  | .taskDeliver _ _ => none
  | .contributionArrival _ => none
  | .markerArrival _ => none
  | .unbindArrival _ => none
  | .bindRequest _ => none
  | .bindAnswer _ => none
  | .bindRetry _ _ => none
  | .refusalArrival _ => none
  | .refusalTrap _ => none
  | .memoryAccess _ => none
  | .wakeComplete _ => none
  | .pendingLineTimeout _ _ _ => none
  | .deadlock _ _ => none
  | .launchPlacement _ _ => none
  | .deltaApply _ => none
  | .waitqEvaluate _ => none
  | .invocationCompletion _ _ => none
  | .childLaunchReceive _ => none
  | .childStart _ _ => none
  | .cutComplete _ _ => none
  | .cutOverdue _ _ => none
  | .translationWalk _ _ => none
  | .patrolScrub _ => none
  | .wakeFailure _ => none
  | .stateStorageError _ _ _ => none
  | .windowWrite _ => none
  | .constantWrite _ => none
  | .descriptorWrite _ => none
  | .contextImageWrite _ => none
  | .amWindowWrite _ => none
  | .semaphoreWrite _ => none
  | .semaphoreAtomicAdd _ => none
  | .barrierArrivalAdd _ => none
  | .barrierByteAdd _ => none
  | .configurationLoad _ _ => none
  | .tlbInvalidate _ _ _ => none
  | .kidPurge _ _ => none
  | .keySlotWrite _ => none
  | .orderingControlWrite _ => none
  | .consChangeComplete => none
  | .queueDoorbell _ => none
  | .runListTurn => none
  | .preEmpt _ _ => none
  | .resume _ _ => none
  | .resumeSkipping _ _ => none
  | .regionDiscard _ _ => none
  | .restore _ _ _ _ => none
  | .rdmaWrite _ _ _ _ => none
  | .rdmaRead _ _ _ _ => none
  | .rdmaInvalidRequest _ => none
  | .cnpReceive _ => none
  | .mkaExchange _ _ => none
  | .daxaraDataFrame _ _ => none
  | .daxaraAck _ _ => none
  | .daxaraNak _ _ => none
  | .daxaraCredit _ _ => none
  | .replayTimeout _ => none
  | .linkRetrain _ => none
  | .linkFailed _ => none
  | .peerAttestation _ _ => none
  | .peerRequest _ => none
  | .peerRefusal _ => none
  | .boot => none
  | .telemetryUpdate _ _ => none
  | .clockThrottle => none
  | .emergencyStop => none
  | .corePowerGating _ => none
  | .clockRestore => none
  | .priorityFlowControl _ => none
  | .macsecDrop _ => none
  | .ownerKeyProvisioning _ _ => none
  | .powerLoss => none
/-- Bit n of a selector mask. -/
def maskBit (m n : Nat) : Bool := (m / 2 ^ n) % 2 = 1

/-- The bits of x that are not in the mask m. -/
def bitsOutside (x m : Nat) : Bool := x &&& m ≠ x

/-- Whether the slot reads operand A, and B (spec 09 R185 PQOUT, 12 R265 TRAP name the bound and the record conditions). -/
def EncRow.readsA (r : EncRow) (f : Slot) : Bool := r.aSel ≠ 0 && (r.op ≠ 0x81 || f.md.getLsbD 0)
def EncRow.readsB (r : EncRow) (f : Slot) : Bool :=
  r.bSel ≠ 0 && (r.op ≠ 0x98 || f.md.getLsbD 1) && (r.op ≠ 0xC0 || decide (3 ≤ f.md.toNat))

/-- MOD bits that a class and a row assign (spec 08 R169). -/
def EncRow.mdBits (r : EncRow) : Nat :=
  match r.cls with
  | .n => 0
  | .l => 0b1100 ||| r.md
  | .c => 0b1111
  | .o => 0b0011 ||| r.md
  | .s => r.md
  | .x => 0b0010 ||| r.md

/-- Whether a lane mask is selected (spec 08 R163, R169). -/
def EncRow.masked (r : EncRow) (f : Slot) : Bool :=
  (r.cls = .l || r.cls = .c) && f.md.extractLsb' 2 2 ≠ 0#2

/-- Whether the slot's compare writes a state bit (spec 07 R161). -/
def EncRow.setsBit (r : EncRow) (f : Slot) : Bool := r.cls = .c && f.md.getLsbD 0

/-- A three-bit state-bit field at IMM[12:10], used while MOD[2] is set (MOD[1] for the affine accesses), and IMM[15:13] of SPND. -/
def EncRow.wrapBitUsed (r : EncRow) (f : Slot) : Bool :=
  if r.op = 0x92 ∨ r.op = 0x93 ∨ r.op = 0x9B ∨ r.op = 0x9C then f.md.getLsbD 1 else f.md.getLsbD 2
def EncRow.hasWrapBit (r : EncRow) : Bool :=
  [0x92, 0x93, 0x9B, 0x9C, 0x9F, 0xA1, 0xBA, 0xD6, 0xD9].contains r.op

/-- IMM bits that a class, the selectors and a row assign (spec 08 R167, R169). -/
def EncRow.immBits (r : EncRow) (f : Slot) : Nat :=
  let own := if r.hasWrapBit && !r.wrapBitUsed f then r.imm &&& 0xE3FF else r.imm
  let own := if r.op = 0x72 ∧ f.sa ≠ 6#3 then 0 else own
  own ||| (if f.sa = 7#3 ∨ f.sb = 7#3 then 0xFFFF else 0)
    ||| (if f.sa = 6#3 ∧ r.readsA f then 3 else 0) ||| (if f.sb = 6#3 ∧ r.readsB f then 0xC else 0)
    ||| (if r.masked f then 0xFF0 else 0) ||| (if r.setsBit f || r.cls = .o then 0xE000 else 0)

/-- Fields of IMM. -/
def immField (f : Slot) (lo n : Nat) : Nat := (f.imm.toNat / 2 ^ lo) % 2 ^ n

/-- The bit position p when c holds, nothing otherwise: what a failed check records (spec 08 R171). -/
def failAt (c : Bool) (p : Nat) : List Nat := if c then [p] else []

/-- Positions of the fields that break the checks that no opcode enters (spec 08 R168). -/
def plainFaults (f : Slot) : List Nat :=
  failAt (f.qa = 7#3 && f.ta ≠ 0#3) 18 ++ failAt (f.qa = 7#3 && f.tea) 21
  ++ failAt (f.qa = 7#3 && f.ka ≠ 0#2) 26 ++ failAt (f.qa = 7#3 && f.dqa) 67
  ++ failAt (f.qb = 7#3 && f.tb ≠ 0#3) 22 ++ failAt (f.qb = 7#3 && f.teb) 25
  ++ failAt (f.qb = 7#3 && f.kb ≠ 0#2) 28 ++ failAt (f.qb = 7#3 && f.dqb) 68
  ++ failAt (f.qa = 7#3 && f.sa = 4#3) 48 ++ failAt (f.qa = 7#3 && f.sb = 4#3) 51
  ++ failAt (f.qb = 7#3 && f.sa = 5#3) 48 ++ failAt (f.qb = 7#3 && f.sb = 5#3) 51
  ++ failAt (!f.tea && f.ta ≠ 0#3) 18 ++ failAt (!f.teb && f.tb ≠ 0#3) 22
  ++ failAt (!f.dwe && f.dd ≠ 0#2) 54 ++ failAt (!f.nse && f.ns ≠ 0#6) 69
  ++ failAt (f.oeos && f.om = 0#6) 66 ++ failAt (f.om = 0#6 && f.ot ≠ 0#3) 63
  ++ failAt ((f.sa = 6#3 && f.sb = 7#3) || (f.sa = 7#3 && f.sb = 6#3)) 48

/-- Positions of the fields that break the checks that every slot meets (spec 08 R168, R169, R163). -/
def commonFaults (r : EncRow) (f : Slot) : List Nat :=
  plainFaults f
  ++ failAt (if r.readsA f then !maskBit r.aSel f.sa.toNat else f.sa ≠ 0#3) 48
  ++ failAt (if r.readsB f then !maskBit r.bSel f.sb.toNat else f.sb ≠ 0#3) 51
  ++ failAt ((r.masked f || r.setsBit f || r.cls = .o) && (f.sa = 7#3 || f.sb = 7#3)) 48
  ++ failAt (!r.dest && f.dwe) 56 ++ failAt (!r.push && f.om ≠ 0#6) 57
  ++ failAt (bitsOutside f.md.toNat r.mdBits) 76
  ++ failAt (r.masked f && f.md.extractLsb' 2 2 = 3#2) 78
  ++ failAt (r.cls = .o && !maskBit r.ords (f.md.toNat % 4)) 76
  ++ failAt (f.md.toNat &&& r.fixMask ≠ r.fixVal) 76
  ++ failAt (bitsOutside f.imm.toNat (r.immBits f)) 80
  ++ failAt (r.setsBit f && decide (6 ≤ immField f 13 3)) 93
  ++ failAt (r.cls = .o && immField f 13 3 = 7) 93
  ++ failAt (r.hasWrapBit && r.wrapBitUsed f && decide (6 ≤ immField f 10 3)) 90

/-- Opcodes of the token and system group (spec 12 R265). -/
def EncRow.isToken (r : EncRow) : Bool := r.op = 0 || (decide (0x70 ≤ r.op) && decide (r.op ≤ 0x85))

/-- Whether a slot uses the local port: TSEND, CFGK, ERRT forward, REPAIR reinject (spec 12 R262, R265). -/
def EncRow.usesPort (r : EncRow) (f : Slot) : Bool :=
  r.op = 0x7C || r.op = 0x7D || (r.op = 0x7F && !f.md.getLsbD 0) || (r.op = 0x80 && f.md.getLsbD 0)

/-- The outputs of a mask. -/
def popCount6 (m : BitVec 6) : Nat :=
  ((List.range 6).filter (fun i => m.getLsbD i)).length

/-- Positions that break the local-port, OEOS and kind rules of the chapters (spec 12 R262, R265; 10 R220; 11 R240). -/
def chapterFaults (r : EncRow) (f : Slot) : List Nat :=
  (if r.usesPort f then failAt (f.om ≠ 0x20#6) 57 else failAt (f.om.getLsbD 5) 62 ++ failAt (f.os.getLsbD 5) 35)
  ++ failAt (r.isToken && f.oeos && r.op ≠ 0x72) 66
  ++ failAt (((decide (1 ≤ r.op) && decide (r.op ≤ 0x65)) && ((f.sa = 4#3 || f.sb = 4#3) && f.ka ≠ 0#2))) 26
  ++ failAt (((decide (1 ≤ r.op) && decide (r.op ≤ 0x65)) && ((f.sa = 5#3 || f.sb = 5#3) && f.kb ≠ 0#2))) 28

/-- Whether KA cannot present DATA to an instruction that takes a lane of a head A (spec 12 R265, log 23). -/
def kaWithoutData (f : Slot) : Bool := f.sa = 4#3 && (f.ka = 1#2 || f.ka = 2#2)

/-- Positions that break what one instruction's row adds (spec 09 R185, R194, R198, R205, R206; 10 R223; 11 R242; 12 R265; 13 R298). -/
def ownFaults (op : Nat) (f : Slot) : List Nat :=
  let md0 := f.md.getLsbD 0
  match op with
  | 0x00 => failAt f.dqa 67 ++ failAt f.dqb 68
  | 0x08 => failAt (!f.dwe) 56
  | 0x1B => failAt (immField f 4 5 = 0) 84
  | 0x1C => failAt (immField f 4 5 = 0) 84
  | 0x25 => if md0 then failAt (!f.dwe) 56
            else failAt (f.md.extractLsb' 2 2 ≠ 0#2) 78 ++ failAt (f.sa ≠ 7#3 && f.sb ≠ 7#3 && decide (6 ≤ immField f 13 3)) 93
                 ++ failAt (f.sa = 7#3 || f.sb = 7#3) 48
  | 0x2A => failAt (!f.dwe) 56 ++ failAt (!md0 && f.dd ≠ 0#2) 54
  | 0x43 => failAt (!f.dwe) 56
  | 0x44 => failAt (!f.dwe) 56
  | 0x45 => failAt (!f.dwe) 56
  | 0x59 => failAt (md0 && !f.dwe) 56
  | 0x63 => failAt (f.md.extractLsb' 0 2 = 3#2) 76
  | 0x71 => failAt (!f.dqa) 67 ++ failAt (f.sb = 5#3 && !f.dqb) 68
  | 0x73 => failAt (f.ka = 2#2) 26
  | 0x74 => failAt (popCount6 f.om = 0 || decide (2 < popCount6 f.om)) 57 ++ failAt (!md0 && decide (6 ≤ immField f 13 3)) 93
  | 0x75 => failAt (!f.dqa) 67 ++ failAt (f.ka = 2#2) 26
  | 0x76 => failAt (!f.dqa) 67 ++ failAt (f.ka = 2#2) 26
  | 0x77 => failAt (!f.dqa) 67 ++ failAt (!f.dqb) 68 ++ failAt (f.ka = 2#2) 26
  | 0x78 => failAt (!f.dqa) 67 ++ failAt (!f.dwe) 56 ++ failAt (f.ka = 2#2) 26
  | 0x79 => failAt (f.ka = 1#2 || f.ka = 2#2) 26
  | 0x7A => failAt (!f.dqa) 67 ++ failAt (f.ka = 2#2) 26
  | 0x7B => failAt (!f.dqa) 67 ++ failAt (f.ka = 2#2) 26
  | 0x7C => failAt ((f.sa = 4#3 || f.sb = 4#3) && f.ka ≠ 0#2) 26
  | 0x7D => failAt (kaWithoutData f) 26
  | 0x7F => failAt (if md0 then kaWithoutData f else f.ka ≠ 2#2) 26
  | 0x80 => failAt (f.ka ≠ 2#2) 26 ++ failAt (!f.dqa) 67
  | 0x81 => failAt (kaWithoutData f) 26
  | 0x85 => failAt (kaWithoutData f) 26
  | 0x96 => failAt (decide (9 ≤ immField f 4 4 ∧ immField f 4 4 ≠ 10)) 84
  | 0x99 => failAt (decide (9 < immField f 9 4)) 89 ++ failAt (decide (512 < immField f 0 9 + 2 ^ immField f 9 4)) 80
            ++ failAt (decide (6 ≤ immField f 13 3)) 93
  | 0x9A => failAt (decide (9 < immField f 9 4)) 89 ++ failAt (decide (512 < immField f 0 9 + 2 ^ immField f 9 4)) 80
  | 0xA1 => failAt (decide (11 ≤ immField f 4 4)) 84
  | 0xB1 => failAt (immField f 0 3 = 7) 80 ++ failAt (immField f 4 3 = 7) 84 ++ failAt (immField f 0 3 = immField f 4 3) 84
  | 0xB2 => failAt (decide (3 < immField f 0 3)) 80 ++ failAt (decide (4 < immField f 4 3)) 84
  | 0xB3 => failAt (decide (6 ≤ immField f 2 3)) 82
  | 0xC0 => failAt (decide (6 < f.md.toNat)) 76 ++ failAt (decide (f.md.toNat = 1 ∨ f.md.toNat = 2) && f.imm.getLsbD 8) 88
  | 0xC4 => failAt (immField f 2 2 = 0) 82
  | _ => []

/-- Every field position of a slot that a check refuses, in the order of the tables of spec 08 R168. -/
def slotFaults (r : EncRow) (f : Slot) : List Nat :=
  failAt (!f.val) 39 ++ commonFaults r f ++ chapterFaults r f ++ ownFaults r.op f

/-- Opcode and access-path class of an engine command (spec 05 R102, R105). -/
def Instr.commandCode : Instr → Option (Nat × Nat × Command)
  | .copy c => some (0x01, 1, c)
  | .copym c => some (0x02, 1, c)
  | .copyv c => some (0x03, 1, c)
  | .fill c => some (0x04, 1, c)
  | .cksm c => some (0x05, 1, c)
  | .binap c => some (0x10, 2, c)
  | .binpl c => some (0x11, 2, c)
  | .cred c => some (0x20, 3, c)
  | .card c => some (0x21, 3, c)
  | .caga c => some (0x22, 3, c)
  | .cbcs c => some (0x23, 3, c)
  | .lnch c => some (0x30, 1, c)
  | _ => none

/-- A field of a 64-bit word. -/
def wfield (w : Word) (lo n : Nat) : Nat := (w.toNat / 2 ^ lo) % 2 ^ n

/-- Header fields of a command word 0 (spec 05 R104): OPC, PATH, and the two bits that must be zero. -/
def commandHeaderOk (opc path : Nat) (c : Command) : Bool :=
  wfield c.w0 0 8 = opc && wfield c.w0 8 3 = path && wfield c.w0 62 2 = 0

/-- TYPE, SLM and reserved bits of a queue packet (spec 16 R368). -/
def Instr.queueCode : Instr → Option (Nat × QPacket)
  | .nopq p => some (0, p)
  | .launch p => some (1, p)
  | .queueDelta p => some (2, p)
  | .copyh p => some (3, p)
  | .waitq p => some (4, p)
  | .sigq p => some (5, p)
  | .fenceq p => some (6, p)
  | _ => none

/-- The bits of words 1 to 7 of a queue packet's first slot that its type assigns (spec 16 R368). -/
def queueMasks (t : Nat) : List Nat :=
  match t with
  | 1 => [0xFFFFFFFFFFFF, 0, 0, 0, 0, 0, 0]
  | 2 => [0xFFFF, 0xFFFFFFFFFFFF, 0, 0, 0, 0, 0]
  | 3 => [0x1FF, 0, 0, 0, 0, 0, 0]
  | 4 => [0xFFFFFFFFFFFF, 2 ^ 64 - 1, 0x103, 0, 0, 0, 0]
  | 5 => [0xFFFFFFFFFFFF, 2 ^ 64 - 1, 1, 0, 0, 0, 0]
  | 6 => [0x1FFFF, 0, 0, 0, 0, 0, 0]
  | _ => [0, 0, 0, 0, 0, 0, 0]

/-- The eight words of a slot of 64 bytes, in order. -/
def Command.words (c : Command) : List Word := [c.w0, c.w1, c.w2, c.w3, c.w4, c.w5, c.w6, c.w7]

/-- A packet of type t whose reserved bits are zero and whose SLM agrees (spec 16 R368). COPYH carries a copy command in its second slot; a
packet of one slot has none. -/
def queuePacketOk (t : Nat) (p : QPacket) : Bool :=
  let w := p.first
  wfield w.w0 0 8 = t && wfield w.w0 9 7 = 0 && wfield w.w0 19 29 = 0
    && wfield w.w0 16 3 = (if t = 3 then 1 else 0)
    && ((w.words.drop 1).zip (queueMasks t)).all (fun x => !bitsOutside x.1.toNat x.2)
    && (t = 3 || p.second.words.all (fun x => x = 0))
    && (t ≠ 3 || (decide (1 ≤ wfield p.second.w0 0 8 ∧ wfield p.second.w0 0 8 ≤ 5) && wfield p.second.w0 8 3 = 1
          && decide (wfield w.w1 0 9 < 384)))

/-- OP of a management packet (spec 18 R423). -/
def Instr.mgmtCode : Instr → Option (Nat × MgmtPacket)
  | .create m => some (0x01, m)
  | .destroy m => some (0x02, m)
  | .mapq m => some (0x03, m)
  | .unmapq m => some (0x04, m)
  | .key m => some (0x05, m)
  | .thaw m => some (0x06, m)
  | .discard m => some (0x07, m)
  | .enroll m => some (0x08, m)
  | .domain m => some (0x09, m)
  | .map m => some (0x0A, m)
  | .unmap m => some (0x0B, m)
  | .attest m => some (0x10, m)
  | .telem m => some (0x11, m)
  | _ => none

/-- Bits each operand word of a management operation may set (spec 18 R423); words not listed are free data, or absent. -/
def mgmtMasks (op : Nat) : List Nat :=
  let va := 0xFFFFFFFFFFFF
  match op with
  | 0x01 => [0x3FFFFFFFF, 0xFFFFFFFFFFFFF, va, va, va]
  | 0x02 => [0x3FF]
  | 0x03 => [0x1F03FF, va]
  | 0x04 => [0x1F03FF]
  | 0x05 => [0xFFF03FF, va, 0xFFFFFFFF00000000, 0xFFFF, 0xFFFFFFFFFFFFF007]
  | 0x06 => [0x3FFFFFF]
  | 0x07 => [0x3FFFFFF]
  | 0x08 => 0x10F :: (List.replicate 19 (2 ^ 64 - 1) ++ [0xFFFFFFFF])
  | 0x09 => 0x3F :: (List.replicate 12 (2 ^ 64 - 1) ++ List.replicate 64 0x6F
      ++ (List.replicate 64 [2 ^ 64 - 1, 0xFFFFFFFFF, 0xFFFF000000000000, 2 ^ 64 - 1]).flatten)
  | 0x0A => [0x303FF, va, 2 ^ 64 - 1, 0xFFFFFFFF]
  | 0x0B => [0x303FF, va, 0, 0xFFFFFFFF]
  | 0x10 => [2 ^ 64 - 1, 2 ^ 64 - 1, 2 ^ 64 - 1, 2 ^ 64 - 1, 0x83FF, 0, 0, 0]
  | 0x11 => [0x3FF01FF]
  | _ => []

/-- How many operand words an operation has (spec 18 R423, R436). -/
def mgmtWords (op : Nat) : Nat :=
  match op with
  | 0x01 => 5 | 0x02 => 1 | 0x03 => 2 | 0x04 => 1 | 0x05 => 5 | 0x06 => 1 | 0x07 => 1 | 0x08 => 21 | 0x09 => 333
  | 0x0A => 4 | 0x0B => 4 | 0x10 => 8 | 0x11 => 1 | _ => 0

/-- ATTEST and TELEM carry no signature record (spec 18 R422). -/
def mgmtSigned (op : Nat) : Bool := op ≠ 0x10 && op ≠ 0x11

/-- Whether a management packet with this OP is well formed (spec 18 R422): zero fields, body and reply inside their areas. -/
def mgmtPacketOk (op : Nat) (m : MgmtPacket) : Bool :=
  let s := m.slot
  let blen := wfield s.w1 32 20
  let body := wfield s.w1 0 20
  let reply := wfield s.w2 0 20
  let sigEnd := (body + blen + 63) / 64 * 64 + (if mgmtSigned op then m.sig.length else 0)
  wfield s.w0 0 8 = op && wfield s.w0 8 24 = 0 && wfield s.w1 20 12 = 0 && wfield s.w1 52 12 = 0 && wfield s.w2 20 44 = 0
    && s.w3 = 0 && s.w4 = 0 && s.w5 = 0 && s.w6 = 0 && s.w7 = 0
    && body % 64 = 0 && decide (0x10000 ≤ body) && decide (sigEnd ≤ 0xC0000)
    && reply % 64 = 0 && decide (0xC0000 ≤ reply) && decide (reply < 0x100000)
    && blen = 8 * mgmtWords op && decide (m.operands.length = mgmtWords op)
    && (m.operands.zip (mgmtMasks op)).all (fun x => !bitsOutside x.1.toNat x.2)

/-- Whether an operation is one the hardware accepts: a slot that breaks no check of its encoding, a command whose header is that
of its opcode, a packet that is not malformed. Events name what they happen to and are always well formed. -/
def Instr.wellFormed (i : Instr) : Bool :=
  match i.encRow, i.slot with
  | some r, some f => (slotFaults r f).isEmpty
  | _, _ =>
    match i.commandCode with
    | some (opc, path, c) => commandHeaderOk opc path c
    | none =>
      match i.queueCode with
      | some (t, p) => queuePacketOk t p
      | none =>
        match i.mgmtCode with
        | some (op, m) => mgmtPacketOk op m
        | none => true

end Sys2Proof
end

