-- ==== Sys2Proof/Decode.lean ====
section
/-! DEFINITION. Decoding: from the 96 bits of a slot (spec 08 R165, R173), the 64 bytes of an engine command (05 R104), a queue
packet (16 R368) and a management packet (18 R422) to an instruction, refusing by name; after it the encoder. -/

namespace Sys2Proof

/-- Why bits are no instruction: an empty slot (VAL = 0 and all zero), an opcode or mode that spec 08 R173 does not assign, a field
that R168 refuses (its bit position), an engine command header that R105 refuses, a queue packet that R368 calls malformed. -/
inductive DecodeError where
  | emptySlot
  | unassigned (op : Nat)
  | field (bit : Nat)
  | badCommand (opc : Nat)
  | malformedPacket (type : Nat)
  deriving DecidableEq, Repr

/-- Packs fields, each a width and a value, from bit 0 up. -/
def packFields : List (Nat × Nat) → Nat
  | [] => 0
  | (w, v) :: l => v % 2 ^ w + 2 ^ w * packFields l

/-- Takes fields of the widths given out of a number, from bit 0 up. -/
def takeFields : List Nat → Nat → List Nat
  | [], _ => []
  | w :: l, x => x % 2 ^ w :: takeFields l (x / 2 ^ w)

/-- The widths of the fields of a slot from bit 0 up (spec 08 R165). -/
def slotWidths : List Nat :=
  [6, 6, 3, 3, 3, 1, 3, 1, 2, 2, 6, 2, 1, 1, 8, 3, 3, 2, 1, 6, 3, 1, 1, 1, 6, 1, 4, 16]

/-- The number of a flag bit, and the flag of a number. -/
def bit01 (b : Bool) : Nat := if b then 1 else 0

/-- The fields of a slot and its opcode, from bit 0 up, in the order of spec 08 R165. -/
def slotValues (op : Nat) (f : Slot) : List Nat :=
  [f.sv.toNat, f.sm.toNat, f.qa.toNat, f.qb.toNat, f.ta.toNat, bit01 f.tea, f.tb.toNat, bit01 f.teb, f.ka.toNat, f.kb.toNat,
   f.os.toNat, f.pcl.toNat, bit01 f.str, bit01 f.val, op, f.sa.toNat, f.sb.toNat, f.dd.toNat, bit01 f.dwe, f.om.toNat,
   f.ot.toNat, bit01 f.oeos, bit01 f.dqa, bit01 f.dqb, f.ns.toNat, bit01 f.nse, f.md.toNat, f.imm.toNat]

/-- The 96 bits of a slot (spec 08 R165). -/
def slotBits (op : Nat) (f : Slot) : Nat := packFields (slotWidths.zip (slotValues op f))

/-- The opcode of 96 bits, and the other fields. -/
def slotOf (x : Nat) : Nat × Slot :=
  let v := takeFields slotWidths x
  let g (n : Nat) : Nat := v.getD n 0
  (g 14,
   { sv := BitVec.ofNat 6 (g 0), sm := BitVec.ofNat 6 (g 1), qa := BitVec.ofNat 3 (g 2), qb := BitVec.ofNat 3 (g 3),
     ta := BitVec.ofNat 3 (g 4), tea := g 5 = 1, tb := BitVec.ofNat 3 (g 6), teb := g 7 = 1, ka := BitVec.ofNat 2 (g 8),
     kb := BitVec.ofNat 2 (g 9), os := BitVec.ofNat 6 (g 10), pcl := BitVec.ofNat 2 (g 11), str := g 12 = 1, val := g 13 = 1,
     sa := BitVec.ofNat 3 (g 15), sb := BitVec.ofNat 3 (g 16), dd := BitVec.ofNat 2 (g 17), dwe := g 18 = 1,
     om := BitVec.ofNat 6 (g 19), ot := BitVec.ofNat 3 (g 20), oeos := g 21 = 1, dqa := g 22 = 1, dqb := g 23 = 1,
     ns := BitVec.ofNat 6 (g 24), nse := g 25 = 1, md := BitVec.ofNat 4 (g 26), imm := BitVec.ofNat 16 (g 27) })

/-- The instruction that an opcode and the mode bits of MOD name (spec 08 R173; modes as the instruction chapters give them). -/
def instrOf (op : Nat) (f : Slot) : Option Instr :=
  match op with
  | 0x00 => some (.nop f)
  | 0x01 => some (.add f)
  | 0x02 => some (.sub f)
  | 0x03 => some (.adds f)
  | 0x04 => some (.subs f)
  | 0x05 => some (.mul f)
  | 0x06 => some (.mulh f)
  | 0x07 => some (.mulhn f)
  | 0x08 => some (.madd f)
  | 0x09 => some (.abs f)
  | 0x0A => some (.neg f)
  | 0x0B => some (.min f)
  | 0x0C => some (.max f)
  | 0x0D => some (.minn f)
  | 0x0E => some (.maxn f)
  | 0x0F => some (.and f)
  | 0x10 => some (.or f)
  | 0x11 => some (.xor f)
  | 0x12 => some (.andn f)
  | 0x13 => some (.shl f)
  | 0x14 => some (.shr f)
  | 0x15 => some (.sha f)
  | 0x16 => some (.rol f)
  | 0x17 => some (.clz f)
  | 0x18 => some (.ctz f)
  | 0x19 => some (.popc f)
  | 0x1A => some (.brev f)
  | 0x1B => some (.biti f)
  | 0x1C => some (.bitd f)
  | 0x1D => some (.bfx f)
  | 0x1E => some (.bfi f)
  | 0x1F => some (.cmpeq f)
  | 0x20 => some (.cmpne f)
  | 0x21 => some (.cmplt f)
  | 0x22 => some (.cmpltn f)
  | 0x23 => some (.cmple f)
  | 0x24 => some (.cmplen f)
  | 0x25 => if f.md.toNat % 2 = 0 then some (.sel f) else if f.md.toNat % 2 = 1 then some (.selLane f) else none
  | 0x26 => some (.mov f)
  | 0x27 => some (.movi f)
  | 0x28 => some (.movh f)
  | 0x29 => if f.md.toNat % 2 = 0 then some (.movx f) else if f.md.toNat % 2 = 1 then some (.movxLane f) else none
  | 0x2A => if f.md.toNat % 2 = 0 then some (.movxw f) else if f.md.toNat % 2 = 1 then some (.movxwLane f) else none
  | 0x2B => some (.shuf f)
  | 0x2C => some (.bcast f)
  | 0x2D => some (.extl f)
  | 0x2E => some (.insl f)
  | 0x2F => some (.pack f)
  | 0x30 => some (.unpk f)
  | 0x31 => some (.reda f)
  | 0x32 => some (.redm f)
  | 0x33 => some (.scana f)
  | 0x34 => some (.len f)
  | 0x35 => some (.setlen f)
  | 0x40 => some (.fadd f)
  | 0x41 => some (.fsub f)
  | 0x42 => some (.fmul f)
  | 0x43 => some (.ffma f)
  | 0x44 => some (.ffms f)
  | 0x45 => some (.fnma f)
  | 0x46 => some (.fmin f)
  | 0x47 => some (.fmax f)
  | 0x48 => some (.fabs f)
  | 0x49 => some (.fneg f)
  | 0x4A => some (.fcpys f)
  | 0x4B => some (.fcmpeq f)
  | 0x4C => some (.fcmplt f)
  | 0x4D => some (.fcmple f)
  | 0x4E => some (.fcmpun f)
  | 0x4F => some (.fclass f)
  | 0x50 => some (.fcvt f)
  | 0x51 => some (.fcvti f)
  | 0x52 => some (.icvtf f)
  | 0x53 => some (.frnd f)
  | 0x54 => some (.frcpe f)
  | 0x55 => some (.frsqe f)
  | 0x56 => some (.fscl f)
  | 0x57 => some (.fexpt f)
  | 0x58 => some (.freda f)
  | 0x59 => some (.fdot f)
  | 0x5A => if f.md.toNat % 4 = 0 then some (.falgn f) else if f.md.toNat % 4 = 1 then some (.falgnExp f) else if f.md.toNat % 4 = 2 then some (.falgnHdr f) else none
  | 0x60 => some (.lute f)
  | 0x61 => some (.luti f)
  | 0x62 => some (.lutw f)
  | 0x63 => some (.rred f)
  | 0x64 => some (.rcomb f)
  | 0x65 => some (.lclamp f)
  | 0x70 => some (.pass f)
  | 0x71 => some (.drop f)
  | 0x72 => some (.emit f)
  | 0x73 => some (.eose f)
  | 0x74 => if f.md.toNat % 2 = 0 then some (.steer f) else if f.md.toNat % 2 = 1 then some (.steerData f) else none
  | 0x75 => some (.merge f)
  | 0x76 => some (.split f)
  | 0x77 => some (.carry f)
  | 0x78 => some (.delay f)
  | 0x79 => some (.delta f)
  | 0x7A => some (.count f)
  | 0x7B => some (.sink f)
  | 0x7C => if f.md.toNat % 2 = 0 then some (.tsend f) else if f.md.toNat % 2 = 1 then some (.tsendFar f) else none
  | 0x7D => if f.md.toNat % 2 = 0 then some (.cfgk f) else if f.md.toNat % 2 = 1 then some (.cfgkFar f) else none
  | 0x7E => some (.mark f)
  | 0x7F => if f.md.toNat % 2 = 0 then some (.errt f) else if f.md.toNat % 2 = 1 then some (.errtMake f) else none
  | 0x80 => if f.md.toNat % 2 = 0 then some (.repair f) else if f.md.toNat % 2 = 1 then some (.repairBack f) else none
  | 0x81 => some (.trap f)
  | 0x82 => some (.time f)
  | 0x83 => some (.who f)
  | 0x84 => some (.tagof f)
  | 0x85 => some (.hdr f)
  | 0x90 => some (.sld f)
  | 0x91 => some (.sst f)
  | 0x92 => some (.slds f)
  | 0x93 => some (.ssts f)
  | 0x94 => some (.sgth f)
  | 0x95 => some (.ssct f)
  | 0x96 => some (.samo f)
  | 0x97 => some (.pqin f)
  | 0x98 => some (.pqout f)
  | 0x99 => some (.spnd f)
  | 0x9A => some (.szero f)
  | 0x9B => some (.lds f)
  | 0x9C => some (.sts f)
  | 0x9D => some (.ldx f)
  | 0x9E => some (.stx f)
  | 0x9F => some (.lda f)
  | 0xA0 => some (.sta f)
  | 0xA1 => some (.amo f)
  | 0xA2 => some (.mcst f)
  | 0xA3 => some (.pref f)
  | 0xB0 => some (.fence f)
  | 0xB1 => some (.xfence f)
  | 0xB2 => some (.drain f)
  | 0xB3 => some (.swait f)
  | 0xB4 => some (.ssig f)
  | 0xB5 => some (.sinit f)
  | 0xB6 => some (.binit f)
  | 0xB7 => some (.barv f)
  | 0xB8 => some (.bwait f)
  | 0xB9 => some (.ecmd f)
  | 0xBA => some (.eresp f)
  | 0xC0 => some (.mwld f)
  | 0xC1 => some (.mwsel f)
  | 0xC2 => if f.md.toNat % 2 = 0 then some (.mpass f) else if f.md.toNat % 2 = 1 then some (.mpassFeed f) else none
  | 0xC3 => some (.mzpc f)
  | 0xC4 => some (.mscl f)
  | 0xC5 => some (.mout f)
  | 0xC6 => some (.mclr f)
  | 0xC7 => some (.mfeed f)
  | 0xC8 => some (.msumw f)
  | 0xC9 => some (.mstat f)
  | 0xD0 => some (.achain f)
  | 0xD1 => some (.arsv f)
  | 0xD2 => if f.md.toNat % 4 = 0 then some (.asend f) else if f.md.toNat % 4 = 1 then some (.asendIdx f) else if f.md.toNat % 4 = 2 then some (.asendPin f) else none
  | 0xD3 => if f.md.toNat % 2 = 0 then some (.aadd f) else if f.md.toNat % 2 = 1 then some (.aaddPin f) else none
  | 0xD4 => some (.awr f)
  | 0xD5 => some (.ard f)
  | 0xD6 => some (.aflsh f)
  | 0xD7 => some (.aclr f)
  | 0xD8 => some (.arel f)
  | 0xD9 => some (.await f)
  | 0xDA => some (.axs f)
  | _ => none

/-- The instruction of a 96-bit slot (spec 08 R165, R168, R173). -/
def decodeSlot (x : Nat) : Except DecodeError Instr :=
  if x = 0 then .error .emptySlot
  else
    let s := slotOf x
    match instrOf s.1 s.2 with
    | none => .error (.unassigned s.1)
    | some i =>
      match i.encRow with
      | none => .error (.unassigned s.1)
      | some r =>
        match slotFaults r s.2 with
        | [] => .ok i
        | b :: l => .error (.field (l.foldl Nat.min b))

/-- The engine command of eight words (spec 05 R102, R105). -/
def decodeCommand (c : Command) : Except DecodeError Instr :=
  let opc := wfield c.w0 0 8
  let pick : Option Instr :=
    match opc with
    | 0x01 => some (.copy c) | 0x02 => some (.copym c) | 0x03 => some (.copyv c) | 0x04 => some (.fill c) | 0x05 => some (.cksm c)
    | 0x10 => some (.binap c) | 0x11 => some (.binpl c)
    | 0x20 => some (.cred c) | 0x21 => some (.card c) | 0x22 => some (.caga c) | 0x23 => some (.cbcs c)
    | 0x30 => some (.lnch c)
    | _ => none
  match pick with
  | none => .error (.badCommand opc)
  | some i => if i.wellFormed then .ok i else .error (.badCommand opc)

/-- The queue packet that two slots of a ring hold (spec 16 R368). -/
def decodeQueue (p : QPacket) : Except DecodeError Instr :=
  let t := wfield p.first.w0 0 8
  let pick : Option Instr :=
    match t with
    | 0 => some (.nopq p) | 1 => some (.launch p) | 2 => some (.queueDelta p) | 3 => some (.copyh p) | 4 => some (.waitq p)
    | 5 => some (.sigq p) | 6 => some (.fenceq p)
    | _ => none
  match pick with
  | none => .error (.malformedPacket t)
  | some i => if i.wellFormed then .ok i else .error (.malformedPacket t)

/-- The management operation of a packet; a malformed one is the event of spec 18 R422. -/
def decodeManagement (m : MgmtPacket) : Instr :=
  let pick : Option Instr :=
    match wfield m.slot.w0 0 8 with
    | 0x01 => some (.create m) | 0x02 => some (.destroy m) | 0x03 => some (.mapq m) | 0x04 => some (.unmapq m)
    | 0x05 => some (.key m) | 0x06 => some (.thaw m) | 0x07 => some (.discard m) | 0x08 => some (.enroll m)
    | 0x09 => some (.domain m) | 0x0A => some (.map m) | 0x0B => some (.unmap m) | 0x10 => some (.attest m)
    | 0x11 => some (.telem m)
    | _ => none
  match pick with
  | none => .managementPacketMalformed m
  | some i => if i.wellFormed then i else .managementPacketMalformed m

/-- A command as the 512 bits of its eight words, and back (spec 05 R104: little-endian words in order). -/
def commandBits (c : Command) : Nat := packFields (c.words.map (fun w => (64, w.toNat)))
def commandOf (x : Nat) : Command :=
  let g (n : Nat) : Word := BitVec.ofNat 64 (x / 2 ^ (64 * n))
  { w0 := g 0, w1 := g 1, w2 := g 2, w3 := g 3, w4 := g 4, w5 := g 5, w6 := g 6, w7 := g 7 }

/-- The encoder of element instructions: the 96 bits of the slot (spec 08 R165). -/
def encodeSlot (i : Instr) : Option Nat :=
  match i.encRow, i.slot with
  | some r, some f => some (slotBits r.op f)
  | _, _ => none

/-- The bits of a queue packet: its first slot, then its second for COPYH (spec 16 R368). -/
def queueBits (t : Nat) (p : QPacket) : Nat × Nat :=
  if t = 3 then (1024, commandBits p.first + 2 ^ 512 * commandBits p.second) else (512, commandBits p.first)

/-- The queue packet of the bits of one slot or two. -/
def queueOf (nbits x : Nat) : QPacket :=
  { first := commandOf x, second := if nbits ≤ 512 then commandOf 0 else commandOf (x / 2 ^ 512) }

/-- The encoder: the bits of a slot, of a command or of a queue packet, with their number. Of a management packet, the ring slot is
commandBits of its slot, and its operands are words of the body (spec 18 R422). Events have no word. -/
def encode (i : Instr) : Option (Nat × Nat) :=
  match encodeSlot i with
  | some x => some (96, x)
  | none =>
    match i.commandCode with
    | some (_, _, c) => some (512, commandBits c)
    | none =>
      match i.queueCode with
      | some (t, p) => some (queueBits t p)
      | none => none

/-- A number from little-endian bytes (spec 00 R3). -/
def leNat : List Byte → Nat
  | [] => 0
  | b :: l => b.toNat + 256 * leNat l

/-- The little-endian bytes of a number. -/
def leBytes : Nat → Nat → List Byte
  | 0, _ => []
  | n + 1, x => BitVec.ofNat 8 x :: leBytes n (x / 256)

/-- The instruction of a row's bits: a slot of 96 bits; a command of 512 bits, or where they are none a queue packet; two slots of a ring. -/
def decodeTableWord (nbits w : Nat) : Option Instr :=
  if nbits ≤ 96 then
    match decodeSlot (leNat (leBytes 12 w)) with
    | .ok i => some i
    | .error _ => none
  else if nbits ≤ 512 then
    match decodeCommand (commandOf (leNat (leBytes 64 w))) with
    | .ok i => some i
    | .error _ =>
      match decodeQueue (queueOf 512 (leNat (leBytes 64 w))) with
      | .ok i => some i
      | .error _ => none
  else
    match decodeQueue (queueOf 1024 (leNat (leBytes 128 w))) with
    | .ok i => some i
    | .error _ => none

end Sys2Proof
end

