-- ==== Sys2Proof/Machine/Cipher.lean ====
section
/-! DEFINITION. The inline cipher of the memory nodes (spec 02 R43, R44): AES-256 (FIPS 197) and the XTS mode (IEEE 1619) on the
32 B sector. A state and a block are lists of 16 bytes, first byte first. -/

namespace Sys2Proof

/-- Doubling in the field of AES. -/
def aesDouble (x : Nat) : Nat := if x < 128 then 2 * x else (2 * x - 256) ^^^ 0x1B

/-- The product of a constant of the column mixing and a byte, bit by bit of the constant. -/
def aesTimes (c x : Nat) : Nat :=
  let x2 := aesDouble x
  let x4 := aesDouble x2
  (if c % 2 = 1 then x else 0) ^^^ (if c / 2 % 2 = 1 then x2 else 0) ^^^ (if c / 4 % 2 = 1 then x4 else 0)
    ^^^ (if c / 8 % 2 = 1 then aesDouble x4 else 0)

/-- The substitution tables, byte i at bits 8·i up. -/
def aesSboxBits : Nat :=
  0x16BB54B00F2D99416842E6BF0D89A18CDF2855CEE9871E9B948ED9691198F8E1 * 2 ^ 1792
    + 0x9E1DC186B95735610EF6034866B53E708A8BBD4B1F74DDE8C6B4A61C2E2578BA * 2 ^ 1536
    + 0x8AE7A65EAF4566CA94ED58D6D37C8E779E4959162ACD3C25C2406490A3A32E0 * 2 ^ 1280
    + 0xDB0B5EDE14B8EE4688902A22DC4F816073195D643D7EA7C41744975FEC130CCD * 2 ^ 1024
    + 0xD2F3FF1021DAB6BCF5389D928F40A351A89F3C507F02F94585334D43FBAAEFD0 * 2 ^ 768
    + 0xCF584C4A39BECB6A5BB1FC20ED00D153842FE329B3D63B52A05A6E1B1A2C8309 * 2 ^ 512
    + 0x75B227EBE28012079A059618C323C7041531D871F1E5A534CCF73F362693FDB7 * 2 ^ 256
    + 0xC072A49CAFA2D4ADF04759FA7DC982CA76ABD7FE2B670130C56F6BF27B777C63
def aesInvBits : Nat :=
  0x7D0C2155631469E126D677BA7E042B17619953833CBBEBC8B0F52AAE4D3BE0A0 * 2 ^ 1792
    + 0xEF9CC9939F7AE52D0D4AB519A97F51605FEC8027591012B131C7078833A8DD1F * 2 ^ 1536
    + 0xF45ACD78FEC0DB9A2079D2C64B3E56FC1BBE18AA0E62B76F89C5291D711AF147 * 2 ^ 1280
    + 0x6EDF751CE837F9E28535ADE72274AC9673E6B4F0CECFF297EADC674F4111913A * 2 ^ 1024
    + 0x6B8A130103BDAFC1020F3FCA8F1E2CD00645B3B80558E4F70AD3BC8C00ABD890 * 2 ^ 768
    + 0x849D8DA75746155EDAB9EDFD5048706C92B6655DCC5CA4D41698688664F6F872 * 2 ^ 512
    + 0x25D18B6D49A25B76B224D92866A12E084EC3FA420B954CEE3D23C2A632947B54 * 2 ^ 256
    + 0xCBE9DEC444438E3487FF2F9B8239E37CFBD7F3819EA340BF38A53630D56A0952
def aesSub (x : Nat) : Nat := aesSboxBits / 2 ^ (8 * x) % 256
def aesInvSub (x : Nat) : Nat := aesInvBits / 2 ^ (8 * x) % 256

/-- Exclusive or of two lists of bytes. -/
def xorBytes (a b : List Nat) : List Nat := List.zipWith (fun x y => x ^^^ y) a b

/-- The round keys of AES-256: from the last eight words (newest first) n more words, word number i next. -/
def aesExpand (i rcon : Nat) : Nat → List (List Nat) → List (List Nat)
  | 0, w => w
  | n + 1, w =>
    let last := w.headD []
    let t :=
      if i % 8 = 0 then
        match (last.drop 1 ++ last.take 1).map aesSub with
        | b :: l => (b ^^^ rcon) :: l
        | [] => []
      else if i % 8 = 4 then last.map aesSub else last
    aesExpand (i + 1) (if i % 8 = 0 then aesDouble rcon else rcon) n (xorBytes (w.getD 7 []) t :: w)

/-- Bytes in groups of n. -/
def bytesBy (n : Nat) : Nat → List Nat → List (List Nat)
  | 0, _ => []
  | k + 1, l => l.take n :: bytesBy n k (l.drop n)

/-- The fifteen round keys of a 32-byte key. -/
def aesKeys (key : List Nat) : List (List Nat) :=
  bytesBy 16 15 ((aesExpand 8 1 52 (bytesBy 4 8 key).reverse).reverse.flatMap (fun w => w))

/-- The row shift and its inverse: row r of column c comes from column c ± r. -/
def aesShift (l : List Nat) : List Nat := (List.range 16).map (fun i => l.getD ((i / 4 + i % 4) % 4 * 4 + i % 4) 0)
def aesUnshift (l : List Nat) : List Nat := (List.range 16).map (fun i => l.getD ((i / 4 + 4 - i % 4) % 4 * 4 + i % 4) 0)

/-- The column mixing with a row of constants. -/
def aesMix (a b c d : Nat) (l : List Nat) : List Nat :=
  (List.range 16).map (fun i =>
    let x (k : Nat) : Nat := l.getD (i / 4 * 4 + (i % 4 + k) % 4) 0
    aesTimes a (x 0) ^^^ aesTimes b (x 1) ^^^ aesTimes c (x 2) ^^^ aesTimes d (x 3))

/-- The rounds of the cipher after the first key: the last one does not mix. -/
def aesRounds : List (List Nat) → List Nat → List Nat
  | [], s => s
  | [k], s => xorBytes (aesShift (s.map aesSub)) k
  | k :: ks, s => aesRounds ks (xorBytes (aesMix 2 3 1 1 (aesShift (s.map aesSub))) k)

/-- The rounds of the inverse cipher after its first key. -/
def aesUnrounds : List (List Nat) → List Nat → List Nat
  | [], s => s
  | [k], s => xorBytes ((aesUnshift s).map aesInvSub) k
  | k :: ks, s => aesUnrounds ks (aesMix 14 11 13 9 (xorBytes ((aesUnshift s).map aesInvSub) k))

/-- AES-256 on one block, and its inverse. -/
def aesEncrypt (key block : List Nat) : List Nat :=
  match aesKeys key with
  | [] => block
  | k :: ks => aesRounds ks (xorBytes block k)
def aesDecrypt (key block : List Nat) : List Nat :=
  match (aesKeys key).reverse with
  | [] => block
  | k :: ks => aesUnrounds ks (xorBytes block k)

/-- The bytes of a number, lowest first. -/
def natBytes (n x : Nat) : List Nat := (List.range n).map (fun i => x / 256 ^ i % 256)
def bytesNat (l : List Nat) : Nat := l.foldr (fun b acc => b + 256 * acc) 0

/-- The tweak of the next block: doubling in the field of XTS. -/
def xtsDouble (t : Nat) : Nat := if t < 2 ^ 127 then 2 * t else (2 * t - 2 ^ 128) ^^^ 0x87

/-- The halves of a slot's key, low byte first: the low 32 bytes encipher the data, the high 32 the tweak (log 7). -/
def xtsDataKey (key : BitVec 512) : List Nat := natBytes 32 key.toNat
def xtsTweakKey (key : BitVec 512) : List Nat := natBytes 32 (key.toNat / 2 ^ 256)

/-- One sector with a block operation between its tweaks: the two 16-byte blocks of the data unit numbered PA[47:5] (spec 02 R43). -/
def xtsSector (op : List Nat → List Nat) (key : BitVec 512) (sector : Nat) (x : BitVec 256) : BitVec 256 :=
  let t0 := bytesNat (aesEncrypt (xtsTweakKey key) (natBytes 16 sector))
  let block (t lo : Nat) : Nat := bytesNat (xorBytes (op (xorBytes (natBytes 16 lo) (natBytes 16 t))) (natBytes 16 t))
  BitVec.ofNat 256 (block t0 (x.toNat % 2 ^ 128) + 2 ^ 128 * block (xtsDouble t0) (x.toNat / 2 ^ 128))

/-- A sector enciphered and deciphered under a key; the key of KID 0 is 0 and leaves it plain (spec 02 R43). -/
def encipher (key : BitVec 512) (sector : Nat) (x : BitVec 256) : BitVec 256 :=
  if key = 0 then x else xtsSector (aesEncrypt (xtsDataKey key)) key sector x
def decipher (key : BitVec 512) (sector : Nat) (x : BitVec 256) : BitVec 256 :=
  if key = 0 then x else xtsSector (aesDecrypt (xtsDataKey key)) key sector x

end Sys2Proof
end

