-- ==== Sys2Proof/Machine/Map.lean ====
section
/-! DEFINITION. Reading and writing sparse maps in their one canonical form: keys strictly rising, no entry equal to the default. -/

namespace Sys2Proof

/-- What a sparse map holds at a key; an unlisted key holds the default. -/
def Map.get {α : Type} (d : α) : Map α → Nat → α
  | [], _ => d
  | (k, v) :: m, a => if k = a then v else Map.get d m a

/-- Removes a key from a sparse map. -/
def Map.erase {α : Type} : Map α → Nat → Map α
  | [], _ => []
  | (k, v) :: m, a => if k = a then m else (k, v) :: Map.erase m a

/-- Puts an entry at its place among rising keys, replacing one that stands there. -/
def Map.insert {α : Type} : Map α → Nat → α → Map α
  | [], a, x => [(a, x)]
  | (k, v) :: m, a, x =>
    if a < k then (a, x) :: (k, v) :: m
    else if k = a then (a, x) :: m
    else (k, v) :: Map.insert m a x

/-- Writes a sparse map: writing the default removes the entry. -/
def Map.set {α : Type} [DecidableEq α] (d : α) (m : Map α) (a : Nat) (x : α) : Map α :=
  if x = d then Map.erase m a else Map.insert m a x

/-- Every key of the map is above a bound. -/
def Map.above {α : Type} (b : Nat) : Map α → Bool
  | [] => true
  | (k, _) :: m => decide (b < k) && Map.above b m

/-- The canonical form: keys strictly rising, no entry equal to the default. -/
def Map.wf {α : Type} [DecidableEq α] (d : α) : Map α → Bool
  | [] => true
  | (k, v) :: m => decide (v ≠ d) && Map.above k m && Map.wf d m

/-- Adds a number to a rising list without repeats. -/
def Nats.add : List Nat → Nat → List Nat
  | [], a => [a]
  | k :: m, a => if a < k then a :: k :: m else if k = a then k :: m else k :: Nats.add m a

/-- Removes a number from a list. -/
def Nats.del : List Nat → Nat → List Nat
  | [], _ => []
  | k :: m, a => if k = a then Nats.del m a else k :: Nats.del m a

/-- The elements of a list with its n-th replaced. -/
def listSet {α : Type} : List α → Nat → α → List α
  | [], _, _ => []
  | _ :: l, 0, y => y :: l
  | x :: l, n + 1, y => x :: listSet l n y

/-- The elements of a list without its n-th. -/
def listDrop {α : Type} : List α → Nat → List α
  | [], _ => []
  | _ :: l, 0 => l
  | x :: l, n + 1 => x :: listDrop l n

end Sys2Proof
end

