-- ==== Sys2Proof/Machine/State.lean ====
section
/-! DEFINITION. The state of the part as plain data: package, cores, elements, controllers, networks, engines, Foreveder,
ports and root, and the state after reset. Sparse maps list only what differs from the default named beside each field. -/

namespace Sys2Proof.Machine

/-- A packet as carried on a link and held in a queue entry (spec 06 R119). `perr` is set when the received PAR bit
does not match the parity of the other bits (R120); every packet the part itself builds has it clear. -/
structure Packet where
  pay : BitVec 256
  crd : Bool
  pois : BitVec 8
  tag : BitVec 3
  kind : BitVec 3
  lw : BitVec 2
  lenm : BitVec 3
  perr : Bool
  deriving DecidableEq, Repr

/-- A latched header: its 32-bit payload and its poison (spec 06 R130). -/
structure HReg where
  pay : BitVec 32
  pois : Bool
  deriving DecidableEq, Repr

/-- A data-file entry with its descriptor (spec 01 R23, 07 R145). -/
structure DEntry where
  pay : BitVec 256
  pois : BitVec 8
  lw : BitVec 2
  len : BitVec 4
  deriving DecidableEq, Repr

/-- A constant register, committed (spec 07 R146): value and one poison bit for each 8-byte quarter. -/
structure KReg where
  val : BitVec 256
  pois : BitVec 4
  deriving DecidableEq, Repr

/-- A constant register's staging: value, quarter poison, staged flag (spec 07 R144, 01 R29). -/
structure KStage where
  val : BitVec 256
  pois : BitVec 4
  flag : Bool
  deriving DecidableEq, Repr

/-- A joined packet with its two views and the headers its entries were read under (spec 06 R133). An EOS or ERR that the join unit pushes on qj stands in both views. -/
structure Joined where
  a : Packet
  b : Packet
  ha : HReg
  hb : HReg
  deriving DecidableEq, Repr

/-- Where a local-port packet goes (spec 12 R279). -/
inductive PortDest where
  | label (label : Nat)
  | remote (core label : Nat)
  | elem (elem : Nat)
  | const (core elem reg : Nat) (commit : Bool)
  | nowhere
  deriving DecidableEq, Repr

/-- An entry of a stream element's return buffer (spec 09 R199): `need` accesses still to return; filled when 0. -/
structure RetEntry where
  id : Nat
  pkt : Packet
  mask : BitVec 6
  need : Nat
  dest : PortDest
  deriving DecidableEq, Repr

/-- A tracked command of a stream element (spec 09 R213): its completion record once complete. -/
structure Tracked where
  cmd : Nat
  done : Option Word
  deriving DecidableEq, Repr

/-- An entry of a priority queue (spec 09 R195). -/
structure PqEntry where
  key : BitVec 32
  val : BitVec 32
  pois : Bool
  deriving DecidableEq, Repr

/-- A column register or a column of a partial row: V and the sticky bits POIS, NAN, NINF, PINF, INX from bit 4 down
(spec 13 R291, R310). -/
structure ColReg where
  v : BitVec 48
  flags : BitVec 5
  deriving DecidableEq, Repr

/-- A partial row (spec 13 R291): exponent, column count, columns that are not all zero. -/
structure PartialRow where
  xc : BitVec 9
  n : Nat
  cols : Map ColReg
  deriving DecidableEq, Repr

/-- A row of a row buffer: element bits, poison, the header recorded with it (spec 13 R295). -/
structure ARow where
  bits : BitVec 16
  pois : Bool
  hdr : HReg
  deriving DecidableEq, Repr

/-- The three states of a row buffer (spec 13 R295). -/
inductive BufState where
  | empty | filling | ready
  deriving DecidableEq, Repr

/-- A row buffer of a matrix element (spec 13 R292, R295). `seq` orders ready buffers by age (R305). -/
structure RowBuf where
  state : BufState
  rows : List ARow
  seq : Nat
  deriving DecidableEq, Repr

/-- An exact row sum with its poison (spec 13 R305, RA_h). -/
structure RowSum where
  val : Val
  pois : Bool
  deriving DecidableEq, Repr

/-- The matrix element's own state (spec 13 R292, R293). Cells: key 4096·bank + 64·row + column, bit 8 the poison bit.
Columns of a bank: key 128·bank + column; halves: key 2·(128·bank + column) + half. -/
structure MeState where
  cells : Map (BitVec 9)
  mode : Map (BitVec 2)
  sv : Map Bool
  xb : Map (BitVec 8)
  sb : Map (BitVec 16)
  zb : Map (BitVec 8)
  pd : Map Bool
  sum : Map Int
  ab : BitVec 2
  cr : Map ColReg
  xc : BitVec 9
  rb0 : RowBuf
  rb1 : RowBuf
  lb : BitVec 2
  ra0 : RowSum
  ra1 : RowSum
  rv : Bool
  sinceHdr : Nat
  deriving DecidableEq, Repr

/-- A chain register of an accumulate element (spec 14 R322). -/
structure Chain where
  bound : Bool
  pkg : Nat
  lcore : Nat
  core : Nat
  first : Nat
  count : Nat
  x : BitVec 9
  base : Nat
  rstr : Nat
  nsend : Nat
  cur : Nat
  sent : Nat
  dix : Nat
  gen : BitVec 13
  deriving DecidableEq, Repr

/-- A word on the accumulate network (spec 14 R316, R317): package and core at the range's end of its way, the sending element's key
(128·core + element) and chain. -/
inductive AccWord where
  | contrib (id pkg core ent : Nat) (word : BitVec 128) (dix : Nat) (gen : BitVec 13) (src chain : Nat)
  | marker (pkg core first dix : Nat) (gen : BitVec 13) (src : Nat)
  | unbind (pkg core first dix : Nat) (gen : BitVec 13) (src : Nat)
  | refusal (pkg core ent dix : Nat) (gen : BitVec 13) (cause src chain : Nat)
  | bindReq (pkg core first : Nat) (x : BitVec 9) (tcid src chain : Nat)
  | bindAns (pkg core : Nat) (answer : Nat) (count dix : Nat) (gen : BitVec 13) (x : BitVec 9) (src chain : Nat)
  deriving DecidableEq, Repr

/-- The first refusal that reached an accumulate element (spec 14 R317, R337): tag, entry, cause, core, package, chain. -/
structure RefRecord where
  dix : Nat
  gen : BitVec 13
  ent : Nat
  cause : Nat
  core : Nat
  pkg : Nat
  chain : Nat
  deriving DecidableEq, Repr

/-- How far a chain's bind has come (spec 14 R329): none, asked, told to ask again from a cycle on, asked again. -/
inductive BindState where
  | idle | asked | again (cycle : Nat) | reasked
  deriving DecidableEq, Repr

/-- The trap an element has taken and keeps undone (spec 17 R395). -/
structure TrapInfo where
  cause : Nat
  orig : Nat
  slot : Nat
  ctx : Nat
  detail : BitVec 128
  deriving DecidableEq, Repr

/-- A request sent to another package for bytes, and its answer once it has come (spec 18 R429): bytes and poison mask. -/
structure Ask where
  tag : Nat
  pkg : Nat
  pa : Nat
  size : Nat
  got : Option (List Byte × BitVec 2)
  deriving DecidableEq, Repr

/-- What an element holds (spec 07 R144, 12 R264, 13 R292, 14 R322, 09 R199, 11 R252). `left`: cycles that a firing in progress still
takes before its last (R158); `latch`: the scratchpad lines of that firing as they stood when it began: address, bytes, poison (09 R190); `feed`: words that it has still to put into the injection buffer (14 R318); `asks`: what it has asked
of other packages. `pqAt`: the free value from which its scratchpad's bytes are read since a queue was arranged in them (log 17).
Its context images stand in memory (01 R25). Lists name only what differs from the default. -/
structure Elem where
  active : Bool
  opening : Option (BitVec 3)
  ctx : BitVec 3
  loaded : BitVec 8
  st : BitVec 6
  d : Map DEntry
  k : Map KReg
  ks : Map KStage
  hregs : Map HReg
  gens : Map Nat
  rng : BitVec 32
  loss : Map Nat
  qs : Map (List Packet)
  qj : List Joined
  join : Option Joined
  joinA : Nat
  joinB : Nat
  outs : Map (Option Packet)
  oyDest : PortDest
  byps : Map (Option Packet)
  commits : Map Nat
  merge : Option Packet
  split : Nat
  carry : BitVec 16
  count : BitVec 32
  sinkc : Nat
  reported : Bool
  ret : List RetEntry
  tracked : List Tracked
  pend : List (Nat × Nat × Nat)
  pq : List PqEntry
  pqAt : Option Nat
  lut : Map (BitVec 64)
  lutp : Map Bool
  me : MeState
  pin : Option PartialRow
  chains : Map Chain
  binds : Map BindState
  fc : Nat
  inj : List AccWord
  refRec : Option RefRecord
  refCount : Nat
  trap : Option TrapInfo
  stopped : Bool
  stopIn : Nat
  held : Bool
  acted : Bool
  saveCh : BitVec 6
  busy : Option Nat
  left : Nat
  latch : List (Nat × List Byte × BitVec 2)
  feed : Option (List AccWord)
  asks : List Ask
  cons : Bool
  fenceLd : List Nat
  fenceAll : List Nat
  watch : List Nat
  inject : List Packet
  deriving DecidableEq, Repr

/-- What an access does where it is performed (spec 15 R343, R350). -/
inductive MemOp where
  | load (ret at_ : Nat)
  | store (data : List Byte) (marks : List Bool)
  | signal (inc : Int) (err : Bool)
  | semInit (count : Nat) (pois : Bool)
  | barInit (xarr xbytes : Nat) (pois : Bool)
  | barArrive (n : Nat) (pois : Bool)
  | copies (label mask : Nat) (pkt : Packet)
  deriving DecidableEq, Repr

/-- A FAB access issued and not yet performed (spec 15 R343 to R351): the accesses `after` must be performed first; `sent`: it is on its way
to another package, which has not answered. -/
structure Access where
  id : Nat
  key : Nat
  op : MemOp
  pkg : Nat
  pa : Nat
  size : Nat
  kid : Nat
  noAlloc : Bool
  tcid : Nat
  va : Nat
  after : List Nat
  sent : Bool
  deriving DecidableEq, Repr

/-- Load data on its way to a return-buffer entry (spec 09 R199). -/
structure Returned where
  key : Nat
  ret : Nat
  at_ : Nat
  data : List Byte
  pois : Bool
  deriving DecidableEq, Repr

/-- A translation held by a translation buffer (spec 02 R50): page size code 0 64 KiB, 1 2 MiB, 2 1 GiB. -/
structure TlbEntry where
  tcid : Nat
  vpage : Nat
  size : Nat
  leaf : Word
  deriving DecidableEq, Repr

/-- A pointer entry held by a die's walkers (spec 02 R50): the table that the entry of a level points to, for the addresses whose bits
from that level's index up are `prefix_`. -/
structure PtrEntry where
  tcid : Nat
  level : Nat
  prefix_ : Nat
  table : Nat
  deriving DecidableEq, Repr

/-- A line of a memory-side cache (spec 02 R36): the KID it was filled under, the sectors it holds, those it has not written back. -/
structure CacheLine where
  kid : Nat
  have_ : BitVec 4
  dirty : BitVec 4
  deriving DecidableEq, Repr

/-- A translated access (spec 02 R47, R49). -/
structure Xlat where
  pkg : Nat
  kid : Nat
  noAlloc : Bool
  pa : Nat
  deriving DecidableEq, Repr

/-- Who issued an engine command (spec 05 R103): a stream element's key, or a queue thread and the number of its packet. -/
inductive CmdSrc where
  | elem (key : Nat)
  | thread (t packet : Nat)
  deriving DecidableEq, Repr

/-- What ends a chunk once every byte is performed (spec 05 R107, R116): the progress, whether it was the last, the status and cause that stop
the command, whether a byte was poisoned, the byte arrivals: core, bytes, mark. -/
structure Landing where
  prog : Nat
  last : Bool
  stop : Option (Nat × Nat)
  pois : Bool
  arrive : List (Nat × Nat × Bool)
  deriving DecidableEq, Repr

/-- A command held by an engine (spec 05 R103 to R110): progress, and status once it has stopped. `replyAt`: where its record goes, as
translated when it was accepted (R105, R107). `recheck`: its reply address is still to be checked (R105, after a freeze); `gate`: the core
whose wake it waits for (01 R32); `sent`: its task packet has left; `asks` and `owes`: what it has asked of other packages, and the writes
that they have not answered; `landing`: the end of its chunk meanwhile; `coll`: the collective that it has joined. -/
structure Cmd where
  id : Nat
  c : Command
  src : CmdSrc
  tcid : Nat
  replyAt : Option Xlat
  bad : Bool
  started : Bool
  prog : Nat
  finished : Bool
  status : Nat
  cause : Nat
  role : BitVec 26
  pois : Bool
  paused : Bool
  recheck : Bool
  gate : Option Nat
  sent : Bool
  asks : List Ask
  owes : List Nat
  landing : Option Landing
  coll : Option Nat
  deriving DecidableEq, Repr

/-- A command offered to an engine and not yet accepted (spec 05 R103, 09 R212). -/
structure Offer where
  c : Command
  src : CmdSrc
  tcid : Nat
  slot : Nat
  deriving DecidableEq, Repr

/-- A collective whose members have all issued it (spec 09 R218): its number, the table's entries, the commands by rank, the numbers of those of
this package, the announcements of the others (log 47), the ranks that have joined, whether other packages know the sums, the root's range. -/
structure Coll where
  id : Nat
  tab : List Nat
  coms : List Command
  cmds : List (Option Nat)
  peers : List (Option PeerReq)
  joined : List Nat
  told : Bool
  dix : Option Nat
  deriving DecidableEq, Repr

/-- An engine of a core (spec 05 R102, R103). -/
structure Engine where
  offers : List Offer
  lastSrc : Nat
  queue : List Cmd
  running : List Cmd
  frozen : Bool
  frozenAt : Nat
  deriving DecidableEq, Repr

/-- A child launch waiting at a region (spec 16 R386). -/
structure Child where
  ctx : Nat
  label : Nat
  payload : List Word
  succ : List Word
  scope : Nat
  deriving DecidableEq, Repr

/-- The states of a region block (spec 16 R375). -/
inductive RState where
  | free | loading | idle | running | completing | trapped | preempting | saved
  deriving DecidableEq, Repr

/-- A region block: words 0-3 (spec 16 R375), trap words 4-7 (17 R396), iteration vector (17 R397), and what the
controller keeps of the launch, the cut and the detector. -/
structure Region where
  rid : BitVec 16
  tcid : Nat
  state : RState
  rw0 : Nat
  cl0 : Nat
  nrows : Nat
  ncols : Nat
  ctx : Nat
  hnd : BitVec 16
  cpl : Nat
  snkx : Nat
  snkd : Nat
  resd : Nat
  errt : Nat
  tv : Bool
  more : Nat
  cause : Nat
  orig : Nat
  elem : Nat
  slot : Nat
  tctx : Nat
  cyc : BitVec 64
  detail : BitVec 128
  iter : Map (BitVec 128)
  entry : Nat
  rix : Nat
  cont : Nat
  imx : Nat
  launch : Nat
  children : List Child
  succ : List Word
  succScope : Nat
  inChild : Bool
  start : BitVec 64
  quiet : Nat
  cutAt : BitVec 64
  fromIdle : Bool
  overdue : Bool
  told : Bool
  deriving DecidableEq, Repr

/-- A range descriptor (spec 14 R319). `freeAt` is the cycle from which it may be made live again. -/
structure RangeDesc where
  rid : BitVec 16
  tcid : Nat
  mrk : Nat
  bnds : Nat
  arr : Nat
  exp : Nat
  gen : BitVec 13
  live : Bool
  err : Bool
  cause : Nat
  x : BitVec 9
  count : Nat
  first : Nat
  freeAt : Nat
  deriving DecidableEq, Repr

/-- A packet pushed on oy, on its way to the region controller (spec 12 R279). -/
structure PortPkt where
  src : Nat
  dest : PortDest
  pkt : Packet
  deriving DecidableEq, Repr

/-- A task packet on the task network or waiting at its destination (spec 12 R280), or a child launch (16 R386): `peer` is the request that brought
it from another package, where its core is settled. -/
inductive Task where
  | data (core label src : Nat) (pkt : Packet)
  | child (core : Nat) (words : List Word) (succ : List Word) (tcid : Nat) (srcCore cmd : Nat) (peer : Option PeerReq)
  deriving DecidableEq, Repr

/-- A constant write of CFGK on the configuration network (spec 01 R16, 12 R281): where it goes, whether a commit follows, who sent it. -/
structure Staging where
  core : Nat
  elem : Nat
  reg : Nat
  pkt : Packet
  commit : Bool
  src : Nat
  deriving DecidableEq, Repr

/-- A delta record (spec 16 R382): logical core (511: all), element, context, item, 32 bytes of data, and its offset in the container. -/
structure DeltaRec where
  lcore : Nat
  elem : Nat
  ctx : Nat
  item : Nat
  data : List Byte
  off : Nat
  deriving DecidableEq, Repr

/-- A launch (spec 16 R361 to R384). `place` gives the physical core of each
logical core, package by package of `ncores` (R363; 512·(package + 1) + core in another package), `regions` the blocks it took, `rem` those that
have not ended, `labels` the binding entries it wrote, `delta` the records of a delta in progress. -/
structure Launch where
  id : Nat
  hnd : BitVec 16
  tcid : Nat
  thread : Nat
  packet : Nat
  cpl : Nat
  img : Nat
  dlt : Nat
  poff : Nat
  params : List Word
  levels : List Word
  roles : List Word
  res : Bool
  place : List Nat
  ncores : Nat
  regions : List Nat
  rem : Nat
  labels : List Nat
  waiting : Bool
  delta : Option (List DeltaRec)
  deltaThread : Nat
  deltaPacket : Nat
  deriving DecidableEq, Repr

/-- A process (spec 18 R421, R423). -/
structure Proc where
  live : Bool
  quantum : Nat
  kids : List Nat
  ringVa : Nat
  ringLog : Nat
  trapVa : Nat
  saveBase : Nat
  saveSize : Nat
  wix : Nat
  lost : Nat
  digests : List (BitVec 384)
  deriving DecidableEq, Repr

/-- What a queue thread is blocked on (spec 16 R369, R370). A FENCEQ is kept: its slots may be used again once it has started. -/
inductive Block where
  | none
  | waitq (va : Nat) (value : Word) (cond : Nat) (sem : Bool)
  | fenceq (p : QPacket)
  | launch (id : Nat)
  deriving DecidableEq, Repr

/-- A queue thread of Foreveder (spec 16 R367 to R371): the ring it serves, how many packets it has started, the
packets started and not complete; `owes`: accesses of its packets that other packages have not answered, by number and packet. -/
structure Thread where
  bound : Bool
  mapped : Bool
  tcid : Nat
  queue : Nat
  ringVa : Nat
  awake : Bool
  started : Nat
  opened : List Nat
  owes : List (Nat × Nat)
  block : Block
  stopped : Bool
  deriving DecidableEq, Repr

/-- A core save area (spec 17 R412): core memory, poisoned sectors, semaphores, barriers, binding table. -/
structure CoreArea where
  bytes : List Host.Cell
  poison : List Nat
  sems : List (Nat × BitVec 64)
  bars : List (Nat × BitVec 128)
  binds : List (Nat × BitVec 32)
  deriving DecidableEq, Repr

/-- Saved state scanned out of a claimed core (spec 17 R409 to R412). `block` is the region block it had; `images` and `poison` hold the
context images and the scratchpads of its elements. `area` and `coreAt`: where its area and its core's lie in the save pool. `onto`: the core that
the core area it refers to was restored onto. -/
structure Save where
  region : Region
  block : Nat
  core : Nat
  elems : List (Nat × Elem)
  images : List Host.Cell
  poison : List Nat
  ranges : List (Nat × RangeDesc)
  words : List (Nat × BitVec 128)
  binds : List (Nat × BitVec 32)
  cmds : List (Nat × Cmd)
  coreArea : Option CoreArea
  area : Nat
  coreAt : Nat
  onto : Option Nat
  deriving DecidableEq, Repr

/-- A frame kept for replay, or the state of a port (spec 18 R425, R426, R428). Port 12 is the host port. -/
structure Port where
  rxNext : Nat
  txNext : Nat
  replay : List (Nat × Frame)
  outq : List Frame
  credits : Map Nat
  acked : Nat
  resends : Nat
  naks : Nat
  retraining : Bool
  failed : Bool
  frozen : Bool
  attested : Bool
  drops : Nat
  keyed : Bool
  deriving DecidableEq, Repr

/-- A host request (spec 18 R416, R417): a WRITE with its bytes, or a READ. -/
structure HostReq where
  write : Bool
  rkey : BitVec 32
  va : Nat
  len : Nat
  data : List Byte
  deriving DecidableEq, Repr

/-- A host queue pair (spec 18 R416, R417, R438). A frozen one keeps the violating request and those behind it. -/
inductive QpState where
  | ready | limited | error
  | frozen (l : List HostReq)
  deriving DecidableEq, Repr

/-- How far the security root has come (spec 18 R431). -/
inductive Phase where
  | reset | normal | recovery
  deriving DecidableEq, Repr

/-- An image-key slot (spec 18 R434, R436): 0 empty, 1 installed, 2 revoked. -/
structure KeySlot where
  state : Nat
  ecdsa : List Byte
  hss : List Byte
  deriving DecidableEq, Repr

/-- The security root (spec 18 R431 to R437): the two flash images, the fused minimum version, keys, counters. -/
structure Root where
  phase : Phase
  primary : List Byte
  backup : List Byte
  version : Nat
  minVersion : Nat
  running : List Byte
  owner : KeySlot
  images : Map KeySlot
  leaves : Nat
  rejected : Nat
  deriving DecidableEq, Repr

/-- Where a firing, a command or a packet that is being executed came from. -/
inductive Focus where
  | none
  | slot (key ctx n : Nat)
  | command (core eng idx : Nat)
  | thread (t : Nat)
  | management
  deriving DecidableEq, Repr

/-- Who moves next (log 3): an element, an engine's command, a queue thread, the management queue, or an event by name. -/
inductive Turn where
  | element (key : Nat)
  | command (core eng idx : Nat)
  | thread (t : Nat)
  | management
  | event (i : Instr)
  deriving DecidableEq, Repr

/-- A reply or message that leaves the package (spec 18 R417, R419, R422, R425, R429). -/
inductive OutMsg where
  | nak (qp : Nat) (kind : Nat)
  | data (qp : Nat) (bytes : List Byte)
  | report (src cause : Nat) (detail : BitVec 128)
  | done (role : BitVec 26) (cause pa : Nat)
  | peer (r : PeerReq)
  | refuse (r : PeerReq)
  | answer (r : PeerReq) (data : List Byte) (pois : BitVec 2)
  | frame (port : Nat) (kind : Nat) (num : Nat)
  deriving DecidableEq, Repr

/-- Power state of a core (spec 01 R32). -/
inductive Power where
  | on | gated | waking
  deriving DecidableEq, Repr

/-- Traffic held at the boundary of a gated core (spec 01 R32): the last four are Foreveder's: a write, a completion merge (16 R379), an entry
of a fault ring (18 R420), and a configuration load (08 R171). -/
inductive Held where
  | access (a : Access)
  | window (w : WinAccess) (atomic : Bool)
  | signal (n : Nat) (inc : Int) (err : Option (Nat × BitVec 26))
  | task (t : Task)
  | staging (x : Staging)
  | word (w : AccWord)
  | peer (r : PeerReq)
  | store (role : BitVec 26) (kid pa : Nat) (data : List Byte) (marks : List Bool)
  | merge (launch cyc errt resd cause status : Nat)
  | report (tcid cause src queue index : Nat) (rest : List Nat) (vec : Option (List Byte))
  | load (img : List ImageElem)
  deriving DecidableEq, Repr

/-- The reasons the machine stops. -/
inductive Fault where
  /-- Raised by every step after a loss of power (spec 18 R440): the device is off. Safe: nothing runs. -/
  | poweredOff
  deriving DecidableEq, Repr

/-- The reasons an instruction has no meaning in the model. -/
inductive Refusal where
  /-- Raised by an arm of exec that has no meaning yet. Safe: nothing can be proved of it. -/
  | notModelled (mnemonic : String)
  deriving DecidableEq, Repr

/-- The whole machine. Keys: cores 0-383; elements 128·core + element; semaphores 256·core + n; barriers 2048·core + n;
AM 32768·core + entry; labels 128·core + label; region blocks 16·core + i; ranges 64·core + index; engines 4·core + e; cache lines by address div 128; translation buffers
core (its own) or 384 + die, pointer caches by die (02 R36, R50). -/
structure State where
  cycle : BitVec 64
  powered : Bool
  mem : List Host.Cell
  poison : List Nat
  softErr : Map Nat
  sectorKey : Map (BitVec 512)
  keySlots : Map (BitVec 512)
  cache : Map CacheLine
  tlb : Map (List TlbEntry)
  pointers : Map (List PtrEntry)
  roots : Map Nat
  cons : Bool
  consBusy : Bool
  consNext : List Bool
  consAt : Map Bool
  gated : Map Power
  heldq : Map (List Held)
  clock : Nat
  telemetry : Map (BitVec 512)
  am : Map (BitVec 128)
  amErr : Map Nat
  sems : Map (BitVec 64)
  bars : Map (BitVec 128)
  binding : Map (BitVec 32)
  winReg : Map (BitVec 32)
  waveReg : Map (BitVec 64)
  opReg : Map (BitVec 64)
  regions : Map Region
  ranges : Map RangeDesc
  engines : Map Engine
  lport : Map (List PortPkt)
  portLast : Map Nat
  pickLast : Map Nat
  taskWait : Map (List Task)
  taskNet : List Task
  cfgNet : List Staging
  accNet : List AccWord
  asked : List (Nat × AccWord)
  injLast : Map Nat
  colls : List Coll
  collPeers : List PeerReq
  served : Map Nat
  elems : Map Elem
  pending : List Access
  returned : List Returned
  nextId : Nat
  procs : Map Proc
  threads : Map Thread
  launches : List Launch
  saves : List Save
  mgmtSeq : Nat
  mgmtRix : Nat
  poolNext : Nat
  hostKeys : Map (BitVec 256)
  qps : Map QpState
  routes : Map (BitVec 64)
  windows : Map (BitVec 256)
  pkgNum : Nat
  measures : Map (BitVec 384)
  ports : Map Port
  paused : Bool
  root : Root
  runPos : Nat
  turnAt : Nat
  moved : List Nat
  fresh : List Nat
  replies : List OutMsg
  inputs : List Instr
  agenda : List Turn
  focus : Focus
  free : Nat
  proposal : List Nat
  deriving DecidableEq, Repr

/-- The header that scales nothing (spec 06 R130): type 000, E8M0 scale 127. -/
def HReg.neutral : HReg := { pay := 0x3F8#32, pois := false }

/-- A descriptor after reset (spec 01 R23: LW 10, LEN 1, POIS 0); payload zero (log 1). -/
def DEntry.reset : DEntry := { pay := 0, pois := 0, lw := 0b10#2, len := 1 }

/-- A constant register after reset (log 1). -/
def KReg.reset : KReg := { val := 0, pois := 0 }

/-- Staging after reset: flag clear (spec 07 R144). -/
def KStage.reset : KStage := { val := 0, pois := 0, flag := false }

/-- A column register at zero (spec 13 R292). -/
def ColReg.zero : ColReg := { v := 0, flags := 0 }

/-- An empty row buffer (spec 13 R292). -/
def RowBuf.none : RowBuf := { state := .empty, rows := [], seq := 0 }

/-- A row sum of nothing. -/
def RowSum.zero : RowSum := { val := .fin false 0 0, pois := false }

/-- The matrix element's state as Foreveder initialises it (spec 13 R292, R293). -/
def MeState.reset : MeState :=
  { cells := [], mode := [], sv := [], xb := [], sb := [], zb := [], pd := [], sum := [], ab := 0, cr := [], xc := 0,
    rb0 := RowBuf.none, rb1 := RowBuf.none, lb := 0, ra0 := RowSum.zero, ra1 := RowSum.zero, rv := false, sinceHdr := 0 }

/-- An unbound chain register (spec 14 R322). -/
def Chain.reset : Chain :=
  { bound := false, pkg := 0, lcore := 0, core := 0, first := 0, count := 0, x := 0, base := 0, rstr := 0, nsend := 0,
    cur := 0, sent := 0, dix := 0, gen := 0 }

/-- An element after reset (spec 07 R144, 12 R264, 13 R292, 14 R322); the random generator s, to which the spec gives no value before a switch wave
(03 R67), is 0, and so is every other register without one (log 1). -/
def Elem.reset : Elem :=
  { active := false, opening := none, ctx := 0, loaded := 0, st := 0, d := [], k := [], ks := [], hregs := [], gens := [],
    rng := 0, loss := [], qs := [], qj := [], join := none, joinA := 0, joinB := 0, outs := [], oyDest := .nowhere, byps := [], commits := [], merge := none,
    split := 0, carry := 0, count := 0, sinkc := 0, reported := false, ret := [], tracked := [], pend := [], pq := [], pqAt := none,
    lut := [], lutp := [], me := MeState.reset, pin := none, chains := [], binds := [], fc := 0, inj := [], refRec := none,
    refCount := 0, trap := none, stopped := false, stopIn := 0, held := false, acted := false, saveCh := 0, busy := none, left := 0, latch := [], feed := none, asks := [], cons := true,
    fenceLd := [], fenceAll := [], watch := [], inject := [] }

/-- A line that no cache holds. -/
def CacheLine.none : CacheLine := { kid := 0, have_ := 0, dirty := 0 }

/-- An idle engine (spec 05 R103). -/
def Engine.reset : Engine := { offers := [], lastSrc := 8, queue := [], running := [], frozen := false, frozenAt := 0 }

/-- A free region block (spec 16 R375). -/
def Region.reset : Region :=
  { rid := 0, tcid := 0, state := .free, rw0 := 0, cl0 := 0, nrows := 0, ncols := 0, ctx := 0, hnd := 0, cpl := 0,
    snkx := 0, snkd := 0, resd := 0, errt := 0, tv := false, more := 0, cause := 0, orig := 0, elem := 0, slot := 0,
    tctx := 0, cyc := 0, detail := 0, iter := [], entry := 0, rix := 0, cont := 0, imx := 0, launch := 0, children := [],
    succ := [], succScope := 0, inChild := false, start := 0, quiet := 0, cutAt := 0, fromIdle := false, overdue := false, told := false }

/-- A range descriptor that holds no range (spec 14 R319). -/
def RangeDesc.reset : RangeDesc :=
  { rid := 0, tcid := 0, mrk := 0, bnds := 0, arr := 0, exp := 0, gen := 0, live := false, err := false, cause := 0,
    x := 0, count := 0, first := 0, freeAt := 0 }

/-- A process that does not exist. -/
def Proc.reset : Proc :=
  { live := false, quantum := 0, kids := [], ringVa := 0, ringLog := 0, trapVa := 0, saveBase := 0, saveSize := 0,
    wix := 0, lost := 0, digests := [] }

/-- A thread that serves no queue (spec 16 R367). -/
def Thread.reset : Thread :=
  { bound := false, mapped := false, tcid := 0, queue := 0, ringVa := 0, awake := false, started := 0, opened := [], owes := [],
    block := .none, stopped := false }

/-- A port before any frame (spec 18 R425). -/
def Port.reset : Port :=
  { rxNext := 0, txNext := 0, replay := [], outq := [], credits := [], acked := 0, resends := 0, naks := 0,
    retraining := false, failed := false, frozen := false, attested := false, drops := 0, keyed := false }

/-- An empty key slot (spec 18 R434). -/
def KeySlot.empty : KeySlot := { state := 0, ecdsa := [], hss := [] }

/-- The root at reset, before it has verified the firmware (spec 18 R431). -/
def Root.reset : Root :=
  { phase := .reset, primary := [], backup := [], version := 0, minVersion := 0, running := [], owner := KeySlot.empty,
    images := [], leaves := 0, rejected := 0 }

/-- The machine right after reset: CONS is 1 and BUSY 0 (spec 15 R352), the cycle counter is 0 (12 R286), WIN is 65,536
by its default (17 R402), every element, block and register as its own reset says; core memory, scratchpads and accumulation memory are zero and
no line is pending before the first initialisation of 04 R99 (log 1). The first event is BOOT (18 R431, log 13). -/
def State.reset : State :=
  { cycle := 0, powered := true, mem := [], poison := [], softErr := [], sectorKey := [], keySlots := [], cache := [],
    tlb := [], pointers := [], roots := [], cons := true, consBusy := false, consNext := [], consAt := [], gated := [], heldq := [], clock := 2250,
    telemetry := [], am := [], amErr := [], sems := [], bars := [], binding := [], winReg := [], waveReg := [], opReg := [],
    regions := [], ranges := [], engines := [], lport := [], portLast := [], pickLast := [], taskWait := [], taskNet := [], cfgNet := [], accNet := [], asked := [], injLast := [], colls := [],
    collPeers := [], served := [],
    elems := [], pending := [], returned := [], nextId := 0, procs := [], threads := [], launches := [], saves := [],
    mgmtSeq := 0, mgmtRix := 0, poolNext := 0, hostKeys := [], qps := [], routes := [], windows := [], pkgNum := 0,
    measures := [], ports := [], paused := false, root := Root.reset, runPos := 0, turnAt := 0, moved := [], fresh := [], replies := [],
    inputs := [], agenda := [.event .boot], focus := .none, free := 0, proposal := [] }

end Sys2Proof.Machine
end

