-- ==== Sys2Proof/Machine/Effect.lean ====
section
/-! DEFINITION. The changes a meaning makes, as plain data: each sets one keyed piece of state. A meaning answers the list of
its changes, and State.apply makes them in order; so what any operation can do is said once, by State.perform. -/

namespace Sys2Proof.Machine

/-- Writes bytes from an address up, keeping the canonical form of memory. -/
def writeBytes : List Host.Cell → Nat → List Byte → List Host.Cell
  | m, _, [] => m
  | m, a, b :: l => writeBytes (Map.set 0 m a b) (a + 1) l

/-- Zeroes the bytes lo to hi − 1. -/
def clearRange (m : List Host.Cell) (lo hi : Nat) : List Host.Cell :=
  m.filter (fun c => c.1 < lo || hi ≤ c.1)

/-- Removes lo to hi − 1 from a list of numbers. -/
def clearNats (l : List Nat) (lo hi : Nat) : List Nat :=
  l.filter (fun n => n < lo || hi ≤ n)

/-- The peer port, the virtual channel and the flits of a message between packages (spec 18 R424: requests 0, responses 1, accumulate VC 0
to 3 on 3 to 6; 14 R316). -/
def peerVcs : PeerOp → Nat × Nat
  | .read => (0, 1)
  | .write => (0, 1)
  | .atomic => (0, 1)
  | .contribution => (3, 4)
  | .bind => (5, 6)
  | .marker => (3, 4)
  | .unbind => (3, 4)
  | .collective => (0, 1)
  | .task => (2, 1)
  | .ended => (0, 1)
def OutMsg.frame? : OutMsg → Option (Nat × Frame)
  | .peer r => some (r.port, { seq := 0, ack := none, vc := (peerVcs r.op).1, flits := Config.requestFlits r, good := true })
  | .refuse r => some (r.port, { seq := 0, ack := none, vc := (peerVcs r.op).2, flits := Config.refusalFlits r, good := true })
  | .answer r l pois => some (r.port, { seq := 0, ack := none, vc := (peerVcs r.op).2, flits := Config.answerFlits r l pois, good := true })
  | _ => none

/-- The ports with the frame of a message behind those that wait at its port. -/
def portsWith (m : Map Port) (x : Option (Nat × Frame)) : Map Port :=
  match x with
  | none => m
  | some (n, f) => Map.set Port.reset m n { Map.get Port.reset m n with outq := (Map.get Port.reset m n).outq ++ [f] }

/-- One change of one piece of state. -/
inductive Effect where
  /-- bytes from physical address a up -/
  | bytes (a : Nat) (l : List Byte)
  /-- bytes lo to hi − 1 zero and unpoisoned (04 R99) -/
  | clear (lo hi : Nat)
  /-- poison of a 32 B sector -/
  | poison (sector : Nat) (b : Bool)
  /-- flipped bits of a sector -/
  | softErr (sector n : Nat)
  /-- key a sector is written under -/
  | sectorKey (sector : Nat) (k : BitVec 512)
  /-- a key slot -/
  | keySlot (kid : Nat) (k : BitVec 512)
  /-- a cache line -/
  | cacheLine (line : Nat) (c : CacheLine)
  /-- the translations that a buffer holds -/
  | tlb (n : Nat) (l : List TlbEntry)
  /-- the pointer entries that a die's walkers hold -/
  | pointers (die : Nat) (l : List PtrEntry)
  /-- a root table pointer -/
  | root (tcid pa : Nat)
  /-- the ordering control word -/
  | cons (v busy : Bool) (next : List Bool)
  /-- the ordering mode that a core's elements have adopted -/
  | consAt (core : Nat) (b : Bool)
  /-- power state of a core -/
  | gate (core : Nat) (p : Power)
  /-- traffic held at a gated core -/
  | hold (core : Nat) (l : List Held)
  /-- fabric clock -/
  | clock (n : Nat)
  /-- a telemetry record -/
  | telemetry (r : Nat) (v : BitVec 512)
  /-- an AM entry, its check bits valid (04 R83) -/
  | am (k : Nat) (v : BitVec 128)
  /-- flipped bits of an AM entry -/
  | amErr (k n : Nat)
  /-- AM entries lo to hi − 1 zero (04 R99) -/
  | amClear (lo hi : Nat)
  /-- a semaphore -/
  | sem (k : Nat) (v : BitVec 64)
  /-- a named barrier -/
  | bar (k : Nat) (v : BitVec 128)
  /-- a binding entry -/
  | bind (k : Nat) (v : BitVec 32)
  /-- a detector window -/
  | winReg (core : Nat) (v : BitVec 32)
  /-- a wave register -/
  | waveReg (core : Nat) (v : BitVec 64)
  /-- a region command register -/
  | opReg (core : Nat) (v : BitVec 64)
  /-- a region block -/
  | region (k : Nat) (r : Region)
  /-- a range descriptor -/
  | range (k : Nat) (r : RangeDesc)
  /-- an engine -/
  | engine (k : Nat) (e : Engine)
  /-- a local-port buffer -/
  | lport (core : Nat) (l : List PortPkt)
  /-- the element whose oy a region controller accepted last -/
  | portLast (core elem : Nat)
  /-- the label that the picker of an element's task packets chose last -/
  | pickLast (key label : Nat)
  /-- tasks waiting at a core -/
  | taskWait (core : Nat) (l : List Task)
  /-- tasks in flight -/
  | taskNet (l : List Task)
  /-- constant writes on the configuration network -/
  | cfgNet (l : List Staging)
  /-- words in flight -/
  | accNet (l : List AccWord)
  /-- words sent to other packages and not answered -/
  | asked (l : List (Nat × AccWord))
  /-- the accumulate element of a core that injected last -/
  | injLast (core elem : Nat)
  /-- collectives under way -/
  | colls (l : List Coll)
  /-- members that other packages have announced -/
  | collPeers (l : List PeerReq)
  /-- the translation context a core serves -/
  | served (core tcid : Nat)
  /-- an element -/
  | elem (k : Nat) (e : Elem)
  /-- accesses issued and not performed -/
  | pending (l : List Access)
  /-- load data on its way back -/
  | returned (l : List Returned)
  /-- the counter of accesses and commands -/
  | nextId (n : Nat)
  /-- a process -/
  | proc (tcid : Nat) (p : Proc)
  /-- a queue thread -/
  | thread (t : Nat) (x : Thread)
  /-- the launches -/
  | launches (l : List Launch)
  /-- saved state scanned out -/
  | saves (l : List Save)
  /-- the management ring -/
  | mgmt (seq rix : Nat)
  /-- next free place of the table pool -/
  | pool (n : Nat)
  /-- a host key entry -/
  | hostKey (n : Nat) (v : BitVec 256)
  /-- a queue pair -/
  | qp (n : Nat) (q : QpState)
  /-- a peer route -/
  | route (n : Nat) (v : BitVec 64)
  /-- a peer window -/
  | window (n : Nat) (v : BitVec 256)
  /-- this package's number -/
  | pkgNum (n : Nat)
  /-- an expected measurement -/
  | measure (n : Nat) (v : BitVec 384)
  /-- a port -/
  | port (n : Nat) (p : Port)
  /-- the pause of the host port -/
  | pause (b : Bool)
  /-- the security root -/
  | rootState (r : Root)
  /-- the place in the run list -/
  | runPos (n turn : Nat)
  /-- an element that moved something in this cycle -/
  | move (key : Nat)
  /-- an arrival of this cycle -/
  | fresh (k : Nat)
  /-- a new cycle begins -/
  | newCycle (c : BitVec 64)
  /-- a message that leaves the package -/
  | reply (m : OutMsg)
  /-- a message that leaves through a peer port, in a frame of its own -/
  | send (m : OutMsg)
  /-- events to come -/
  | inputs (l : List Instr)
  /-- what moves next -/
  | agenda (l : List Turn)
  /-- who is executing -/
  | focus (f : Focus)
  /-- the counter of free values -/
  | free (n : Nat)
  /-- the placement Foreveder proposes -/
  | proposal (l : List Nat)
  /-- power of the package -/
  | power (b : Bool)
  deriving DecidableEq, Repr

/-- Makes one change. -/
def State.perform (s : State) : Effect → State
  | .bytes a l => { s with mem := writeBytes s.mem a l }
  | .clear lo hi => { s with mem := clearRange s.mem lo hi, poison := clearNats s.poison (lo / 32) ((hi + 31) / 32),
                             softErr := s.softErr.filter (fun x => x.1 < lo / 32 || (hi + 31) / 32 ≤ x.1) }
  | .poison sector b => { s with poison := if b then Nats.add s.poison sector else Nats.del s.poison sector }
  | .softErr sector n => { s with softErr := Map.set 0 s.softErr sector n }
  | .sectorKey sector k => { s with sectorKey := Map.set 0 s.sectorKey sector k }
  | .keySlot kid k => { s with keySlots := Map.set 0 s.keySlots kid k }
  | .cacheLine line c => { s with cache := Map.set CacheLine.none s.cache line c }
  | .tlb n l => { s with tlb := Map.set [] s.tlb n l }
  | .pointers die l => { s with pointers := Map.set [] s.pointers die l }
  | .root tcid pa => { s with roots := Map.set 0 s.roots tcid pa }
  | .cons v busy next => { s with cons := v, consBusy := busy, consNext := next }
  | .consAt core b => { s with consAt := Map.set true s.consAt core b }
  | .gate core p => { s with gated := Map.set .on s.gated core p }
  | .hold core l => { s with heldq := Map.set [] s.heldq core l }
  | .clock n => { s with clock := n }
  | .telemetry r v => { s with telemetry := Map.set 0 s.telemetry r v }
  | .am k v => { s with am := Map.set 0 s.am k v, amErr := Map.erase s.amErr k }
  | .amErr k n => { s with amErr := Map.set 0 s.amErr k n }
  | .amClear lo hi => { s with am := s.am.filter (fun x => x.1 < lo || hi ≤ x.1), amErr := s.amErr.filter (fun x => x.1 < lo || hi ≤ x.1) }
  | .sem k v => { s with sems := Map.set 0 s.sems k v }
  | .bar k v => { s with bars := Map.set 0 s.bars k v }
  | .bind k v => { s with binding := Map.set 0 s.binding k v }
  | .winReg core v => { s with winReg := Map.set 65536#32 s.winReg core v }
  | .waveReg core v => { s with waveReg := Map.set 0 s.waveReg core v }
  | .opReg core v => { s with opReg := Map.set 0 s.opReg core v }
  | .region k r => { s with regions := Map.set Region.reset s.regions k r }
  | .range k r => { s with ranges := Map.set RangeDesc.reset s.ranges k r }
  | .engine k e => { s with engines := Map.set Engine.reset s.engines k e }
  | .lport core l => { s with lport := Map.set [] s.lport core l }
  | .portLast core e => { s with portLast := Map.set 127 s.portLast core e }
  | .pickLast key l => { s with pickLast := Map.set 127 s.pickLast key l }
  | .taskWait core l => { s with taskWait := Map.set [] s.taskWait core l }
  | .taskNet l => { s with taskNet := l }
  | .cfgNet l => { s with cfgNet := l }
  | .accNet l => { s with accNet := l }
  | .asked l => { s with asked := l }
  | .injLast core e => { s with injLast := Map.set 127 s.injLast core e }
  | .colls l => { s with colls := l }
  | .collPeers l => { s with collPeers := l }
  | .served core tcid => { s with served := Map.set 0 s.served core tcid }
  | .elem k e => { s with elems := Map.set Elem.reset s.elems k e }
  | .pending l => { s with pending := l }
  | .returned l => { s with returned := l }
  | .nextId n => { s with nextId := n }
  | .proc tcid p => { s with procs := Map.set Proc.reset s.procs tcid p }
  | .thread t x => { s with threads := Map.set Thread.reset s.threads t x }
  | .launches l => { s with launches := l }
  | .saves l => { s with saves := l }
  | .mgmt seq rix => { s with mgmtSeq := seq, mgmtRix := rix }
  | .pool n => { s with poolNext := n }
  | .hostKey n v => { s with hostKeys := Map.set 0 s.hostKeys n v }
  | .qp n q => { s with qps := Map.set .ready s.qps n q }
  | .route n v => { s with routes := Map.set 0 s.routes n v }
  | .window n v => { s with windows := Map.set 0 s.windows n v }
  | .pkgNum n => { s with pkgNum := n }
  | .measure n v => { s with measures := Map.set 0 s.measures n v }
  | .port n p => { s with ports := Map.set Port.reset s.ports n p }
  | .pause b => { s with paused := b }
  | .rootState r => { s with root := r }
  | .runPos n t => { s with runPos := n, turnAt := t }
  | .move key => { s with moved := Nats.add s.moved key }
  | .fresh k => { s with fresh := Nats.add s.fresh k }
  | .newCycle c => { s with cycle := c, moved := [], fresh := [] }
  | .reply m => { s with replies := s.replies ++ [m] }
  | .send m => { s with replies := s.replies ++ [m], ports := portsWith s.ports m.frame? }
  | .inputs l => { s with inputs := l }
  | .agenda l => { s with agenda := l }
  | .focus f => { s with focus := f }
  | .free n => { s with free := n }
  | .proposal l => { s with proposal := l }
  | .power b => { s with powered := b }

/-- Makes a list of changes in order. -/
def State.apply : State → List Effect → State
  | s, [] => s
  | s, e :: l => (s.perform e).apply l

/-- A part of a meaning: the changes it makes to a state. -/
abbrev Prog := State → List Effect

/-- One part after another: the second reads the state that the first leaves. -/
def Prog.andThen (p q : Prog) : Prog := fun s =>
  let l := p s
  l ++ q (s.apply l)

/-- Parts in order. -/
def Prog.seq : List Prog → Prog
  | [] => fun _ => []
  | p :: l => p.andThen (Prog.seq l)

/-- A part for each element of a list, in order. -/
def Prog.forEach {α : Type} (l : List α) (f : α → Prog) : Prog := Prog.seq (l.map f)

/-- The part that does nothing. -/
def Prog.skip : Prog := fun _ => []

/-- A part that happens under a condition on the state it meets. -/
def Prog.when (c : State → Bool) (p : Prog) : Prog := fun s => if c s then p s else []

/-- The state a part leaves. -/
def State.run (s : State) (p : Prog) : State := s.apply (p s)

/-- The outcome of a meaning that makes the changes of a part: always a next state. -/
def complete (p : Prog) (s : State) : Host.Outcome State Fault Refusal := .next (s.run p)

end Sys2Proof.Machine
end

