-- ==== Sys2Proof/Machine/Numbers.lean ====
section
/-! DEFINITION. Number formats, exact values, rounding, alignment and the WA128 word (spec 03). -/

namespace Sys2Proof

/-- The integer an n-bit pattern stands for, signed (spec 03 R57). -/
def signExt (n x : Nat) : Int :=
  let y := x % 2 ^ n
  if 2 * y < 2 ^ n then (y : Int) else (y : Int) - (2 ^ n : Nat)

/-- The low n bits of an integer (spec 03 R57). -/
def lowBits (n : Nat) (x : Int) : Nat := (x % ((2 ^ n : Nat) : Int)).toNat

/-- Lane width of a format code (spec 03 R56). -/
def fmtWidth (c : Nat) : Nat :=
  match c with
  | 0 => 8 | 1 => 16 | 2 => 32 | 3 => 64 | 4 => 8 | 5 => 16 | 6 => 32 | 7 => 64 | 8 => 32 | 9 => 16 | 10 => 16
  | 11 => 8 | 12 => 8 | 13 => 8 | 14 => 8 | 15 => 8 | 16 => 64 | _ => 8

/-- Lane-width code of a width (spec 06 R119). -/
def lwCode (w : Nat) : BitVec 2 := if w = 8 then 0 else if w = 16 then 1 else if w = 32 then 2 else 3

/-- Lane width of a lane-width code. -/
def lwBits (c : BitVec 2) : Nat := 8 * 2 ^ c.toNat

/-- Lane-width code of a format (spec 08 R182 `fmt_lw`). -/
def fmtLw (c : Nat) : BitVec 2 := lwCode (fmtWidth c)

/-- Whether a code is an integer format (spec 03 R56). -/
def fmtIsInt (c : Nat) : Bool := c < 8

/-- Whether an integer format is signed; the 4-bit pair is (spec 03 R57, R60). -/
def fmtSigned (c : Nat) : Bool := c < 4 || c = 14

/-- Whether a code is a pair format: two elements to a lane (spec 03 R60). -/
def fmtIsPair (c : Nat) : Bool := c = 13 || c = 14

/-- Bits of one element of a format. -/
def elemBits (c : Nat) : Nat := if fmtIsPair c then 4 else fmtWidth c

/-- The most lanes of width w a packet holds (spec 06 R119, R126). -/
def maxLanes (w : Nat) : Nat := Nat.min 8 (256 / w)

/-- `saturate(x, fmt)` of spec 03 R57, as an integer. -/
def saturateInt (c : Nat) (x : Int) : Int :=
  let n := elemBits c
  if fmtSigned c then
    let hi : Int := ((2 ^ (n - 1) : Nat) : Int) - 1
    let lo : Int := -((2 ^ (n - 1) : Nat) : Int)
    if x > hi then hi else if x < lo then lo else x
  else
    let hi : Int := ((2 ^ n : Nat) : Int) - 1
    if x > hi then hi else if x < 0 then 0 else x

/-- The integer a lane of an integer format stands for. -/
def laneInt (c x : Nat) : Int :=
  if fmtSigned c then signExt (elemBits c) x else ((x % 2 ^ elemBits c : Nat) : Int)

/-- Mantissa bits, bias, exponent field width of a float format (spec 03 R58). -/
def fmtMant (c : Nat) : Nat := match c with | 8 => 23 | 9 => 7 | 10 => 10 | 11 => 3 | 12 => 2 | _ => 1
def fmtBias (c : Nat) : Nat := match c with | 8 => 127 | 9 => 127 | 10 => 15 | 11 => 7 | 12 => 15 | _ => 1
def fmtExpBits (c : Nat) : Nat := match c with | 8 => 8 | 9 => 8 | 10 => 5 | 11 => 4 | 12 => 5 | _ => 2

/-- Whether the format holds infinities (spec 03 R58). -/
def fmtHasInf (c : Nat) : Bool := c = 8 || c = 9 || c = 10 || c = 12

/-- Exponent of the lowest bit of the largest binade, and the largest significand there (spec 03 R58). -/
def fmtTopExp (c : Nat) : Int :=
  let top : Nat := 2 ^ fmtExpBits c - 1
  let e : Nat := if fmtHasInf c then top - 1 else top
  (e : Int) - (fmtBias c : Int) - (fmtMant c : Int)
def fmtTopMant (c : Nat) : Nat := if c = 11 then 14 else 2 ^ (fmtMant c + 1) - 1

/-- The canonical NaN of a format, zero where it has none (spec 03 R59, R66). -/
def fmtNan (c : Nat) : Nat :=
  match c with | 8 => 0x7FC00000 | 9 => 0x7FC0 | 10 => 0x7E00 | 11 => 0x7F | 12 => 0x7E | _ => 0

/-- The bits of significand n (below 2^(M+1), or equal to it) at exponent q in a float format. -/
def encodeFin (c : Nat) (neg : Bool) (n : Nat) (q : Int) : Nat :=
  let m := fmtMant c
  let s := if neg then 2 ^ (fmtExpBits c + m) else 0
  if n < 2 ^ m then s + n
  else if n < 2 ^ (m + 1) then s + ((q + m + fmtBias c).toNat * 2 ^ m + (n - 2 ^ m))
  else s + (q + 1 + m + fmtBias c).toNat * 2 ^ m

/-- The bits of an infinity, or of the largest finite value where there is none (spec 03 R66). -/
def encodeMax (c : Nat) (neg : Bool) : Nat := encodeFin c neg (fmtTopMant c) (fmtTopExp c)
def encodeInf (c : Nat) (neg : Bool) : Nat :=
  if fmtHasInf c then
    (if neg then 2 ^ (fmtExpBits c + fmtMant c) else 0) + (2 ^ fmtExpBits c - 1) * 2 ^ fmtMant c
  else encodeMax c neg

/-- The exact value of the bits of a float element (spec 03 R58). -/
def floatVal (c x : Nat) : Val :=
  let m := fmtMant c
  let man := x % 2 ^ m
  let e := (x / 2 ^ m) % 2 ^ fmtExpBits c
  let neg := (x / 2 ^ (m + fmtExpBits c)) % 2 = 1
  if fmtHasInf c && e = 2 ^ fmtExpBits c - 1 then (if man = 0 then .inf neg else .nan)
  else if c = 11 && e = 15 && man = 7 then .nan
  else if e = 0 then .fin neg man (1 - (fmtBias c : Int) - m)
  else .fin neg (man + 2 ^ m) ((e : Int) - fmtBias c - m)

/-- The exact value of the bits of one element of any format (spec 03 R57 to R61). -/
def elemVal (c x : Nat) : Val :=
  if c < 8 || c = 14 then
    let i := laneInt c x
    .fin (decide (i < 0)) i.natAbs 0
  else if c = 15 then (if x % 256 = 255 then .nan else .fin false 1 (((x % 256 : Nat) : Int) - 127))
  else if c = 16 then .fin false (x % 2 ^ 64) 0
  else floatVal c x

/-- Sign of a value. -/
def Val.neg? : Val → Bool
  | .fin n _ _ => n
  | .inf n => n
  | .nan => false

def Val.negate : Val → Val
  | .fin n m e => .fin (!n) m e
  | .inf n => .inf (!n)
  | .nan => .nan

def Val.abs : Val → Val
  | .fin _ m e => .fin false m e
  | .inf _ => .inf false
  | .nan => .nan

def Val.isZero : Val → Bool
  | .fin _ m _ => m = 0
  | _ => false

def Val.isNan : Val → Bool
  | .nan => true
  | _ => false

def Val.isFinite : Val → Bool
  | .fin _ _ _ => true
  | _ => false

/-- x · 2^k. -/
def Val.scale (k : Int) : Val → Val
  | .fin n m e => .fin n m (e + k)
  | v => v

/-- The signed integer m of m · 2^e. -/
def sgn (n : Bool) (m : Nat) : Int := if n then -(m : Int) else (m : Int)

/-- An exact value from an integer times a power of two. -/
def Val.ofInt (i : Int) (e : Int) : Val := .fin (decide (i < 0)) i.natAbs e

/-- The exact product (spec 11 R241: IEEE 754 special values). -/
def Val.mul : Val → Val → Val
  | .nan, _ => .nan
  | _, .nan => .nan
  | .inf a, .inf b => .inf (a != b)
  | .inf a, .fin b m _ => if m = 0 then .nan else .inf (a != b)
  | .fin a m _, .inf b => if m = 0 then .nan else .inf (a != b)
  | .fin a m e, .fin b n f => .fin (a != b) (m * n) (e + f)

/-- The exact sum; an exact zero takes the sign IEEE 754 gives it in the rounding mode (spec 03 R59). -/
def Val.add (rm : RMode) : Val → Val → Val
  | .nan, _ => .nan
  | _, .nan => .nan
  | .inf a, .inf b => if a = b then .inf a else .nan
  | .inf a, .fin _ _ _ => .inf a
  | .fin _ _ _, .inf b => .inf b
  | .fin a m e, .fin b n f =>
    if m = 0 ∧ n = 0 then .fin (if a = b then a else decide (rm = .rdn)) 0 0
    else if m = 0 then .fin b n f
    else if n = 0 then .fin a m e
    else
      let q := min e f
      let i := sgn a m * ((2 ^ (e - q).toNat : Nat) : Int) + sgn b n * ((2 ^ (f - q).toNat : Nat) : Int)
      if i = 0 then .fin (decide (rm = .rdn)) 0 0 else Val.ofInt i q

/-- The exact sum of a list of terms (spec 11 R241, FREDA and FDOT). -/
def Val.sum (rm : RMode) (l : List Val) : Val :=
  match l.foldl (Val.add .rne) (.fin true 0 0) with
  | .fin _ 0 _ =>
    if l.all (fun v => v.isZero && v.neg?) then .fin true 0 0 else .fin (decide (rm = .rdn)) 0 0
  | v => v

/-- Comparison of two values that are not NaN: a < b. -/
def Val.lt : Val → Val → Bool
  | .nan, _ => false
  | _, .nan => false
  | .inf a, .inf b => a && !b
  | .inf a, .fin _ _ _ => a
  | .fin _ _ _, .inf b => !b
  | .fin a m e, .fin b n f =>
    let q := min e f
    decide (sgn a m * ((2 ^ (e - q).toNat : Nat) : Int) < sgn b n * ((2 ^ (f - q).toNat : Nat) : Int))

/-- Equality of two values that are not NaN; −0 equals +0 (spec 11 R246). -/
def Val.eqv (a b : Val) : Bool := !a.isNan && !b.isNan && !Val.lt a b && !Val.lt b a

def Val.le (a b : Val) : Bool := Val.lt a b || Val.eqv a b

/-- expo(x) of spec 03 R69: 2^(e−1) ≤ |x| < 2^e. -/
def expoOf (m : Nat) (e : Int) : Int := (Nat.log2 m : Int) + e + 1

/-- One step of the stochastic-rounding generator (spec 03 R67). -/
def srNext (s : BitVec 32) : BitVec 32 :=
  let a := s ^^^ (s <<< 13)
  let b := a ^^^ (a >>> 17)
  b ^^^ (b <<< 5)

/-- |x| = m·2^e rounded to a multiple of 2^q (spec 03 R65): the count of multiples. `r` is the generator's draw under SR. -/
def roundMag (rm : RMode) (r : BitVec 32) (neg : Bool) (m : Nat) (e q : Int) : Nat :=
  if q ≤ e then m * 2 ^ (e - q).toNat
  else
    let sh := (q - e).toNat
    if Nat.log2 m + 40 < sh then
      match rm with
      | .rne => 0
      | .rtz => 0
      | .rdn => if neg && m ≠ 0 then 1 else 0
      | .sr => if m ≠ 0 && neg && decide (2 ^ 32 - 1 < r.toNat) then 1 else 0
    else
      let n := m / 2 ^ sh
      let rem := m % 2 ^ sh
      let half := 2 ^ (sh - 1)
      if rem = 0 then n
      else match rm with
        | .rne => if rem > half || (rem = half && n % 2 = 1) then n + 1 else n
        | .rtz => n
        | .rdn => if neg then n + 1 else n
        | .sr =>
          if neg then (if (2 ^ sh - rem) * 2 ^ 32 / 2 ^ sh ≥ r.toNat then n else n + 1)
          else (if rem * 2 ^ 32 / 2 ^ sh ≥ r.toNat then n + 1 else n)

/-- `round_to` onto a float format (spec 03 R65, R66), as bits, and whether the result overflowed. -/
def roundFloat (c : Nat) (rm : RMode) (r : BitVec 32) (v : Val) : Nat × Bool :=
  match v with
  | .nan => (fmtNan c, false)
  | .inf n => (encodeInf c n, false)
  | .fin neg m e =>
    if m = 0 then (encodeFin c neg 0 0, false)
    else
      let q := max (expoOf m e - 1 - fmtMant c) (1 - (fmtBias c : Int) - fmtMant c)
      let n := roundMag rm r neg m e q
      if q > fmtTopExp c ∨ (q = fmtTopExp c ∧ n > fmtTopMant c) then
        (match rm with
         | .rtz => encodeMax c neg
         | .rdn => if neg then encodeInf c true else encodeMax c false
         | _ => encodeInf c neg, true)
      else (encodeFin c neg n q, false)

/-- The nearest integer under a mode (spec 03 R65), before saturation. -/
def roundInt (rm : RMode) (r : BitVec 32) (neg : Bool) (m : Nat) (e : Int) : Int :=
  sgn neg (roundMag rm r neg m e 0)

/-- `round_to` onto any element format, as bits (spec 03 R65, R66). Raw formats (E8M0, WA128) keep the low bits of the integer. -/
def roundElem (c : Nat) (rm : RMode) (r : BitVec 32) (v : Val) : Nat :=
  if c < 8 || c = 14 then
    match v with
    | .nan => 0
    | .inf neg => lowBits (elemBits c) (if neg then saturateInt c (-(2 ^ 80)) else saturateInt c (2 ^ 80))
    | .fin neg m e =>
      if expoOf m e > 100 then lowBits (elemBits c) (saturateInt c (if m = 0 then 0 else if neg then -(2 ^ 80) else 2 ^ 80))
      else lowBits (elemBits c) (saturateInt c (roundInt rm r neg m e))
  else if c = 15 || c = 16 then
    match v with
    | .fin neg m e => lowBits (fmtWidth c) (roundInt rm r neg m e)
    | _ => 0
  else (roundFloat c rm r v).1

/-- `align_block(x, emax, w)` of spec 03 R69: nearest-even to x / 2^(emax − w + 1). -/
def alignInt (v : Val) (emax : Int) (w : Nat) : Int :=
  match v with
  | .fin neg m e => sgn neg (roundMag .rne 0 neg m e (emax - w + 1))
  | _ => 0

/-- The value of an element's bits under a latched header (spec 03 R63, R64). -/
def headerVal (hdr : BitVec 32) (v : Val) : Val :=
  if hdr.extractLsb' 0 3 = 0#3 then
    let e := (hdr.extractLsb' 3 8).toNat
    if e = 255 then .nan else Val.scale ((e : Int) - 127) v
  else
    let z := signExt 8 (hdr.extractLsb' 19 8).toNat
    Val.mul (floatVal 10 (hdr.extractLsb' 3 16).toNat) (Val.add .rne v (Val.ofInt (-z) 0))

/-- Whether a header payload is malformed (spec 03 R62). -/
def headerBad (h : BitVec 32) : Bool :=
  if h.extractLsb' 0 3 = 0#3 then h.extractLsb' 20 12 ≠ 0#12
  else if h.extractLsb' 0 3 = 1#3 then h.extractLsb' 30 2 ≠ 0#2 || h.extractLsb' 27 2 = 3#2
  else true

/-- Sticky bits of a WA128 word, bits 104 to 108 from INX up (spec 03 R72). -/
structure WaWord where
  t : Int
  inx : Bool
  pois : Bool
  pinf : Bool
  ninf : Bool
  nan : Bool
  deriving DecidableEq, Repr

/-- The word of spec 03 R72: V = T reduced to 96 bits, E the signed count of wraps, modulo 2^104. -/
def waPack (w : WaWord) : BitVec 128 :=
  let v := lowBits 96 w.t
  let e := lowBits 8 ((w.t - signExt 96 v) / ((2 ^ 96 : Nat) : Int))
  BitVec.ofNat 128 (v + e * 2 ^ 96 + (if w.inx then 2 ^ 104 else 0) + (if w.pois then 2 ^ 105 else 0)
    + (if w.pinf then 2 ^ 106 else 0) + (if w.ninf then 2 ^ 107 else 0) + (if w.nan then 2 ^ 108 else 0))

/-- Reads a WA128 word: T = V + E·2^96 (spec 03 R72). -/
def waUnpack (b : BitVec 128) : WaWord :=
  { t := signExt 96 (b.extractLsb' 0 96).toNat + signExt 8 (b.extractLsb' 96 8).toNat * ((2 ^ 96 : Nat) : Int)
    inx := b.getLsbD 104, pois := b.getLsbD 105, pinf := b.getLsbD 106, ninf := b.getLsbD 107, nan := b.getLsbD 108 }

/-- `wa_add` of spec 03 R74. -/
def waAdd (a b : BitVec 128) : BitVec 128 :=
  let x := waUnpack a
  let y := waUnpack b
  waPack { t := x.t + y.t, inx := x.inx || y.inx, pois := x.pois || y.pois, pinf := x.pinf || y.pinf,
           ninf := x.ninf || y.ninf, nan := x.nan || y.nan }

/-- A contribution's word for a range of exponent x (spec 03 R73). -/
def waContribution (v : Val) (pois : Bool) (x : Int) : BitVec 128 :=
  match v with
  | .nan => waPack { t := 0, inx := false, pois := pois, pinf := false, ninf := false, nan := true }
  | .inf n => waPack { t := 0, inx := false, pois := pois, pinf := !n, ninf := n, nan := false }
  | .fin neg m e =>
    let k := roundMag .rne 0 neg m e x
    let exact := m = 0 ∨ x ≤ e ∨ ((x - e).toNat ≤ Nat.log2 m + 40 ∧ m % 2 ^ (x - e).toNat = 0)
    if k ≥ 2 ^ 103 then waPack { t := 0, inx := !decide exact, pois := pois, pinf := !neg, ninf := neg, nan := false }
    else waPack { t := sgn neg k, inx := !decide exact, pois := pois, pinf := false, ninf := false, nan := false }

/-- `wa_read` of spec 03 R76: the bits of one lane. -/
def waRead (b : BitVec 128) (x : Int) (c : Nat) (rm : RMode) (r : BitVec 32) (toInf : Bool) : Nat :=
  let w := waUnpack b
  if w.nan || (w.pinf && w.ninf) then (if c < 8 || c = 14 then 0 else fmtNan c)
  else if w.pinf then roundElem c rm r (.inf false)
  else if w.ninf then roundElem c rm r (.inf true)
  else
    let y := Val.ofInt w.t x
    if c < 8 || c = 14 then roundElem c rm r y
    else
      let res := roundFloat c rm r y
      if res.2 then
        (if toInf then (if fmtHasInf c then encodeInf c (decide (w.t < 0)) else if c = 11 then fmtNan c else encodeMax c (decide (w.t < 0)))
         else encodeMax c (decide (w.t < 0)))
      else if res.1 % 2 ^ (fmtExpBits c + fmtMant c) = 0 then 0
      else res.1

end Sys2Proof
end

