-- ==== Sys2Proof/Machine/Memory.lean ====
section
/-! DEFINITION. Physical memory and core windows, byte by byte: the maps of spec 01 R18, R21, access sizes and masters (R26 to R28),
what a byte reads as, what a write changes in each block (01 R29 to R31, 02 R37 to R44, 04 R82, R83, 05 R112, R115, 07 R145). -/

namespace Sys2Proof.Machine

/-- The blocks of the physical map and of a core's window (spec 01 R18, R21, R33). -/
inductive Area where
  | hbm | coreMem | spad | am | const | dfile | desc | status | sem | bar | image | regctl | bind | control | hole
  deriving DecidableEq, Repr

/-- Where a physical address lies: its block, core, and offset within the block. -/
structure Place where
  block : Area
  core : Nat
  off : Nat
  deriving DecidableEq, Repr

/-- The base of a core's window (spec 01 R18). -/
def winBase (core : Nat) : Nat := 0x800000000000 + 0x1000000 * core

/-- The block of a window offset (spec 01 R21, R25; 16 R375, 17 R396 to R402). -/
def windowPlace (core off : Nat) : Place :=
  if off < 0x200000 then ⟨.coreMem, core, off⟩
  else if off < 0x280000 then ⟨.spad, core, off - 0x200000⟩
  else if off < 0x300000 then ⟨.am, core, off - 0x280000⟩
  else if off < 0x308000 then (if off % 256 < 128 then ⟨.const, core, off - 0x300000⟩ else ⟨.dfile, core, off - 0x300000⟩)
  else if off < 0x308800 then ⟨.desc, core, off - 0x308000⟩
  else if off < 0x308A00 then ⟨.status, core, off - 0x308800⟩
  else if off < 0x310000 then ⟨.hole, core, off⟩
  else if off < 0x310800 then ⟨.sem, core, off - 0x310000⟩
  else if off < 0x311000 then ⟨.hole, core, off⟩
  else if off < 0x319000 then ⟨.bar, core, off - 0x311000⟩
  else if off < 0x400000 then ⟨.hole, core, off⟩
  else if off < 0x440000 then (if off % 256 < 208 then ⟨.image, core, off - 0x400000⟩ else ⟨.hole, core, off⟩)
  else if off < 0x500000 then ⟨.hole, core, off⟩
  else if off < 0x500418 then ⟨.regctl, core, off - 0x500000⟩
  else if 0x501000 ≤ off ∧ off < 0x503000 then ⟨.regctl, core, off - 0x500000⟩
  else if 0x510000 ≤ off ∧ off < 0x510200 then ⟨.bind, core, off - 0x510000⟩
  else ⟨.hole, core, off⟩

/-- The place of a physical address (spec 01 R18). -/
def placeOf (pa : Nat) : Place :=
  if pa < 0x6000000000 then ⟨.hbm, 0, pa⟩
  else if 0x800000000000 ≤ pa ∧ pa < 0x800180000000 then
    windowPlace ((pa - 0x800000000000) / 0x1000000) ((pa - 0x800000000000) % 0x1000000)
  else if 0xF00000000000 ≤ pa ∧ pa < 0xF00080001000 then ⟨.control, 0, pa - 0xF00000000000⟩
  else ⟨.hole, 0, pa⟩

/-- The window address of a scratchpad offset of the scratchpad element with this index (spec 01 R22). -/
def spadIndex (elem : Nat) : Nat := elem / 16 + 8 * (elem % 16 - 1)
def spadElem (j : Nat) : Nat := 16 * (j % 8) + 1 + j / 8
def spadBase (core elem : Nat) : Nat := winBase core + 0x200000 + 0x8000 * spadIndex elem

/-- Element key of a core and an element index; the core and the index of a key. -/
def ekey (core elem : Nat) : Nat := 128 * core + elem
def coreOf (key : Nat) : Nat := key / 128
def elemIx (key : Nat) : Nat := key % 128

/-- The type of the site with an element index (spec 01 R13). -/
def siteType (elem : Nat) : ElemType :=
  let row := elem / 16
  let col := elem % 16
  if col = 0 then .st
  else if col < 3 then .se
  else if col < 8 then .ve
  else if row < 4 then .me
  else if row = 4 then .ae
  else if row = 5 ∧ col < 12 then .le
  else .ve

/-- Cluster and member of a core, die of a core (spec 01 R11, R12; core = 16·x + y, 00 R6). -/
def clusterOf (core : Nat) : Nat := 8 * (core / 16 / 2) + core % 16 / 2
def memberOf (core : Nat) : Nat := 2 * (core / 16 % 2) + core % 16 % 2
def clusterCore (core m : Nat) : Nat := 16 * (core / 32 * 2 + m / 2) + (core % 16 / 2 * 2 + m % 2)
def dieOf (core : Nat) : Nat := 2 * (core % 16 / 8) + core / 16 / 12

/-- State by key. -/
def State.elem (s : State) (k : Nat) : Elem := Map.get Elem.reset s.elems k
def State.region (s : State) (k : Nat) : Region := Map.get Region.reset s.regions k
def State.sem (s : State) (core n : Nat) : BitVec 64 := Map.get 0 s.sems (256 * core + n)
def State.bar (s : State) (core n : Nat) : BitVec 128 := Map.get 0 s.bars (2048 * core + n)
def State.amRaw (s : State) (k : Nat) : BitVec 128 := Map.get 0 s.am k
/-- An AM entry as it reads: an uncorrectable error counts as POIS (spec 04 R83). -/
def State.amEntry (s : State) (core n : Nat) : BitVec 128 :=
  let k := 32768 * core + n
  if 2 ≤ Map.get 0 s.amErr k then s.amRaw k ||| 1#128 <<< 105 else s.amRaw k
def State.range (s : State) (core n : Nat) : RangeDesc := Map.get RangeDesc.reset s.ranges (64 * core + n)
def State.engine (s : State) (core e : Nat) : Engine := Map.get Engine.reset s.engines (4 * core + e)
def State.bindingOf (s : State) (core label : Nat) : BitVec 32 := Map.get 0 s.binding (128 * core + label)
def State.proc (s : State) (tcid : Nat) : Proc := Map.get Proc.reset s.procs tcid
def State.port (s : State) (n : Nat) : Port := Map.get Port.reset s.ports n
def State.thread (s : State) (t : Nat) : Thread := Map.get Thread.reset s.threads t
def State.launch? (s : State) (id : Nat) : Option Launch := s.launches.find? (fun l => l.id = id)

/-- Items of an element by number. -/
def Elem.dReg (e : Elem) (n : Nat) : DEntry := Map.get DEntry.reset e.d n
def Elem.kReg (e : Elem) (n : Nat) : KReg := Map.get KReg.reset e.k n
def Elem.kStage (e : Elem) (n : Nat) : KStage := Map.get KStage.reset e.ks n
def Elem.hreg (e : Elem) (n : Nat) : HReg := Map.get HReg.neutral e.hregs n
def Elem.queue (e : Elem) (n : Nat) : List Packet := Map.get [] e.qs n
def Elem.out (e : Elem) (n : Nat) : Option Packet := Map.get none e.outs n
def Elem.byp (e : Elem) (n : Nat) : Option Packet := Map.get none e.byps n
def Elem.commitCount (e : Elem) (n : Nat) : Nat := Map.get 0 e.commits n
def Elem.setD (e : Elem) (n : Nat) (x : DEntry) : Elem := { e with d := Map.set DEntry.reset e.d n x }
def Elem.setK (e : Elem) (n : Nat) (x : KReg) : Elem := { e with k := Map.set KReg.reset e.k n x }
def Elem.setKs (e : Elem) (n : Nat) (x : KStage) : Elem := { e with ks := Map.set KStage.reset e.ks n x }
def Elem.setQueue (e : Elem) (n : Nat) (l : List Packet) : Elem := { e with qs := Map.set [] e.qs n l }
def Elem.setOut (e : Elem) (n : Nat) (p : Option Packet) : Elem := { e with outs := Map.set none e.outs n p }
def Elem.setByp (e : Elem) (n : Nat) (p : Option Packet) : Elem := { e with byps := Map.set none e.byps n p }
def Elem.setCommit (e : Elem) (n c : Nat) : Elem := { e with commits := Map.set 0 e.commits n c }

/-- Byte i of a number. -/
def byteOf (x i : Nat) : Byte := BitVec.ofNat 8 (x / 256 ^ i)

/-- A plain byte of memory (HBM as last written, core memory, scratchpads, context images). -/
def State.memByte (s : State) (a : Nat) : Byte := Map.get 0 s.mem a
def State.memBytes (s : State) (a : Nat) : Nat → List Byte
  | 0 => []
  | n + 1 => s.memByte a :: s.memBytes (a + 1) n

/-- Whether a sector reads as poisoned: its mark, or an uncorrectable soft error (spec 02 R39, 04 R82). -/
def State.sectorPoisoned (s : State) (sector : Nat) : Bool :=
  s.poison.contains sector || decide (2 ≤ Map.get 0 s.softErr sector)

/-- The key that a KID selects (spec 02 R43): KID 0, and a slot that was never loaded (log 7), select no encryption. -/
def State.keyOf (s : State) (kid : Nat) : BitVec 512 := if kid = 0 then 0 else Map.get 0 s.keySlots kid

/-- A byte of a scratchpad, by its window address and the key of its element (spec 04 R94, 09 R195): since a queue was arranged in the scratchpad
its bytes are free values, until a write outside priority-queue mode (log 17). -/
def State.spadByte (s : State) (key pa : Nat) : Byte :=
  match (s.elem key).pqAt with
  | none => s.memByte pa
  | some n => byteOf (Config.freeValue (n + pa % 0x8000 / 32)).toNat (pa % 32)

/-- The bytes of a scratchpad stored as they read, before a write that ends an arranged queue. -/
def State.unqueued (s : State) (key : Nat) : List Effect :=
  match (s.elem key).pqAt with
  | none => []
  | some _ => [.bytes (spadBase (coreOf key) (elemIx key)) ((List.range 32768).map (fun i => s.spadByte key (spadBase (coreOf key) (elemIx key) + i)))]

/-- A sector of HBM read under a KID (spec 02 R43, R44): the bytes written, where the key is the one they were written under; else
their ciphertext deciphered under the reader's key. A sector never written counts as written in plain (log 7). -/
def State.hbmSector (s : State) (kid sector : Nat) : BitVec 256 :=
  let raw := BitVec.ofNat 256 (leNat (s.memBytes (32 * sector) 32))
  let was := Map.get 0 s.sectorKey sector
  if was = s.keyOf kid then raw else decipher (s.keyOf kid) sector (encipher was sector raw)

/-- The context header, routing word and slot bytes of a context image (spec 01 R25, 08 R166). -/
def imageBase (key ctx : Nat) : Nat := winBase (coreOf key) + 0x400000 + 2048 * elemIx key + 256 * ctx
def State.header (s : State) (key ctx : Nat) : Nat := leNat (s.memBytes (imageBase key ctx) 8)
def State.routing (s : State) (key ctx : Nat) : Nat := leNat (s.memBytes (imageBase key ctx + 8) 8)
def State.slotBitsAt (s : State) (key ctx n : Nat) : Nat := leNat (s.memBytes (imageBase key ctx + 16 + 12 * n) 12)

/-- A field of a number. -/
def bits (x lo n : Nat) : Nat := (x / 2 ^ lo) % 2 ^ n

/-- The valid opcode of a slot of a context, if any (spec 08 R165: OP at bit 40, VAL at bit 39). -/
def State.slotOp (s : State) (key ctx n : Nat) : Option Nat :=
  let b4 := (s.memByte (imageBase key ctx + 16 + 12 * n + 4)).toNat
  if b4 < 128 then none else some (s.memByte (imageBase key ctx + 16 + 12 * n + 5)).toNat

/-- Whether some slot of a context holds one of these opcodes. -/
def State.holdsOp (s : State) (key ctx : Nat) (ops : List Nat) : Bool :=
  (List.range 16).any (fun n => match s.slotOp key ctx n with | some o => ops.contains o | none => false)

/-- Priority-queue mode (spec 04 R94). -/
def State.pqMode (s : State) (key : Nat) : Bool := s.holdsOp key (s.elem key).ctx.toNat [0x97, 0x98]

/-- The number of a region state (spec 16 R375). -/
def RState.code : RState → Nat
  | .free => 0 | .loading => 1 | .idle => 2 | .running => 3 | .completing => 4 | .trapped => 5 | .preempting => 6 | .saved => 7
def RState.ofCode (n : Nat) : RState :=
  match n with
  | 0 => .free | 1 => .loading | 2 => .idle | 3 => .running | 4 => .completing | 5 => .trapped | 6 => .preempting | _ => .saved

/-- Word i of a region block (spec 16 R375, 17 R396). -/
def Region.word (r : Region) (i : Nat) : Nat :=
  match i with
  | 0 => r.rid.toNat * 2 ^ 48 + r.tcid % 1024 * 2 ^ 38 + r.state.code * 2 ^ 26 + r.rw0 % 8 * 2 ^ 23 + r.cl0 % 16 * 2 ^ 19
         + (r.nrows - 1) % 8 * 2 ^ 16 + (r.ncols - 1) % 16 * 2 ^ 12 + r.ctx % 8 * 2 ^ 9 + r.children.length % 16 * 2 ^ 5
  | 1 => r.hnd.toNat * 2 ^ 48 + r.cpl % 2 ^ 48
  | 2 => r.snkx % 2 ^ 16 * 2 ^ 16 + r.snkd % 2 ^ 16
  | 3 => r.resd % 2 ^ 32 * 2 ^ 32 + r.errt % 2 ^ 32
  | 4 => bit01 r.tv * 2 ^ 63 + Nat.min r.more 127 * 2 ^ 56 + r.cause % 128 * 2 ^ 49 + r.orig % 8 * 2 ^ 46 + r.elem % 128 * 2 ^ 39
         + r.slot % 16 * 2 ^ 35 + r.tctx % 8 * 2 ^ 32
  | 5 => r.cyc.toNat
  | 6 => r.detail.toNat % 2 ^ 64
  | 7 => r.detail.toNat / 2 ^ 64
  | _ => 0

/-- A region block with word i replaced, by CFG or Foreveder (spec 16 R375). -/
def Region.setWord (r : Region) (i w : Nat) : Region :=
  match i with
  | 0 => { r with rid := BitVec.ofNat 16 (bits w 48 16), tcid := bits w 38 10, state := RState.ofCode (bits w 26 3), rw0 := bits w 23 3,
                  cl0 := bits w 19 4, nrows := bits w 16 3 + 1, ncols := bits w 12 4 + 1, ctx := bits w 9 3 }
  | 1 => { r with hnd := BitVec.ofNat 16 (bits w 48 16), cpl := bits w 0 48 }
  | 2 => { r with snkx := bits w 16 16, snkd := bits w 0 16 }
  | 3 => { r with resd := bits w 32 32, errt := bits w 0 32 }
  | 4 => { r with tv := bits w 63 1 = 1, more := bits w 56 7, cause := bits w 49 7, orig := bits w 46 3, elem := bits w 39 7,
                  slot := bits w 35 4, tctx := bits w 32 3 }
  | 5 => { r with cyc := BitVec.ofNat 64 w }
  | 6 => { r with detail := BitVec.ofNat 128 (r.detail.toNat / 2 ^ 64 * 2 ^ 64 + w % 2 ^ 64) }
  | 7 => { r with detail := BitVec.ofNat 128 (w % 2 ^ 64 * 2 ^ 64 + r.detail.toNat % 2 ^ 64) }
  | _ => r

/-- The descriptor word of a data-file entry (spec 01 R23), and the status word of an element (R24). -/
def DEntry.word (d : DEntry) : Nat := d.pois.toNat * 2 ^ 8 + d.lw.toNat * 2 ^ 6 + d.len.toNat
def Elem.statusWord (e : Elem) : Nat := e.st.toNat + e.ctx.toNat * 2 ^ 8 + bit01 e.active * 2 ^ 12

/-- A number held in the region controller's registers, and the offset of the byte within it (spec 16 R375, 17 R397 to R402). -/
def State.regctlByte (s : State) (core off : Nat) : Byte :=
  if off < 0x400 then byteOf ((s.region (16 * core + off / 64)).word (off % 64 / 8)) (off % 8)
  else if off < 0x408 then byteOf (Map.get 0 s.waveReg core).toNat (off - 0x400)
  else if off < 0x410 then byteOf (Map.get 65536#32 s.winReg core).toNat (off - 0x408)
  else if off < 0x418 then byteOf (Map.get 0 s.opReg core).toNat (off - 0x410)
  else if 0x1000 ≤ off ∧ off < 0x3000 then
    byteOf (Map.get 0 (s.region (16 * core + (off - 0x1000) / 512)).iter ((off - 0x1000) % 512 / 16)).toNat (off % 16)
  else 0

/-- A byte of the control region (spec 01 R33): the host key table (18 R417), the peer route and window tables (R427, R429), telemetry
(R441), the ordering control word (15 R352). Other offsets are reserved. -/
def State.controlByte (s : State) (off : Nat) : Byte :=
  if 0x40100000 ≤ off ∧ off < 0x40120000 then byteOf (Map.get 0 s.hostKeys ((off - 0x40100000) / 32)).toNat (off % 32)
  else if 0x40200000 ≤ off ∧ off < 0x40200200 then byteOf (Map.get 0 s.routes ((off - 0x40200000) / 8)).toNat (off % 8)
  else if 0x40201000 ≤ off ∧ off < 0x40201800 then byteOf (Map.get 0 s.windows ((off - 0x40201000) / 32)).toNat (off % 32)
  else if 0x40300000 ≤ off ∧ off < 0x40308000 then byteOf (Map.get 0 s.telemetry ((off - 0x40300000) / 64)).toNat (off % 64)
  else if 0x80000000 ≤ off ∧ off < 0x80000008 then byteOf (bit01 s.cons + 2 * bit01 s.consBusy) (off - 0x80000000)
  else 0

/-- Whether an offset of the control region is reserved (spec 01 R18, R33): the spec gives a register map of these blocks only. The die
blocks and the other registers have no map, and are taken as reserved (log 40). -/
def controlHole (off : Nat) : Bool :=
  !(decide (0x40100000 ≤ off) && decide (off < 0x40120000) || decide (0x40200000 ≤ off) && decide (off < 0x40200200)
    || decide (0x40201000 ≤ off) && decide (off < 0x40201800) || decide (0x40300000 ≤ off) && decide (off < 0x40308000)
    || decide (0x80000000 ≤ off) && decide (off < 0x80000008))

/-- Whether n bytes from a physical address reach an unmapped address or a reserved offset of a window (spec 01 R18). -/
def reachesHole (pa n : Nat) : Bool := (placeOf pa).block = .hole || (placeOf (pa + (n - 1))).block = .hole

/-- The byte that a physical address reads as under a KID. -/
def State.byteAt (s : State) (kid pa : Nat) : Byte :=
  let p := placeOf pa
  match p.block with
  | .hbm => byteOf (s.hbmSector kid (pa / 32)).toNat (pa % 32)
  | .coreMem => s.memByte pa
  | .spad => s.spadByte (ekey p.core (spadElem (p.off / 0x8000))) pa
  | .image => s.memByte pa
  | .am => byteOf (s.amEntry p.core (p.off / 16)).toNat (p.off % 16)
  | .const => byteOf ((s.elem (ekey p.core (p.off / 256))).kReg (p.off % 256 / 32)).val.toNat (p.off % 32)
  | .dfile => byteOf ((s.elem (ekey p.core (p.off / 256))).dReg (p.off % 256 / 32 - 4)).pay.toNat (p.off % 32)
  | .desc => byteOf ((s.elem (ekey p.core (p.off / 16))).dReg (p.off % 16 / 4)).word (p.off % 4)
  | .status => byteOf (s.elem (ekey p.core (p.off / 4))).statusWord (p.off % 4)
  | .sem => byteOf (s.sem p.core (p.off / 8)).toNat (p.off % 8)
  | .bar => byteOf (s.bar p.core (p.off / 16)).toNat (p.off % 16)
  | .regctl => s.regctlByte p.core p.off
  | .bind => byteOf (s.bindingOf p.core (p.off / 4)).toNat (p.off % 4)
  | .control => s.controlByte p.off
  | .hole => 0

/-- Whether the byte at a physical address carries a poison mark (spec 02 R40, 04 R82, R83, 07 R145, R146). -/
def State.poisAt (s : State) (pa : Nat) : Bool :=
  let p := placeOf pa
  match p.block with
  | .hbm => s.sectorPoisoned (pa / 32)
  | .coreMem => s.sectorPoisoned (pa / 32)
  | .spad => s.sectorPoisoned (pa / 32)
  | .am => (s.amEntry p.core (p.off / 16)).getLsbD 105
  | .const => ((s.elem (ekey p.core (p.off / 256))).kReg (p.off % 256 / 32)).pois.getLsbD (p.off % 32 / 8)
  | .dfile =>
    let d := (s.elem (ekey p.core (p.off / 256))).dReg (p.off % 256 / 32 - 4)
    d.pois.getLsbD (p.off % 32 * 8 / lwBits d.lw)
  | _ => false

/-- n bytes from a physical address, and whether any is marked poisoned. -/
def State.readBytes (s : State) (kid pa : Nat) : Nat → List Byte
  | 0 => []
  | n + 1 => s.byteAt kid pa :: s.readBytes kid (pa + 1) n
def State.readPois (s : State) (pa : Nat) : Nat → Bool
  | 0 => false
  | n + 1 => s.poisAt pa || s.readPois (pa + 1) n

/-- What an access does. -/
inductive Kind where
  | read | write | atomic
  deriving DecidableEq, Repr

/-- A cell of the table of masters: 1 read, 2 write, 4 atomics, 8 add-on-arrival; 0 is "—" (spec 01 R27). -/
def reachCell (m : Master) (b : Area) : Nat :=
  match m, b with
  | .fw, .am => 3 | .fw, .const => 3 | .fw, .dfile => 3 | .fw, .desc => 3 | .fw, .status => 1 | .fw, .image => 3
  | .fw, .regctl => 3 | .fw, .bind => 3 | .fw, .control => 3 | .fw, .hole => 0 | .fw, _ => 7
  | .acc, .am => 8 | .acc, _ => 0
  | .cfg, .hbm => 1 | .cfg, .const => 3 | .cfg, .dfile => 3 | .cfg, .desc => 3 | .cfg, .status => 1 | .cfg, .image => 3
  | .cfg, .regctl => 3 | .cfg, .bind => 3 | .cfg, _ => 0
  | .host, .hbm => 3 | .host, _ => 0
  | .peer, .hbm => 7 | .peer, .coreMem => 7 | .peer, .spad => 3 | .peer, .am => 3 | .peer, .sem => 7 | .peer, .bar => 4 | .peer, _ => 0
  | .fab, .hbm => 7 | .fab, .coreMem => 7 | .fab, .spad => 7 | .fab, .am => 3 | .fab, .const => 3 | .fab, .dfile => 3
  | .fab, .desc => 3 | .fab, .status => 1 | .fab, .sem => 7 | .fab, .bar => 7 | .fab, _ => 0
  | _, .hbm => 3 | _, .coreMem => 3 | _, .spad => 3 | _, .am => 3 | _, .const => 3 | _, .dfile => 3 | _, .desc => 3
  | _, .status => 1 | _, .sem => 7 | _, .bar => 4 | _, _ => 0

/-- Whether a cell includes a kind of access. -/
def cellAllows (c : Nat) (k : Kind) : Bool :=
  match k with
  | .read => c % 2 = 1
  | .write => c / 2 % 2 = 1
  | .atomic => c / 4 % 2 = 1

/-- Whether a power of two. -/
def isPow2 (n : Nat) : Bool := [1, 2, 4, 8, 16, 32, 64].contains n

/-- Sizes and alignments of window accesses (spec 01 R26). HBM takes the sizes of core memory. The table has no row for the control
region: its registers are taken 8 B at a time (log 40). -/
def sizeOk (b : Area) (k : Kind) (off size : Nat) : Bool :=
  match k with
  | .atomic =>
    (match b with
     | .sem => size = 4 && off % 8 = 0
     | .bar => size = 4 && (off % 16 = 4 || off % 16 = 12)
     | _ => (size = 4 || size = 8) && off % size = 0)
  | _ =>
    (match b with
     | .hbm => isPow2 size && off % size = 0
     | .coreMem => isPow2 size && off % size = 0
     | .spad => isPow2 size && off % size = 0
     | .am => size % 16 = 0 && decide (0 < size) && decide (size ≤ 64) && off % 16 = 0
     | .const => (size = 8 || size = 16 || size = 32) && off % size = 0
     | .dfile => (size = 8 || size = 16 || size = 32) && off % size = 0
     | .desc => size = 4 && off % 4 = 0
     | .status => size = 4 && off % 4 = 0
     | .bind => size = 4 && off % 4 = 0
     | .sem => (size = 4 || size = 8) && off % 8 = 0
     | .bar => (size = 4 || size = 16) && off % size = 0
     | .image => size % 4 = 0 && decide (0 < size) && decide (size ≤ 64) && off % 4 = 0 && decide (off % 256 + size ≤ 208)
     | .regctl => size % 4 = 0 && decide (0 < size) && decide (size ≤ 64) && off % 4 = 0 && 
         (if off < 0x400 then decide (off % 64 + size ≤ 64) else if off < 0x1000 then true else decide (off % 512 + size ≤ 512))
     | .control => size = 8 && off % 8 = 0
     | .hole => true)

/-- The cause that refuses an access, if any (spec 01 R18, R26 to R28, R30; 04 R94; 17 R399); 0x52 is an isolation violation, and comes
before a wrong size (log 40). `src` is the core the master acts from, `scope` the scope of a FAB access. -/
def State.refusal (s : State) (m : Master) (k : Kind) (pa size src scope : Nat) : Option Nat :=
  let p := placeOf pa
  let e := s.elem (ekey p.core (p.off / 256))
  if reachesHole pa size then some 0x10
  else if reachCell m p.block = 0 then some 0x52
  else if p.block = .control ∧ controlHole p.off then some 0x10
  else if !sizeOk p.block k p.off size then some 0x11
  else if !cellAllows (reachCell m p.block) k then some 0x12
  else if m = .fab ∧ p.block = .bar ∧ clusterOf p.core ≠ clusterOf src ∧ scope < 4 then some 0x12
  else if k = .write ∧ p.block = .dfile ∧ e.active then some 0x12
  else if k = .write ∧ p.block = .desc ∧ (s.elem (ekey p.core (p.off / 16))).active then some 0x12
  else if k = .write ∧ p.block = .image ∧ (s.elem (ekey p.core (p.off / 2048))).active
      ∧ (s.elem (ekey p.core (p.off / 2048))).ctx.toNat = p.off % 2048 / 256 then some 0x12
  else if k ≠ .read ∧ p.block = .spad ∧ s.pqMode (ekey p.core (spadElem (p.off / 0x8000))) then some 0x12
  else if k = .write ∧ p.block = .regctl ∧ m = .cfg ∧ 0x410 ≤ p.off ∧ p.off < 0x418 then some 0x12
  else none

/-- Whether a descriptor word may be written (spec 01 R23, 06 R119): LEN from 1 to 8, at most 4 lanes of 64 bits, reserved fields zero. -/
def descOk (w : Nat) : Bool :=
  bits w 16 16 = 0 && bits w 4 2 = 0 && decide (1 ≤ bits w 0 4) && decide (bits w 0 4 ≤ (if bits w 6 2 = 3 then 4 else 8))

/-- Replaces n bytes at byte offset i of a number. -/
def patchNat (x i : Nat) (data : List Byte) : Nat :=
  let n := data.length
  x % 256 ^ i + leNat data * 256 ^ i + x / 256 ^ (i + n) * 256 ^ (i + n)

/-- Whether any byte from lo to hi − 1 is marked, in a write whose bytes start at i. -/
def markIn (marks : List Bool) (i lo hi : Nat) : Bool := (marks.zipIdx).any (fun x => x.1 && decide (lo ≤ i + x.2) && decide (i + x.2 < hi))

/-- The poison bits of a data-file entry after a window write of bytes i to i + n − 1 (spec 07 R145). -/
def dfilePois (d : DEntry) (i n : Nat) (marks : List Bool) : BitVec 8 :=
  let b := lwBits d.lw / 8
  BitVec.ofNat 8 ((List.range 8).foldl (fun acc l =>
    let lo := l * b
    let hi := lo + b
    let old := d.pois.getLsbD l
    let pois := markIn marks i lo hi
    let new := if i ≤ lo && hi ≤ i + n then pois else if i < hi && lo < i + n then (pois || old) else old
    acc + (if new then 2 ^ l else 0)) 0)

/-- The quarters of a constant that bytes i to i + n − 1 cover. -/
def quarterMask (i n : Nat) : BitVec 4 :=
  BitVec.ofNat 4 ((List.range 4).foldl (fun acc q => acc + (if i ≤ 8 * q && 8 * q + 8 ≤ i + n then 2 ^ q else 0)) 0)

/-- Staging of a constant write (spec 01 R29, 07 R146): each byte with its mark. -/
def Elem.stage (e : Elem) (r i : Nat) (data : List Byte) (marks : List Bool) : Elem :=
  let st := e.kStage r
  let base := if st.flag then st else { val := (e.kReg r).val, pois := (e.kReg r).pois, flag := false }
  let q := quarterMask i data.length
  let m := BitVec.ofNat 4 ((List.range 4).foldl (fun acc n => acc + (if markIn marks i (8 * n) (8 * n + 8) then 2 ^ n else 0)) 0)
  e.setKs r { val := BitVec.ofNat 256 (patchNat base.val.toNat i data)
              pois := (base.pois &&& ~~~q) ||| (m &&& q)
              flag := true }

/-- The sectors from lo to hi. -/
def sectorsOf (pa n : Nat) : List Nat := (List.range ((pa + n + 31) / 32 - pa / 32)).map (fun i => pa / 32 + i)

/-- Poison of the sectors a write touches (spec 02 R41, 04 R82): a marked byte sets it, a whole unmarked sector clears it, part of one leaves it. -/
def poisonEffects (pa : Nat) (marks : List Bool) : List Effect :=
  (sectorsOf pa marks.length).flatMap (fun sec =>
    if markIn marks pa (32 * sec) (32 * sec + 32) then [.poison sec true]
    else if pa ≤ 32 * sec ∧ 32 * sec + 32 ≤ pa + marks.length then [.poison sec false, .softErr sec 0]
    else [])

/-- A write to HBM under a KID: each touched sector is read under the key, merged and written under it (spec 02 R37, R38, R43). -/
def State.hbmWrite (s : State) (kid pa : Nat) (data : List Byte) : List Effect :=
  (sectorsOf pa data.length).flatMap (fun sec =>
    (if Map.get 0 s.sectorKey sec = s.keyOf kid then []
     else [.bytes (32 * sec) (leBytes 32 (s.hbmSector kid sec).toNat), .sectorKey sec (s.keyOf kid)]))
  ++ [.bytes pa data]

/-- A semaphore after a window write of 8 or 4 bytes (spec 05 R111, R112); the reserved bits [63:58] read as zero (00 R7). -/
def semWritten (old : BitVec 64) (data : List Byte) : BitVec 64 := BitVec.ofNat 64 (patchNat old.toNat 0 data % 2 ^ 58)

/-- A named barrier after a window write at an offset (spec 05 R114); the reserved bits [39:36] read as zero. -/
def barWritten (old : BitVec 128) (off : Nat) (data : List Byte) : BitVec 128 :=
  let x := patchNat old.toNat off data
  BitVec.ofNat 128 (x % 2 ^ 36 + x / 2 ^ 40 * 2 ^ 40)

/-- A binding entry as written: VALID and its two fields, the reserved bits [30:10] zero (spec 16 R381). -/
def bindWritten (data : List Byte) : BitVec 32 :=
  let x := leNat data
  BitVec.ofNat 32 (x % 2 ^ 10 + bits x 31 1 * 2 ^ 31)

/-- The AM entries that a write of bytes at offset off stores (spec 01 R31, 04 R83). -/
def amWritten (core off : Nat) (data : List Byte) (marks : List Bool) : List Effect :=
  (List.range (data.length / 16)).map (fun i =>
    let w := BitVec.ofNat 128 (leNat ((data.drop (16 * i)).take 16))
    .am (32768 * core + off / 16 + i) (if markIn marks 0 (16 * i) (16 * i + 16) then w ||| 1#128 <<< 105 else w))

/-- The registers behind the region blocks as one number: wave register, WIN, region command (spec 16 R375, 17 R399, R402). -/
def State.ctlRegs (s : State) (core : Nat) : Nat :=
  (Map.get 0 s.waveReg core).toNat + (Map.get 65536#32 s.winReg core).toNat * 2 ^ 64 + (Map.get 0 s.opReg core).toNat * 2 ^ 128

/-- The command register's fields OPR and RGN; the rest reads as zero (spec 17 R399). -/
def opMask (x : Nat) : Nat := x % 2 ^ 4 + bits x 8 4 * 2 ^ 8

/-- The iteration vector of a block as one number (spec 17 R397). -/
def iterNumber (m : Map (BitVec 128)) : Nat := (List.range 32).foldr (fun i acc => (Map.get 0 m i).toNat + 2 ^ 128 * acc) 0

/-- A write of 4-byte words to the region controller, which may take in several registers of a block (spec 01 R26, 16 R375, 17 R397,
R399, R402); reserved bits of the command register read as zero. -/
def State.regctlWrite (s : State) (core off : Nat) (data : List Byte) : List Effect :=
  if off < 0x400 then
    let k := 16 * core + off / 64
    let r := s.region k
    let ws := (List.range 8).map (fun i => r.word i)
    let all := patchNat (leNat (ws.flatMap (fun w => leBytes 8 w))) (off % 64) data
    [.region k ((List.range 8).foldl (fun r i =>
      if off % 64 < 8 * i + 8 ∧ 8 * i < off % 64 + data.length then r.setWord i (bits all (64 * i) 64) else r) r)]
  else if off < 0x1000 then
    let all := patchNat (s.ctlRegs core) (off - 0x400) data
    let meets (lo hi : Nat) : Bool := decide (off < hi) && decide (lo < off + data.length)
    (if meets 0x400 0x408 then [.waveReg core (BitVec.ofNat 64 all)] else [])
      ++ (if meets 0x408 0x410 then [.winReg core (BitVec.ofNat 32 (bits all 64 32))] else [])
      ++ (if meets 0x410 0x418 then [.opReg core (BitVec.ofNat 64 (opMask (bits all 128 64)))] else [])
  else
    let k := 16 * core + (off - 0x1000) / 512
    let r := s.region k
    let lo := (off - 0x1000) % 512
    let all := patchNat (iterNumber r.iter) lo data
    [.region k { r with iter := (List.range 32).foldl (fun m i =>
      if lo < 16 * i + 16 ∧ 16 * i < lo + data.length then Map.set 0 m i (BitVec.ofNat 128 (bits all (128 * i) 128)) else m) r.iter }]

/-- The changes of a write of bytes, each with its mark, that has passed its checks, at the block it reaches. A write to a scratchpad empties the
queue of its element, which is not in priority-queue mode (04 R94, 09 R195). A write to the data file or a descriptor of an element that has
become active since its check is refused where it is performed, and changes nothing (01 R30, log 42). -/
def State.store (s : State) (kid pa : Nat) (data : List Byte) (marks : List Bool) : List Effect :=
  let p := placeOf pa
  match p.block with
  | .hbm => s.hbmWrite kid pa data ++ poisonEffects pa marks
  | .coreMem => .bytes pa data :: poisonEffects pa marks
  | .spad =>
    let k := ekey p.core (spadElem (p.off / 0x8000))
    s.unqueued k ++ [.bytes pa data, .elem k { s.elem k with pq := [], pqAt := none }] ++ poisonEffects pa marks
  | .am => amWritten p.core p.off data marks
  | .const =>
    let k := ekey p.core (p.off / 256)
    [.elem k ((s.elem k).stage (p.off % 256 / 32) (p.off % 32) data marks)]
  | .dfile =>
    let k := ekey p.core (p.off / 256)
    let n := p.off % 256 / 32 - 4
    let d := (s.elem k).dReg n
    if (s.elem k).active then []
    else [.elem k ((s.elem k).setD n { d with pay := BitVec.ofNat 256 (patchNat d.pay.toNat (p.off % 32) data)
                                              pois := dfilePois d (p.off % 32) data.length marks })]
  | .desc =>
    let k := ekey p.core (p.off / 16)
    let n := p.off % 16 / 4
    let w := leNat data
    if descOk w && !(s.elem k).active then
      [.elem k ((s.elem k).setD n { (s.elem k).dReg n with pois := BitVec.ofNat 8 (bits w 8 8), lw := BitVec.ofNat 2 (bits w 6 2),
                                                           len := BitVec.ofNat 4 (bits w 0 4) })]
    else []
  | .sem => [.sem (256 * p.core + p.off / 8) (semWritten (s.sem p.core (p.off / 8)) data)]
  | .bar => [.bar (2048 * p.core + p.off / 16) (barWritten (s.bar p.core (p.off / 16)) (p.off % 16) data)]
  | .image =>
    let k := ekey p.core (p.off / 2048)
    [.bytes pa data, .elem k { s.elem k with loaded := (s.elem k).loaded &&& ~~~(1#8 <<< (p.off % 2048 / 256)) }]
  | .regctl => s.regctlWrite p.core p.off data
  | .bind => [.bind (128 * p.core + p.off / 4) (bindWritten data)]
  | .status => []
  | .control => []
  | .hole => []

/-- Adds one to word i (64 bits) of a telemetry record, saturating (spec 18 R440). -/
def State.countEvent (s : State) (rec i : Nat) : Effect :=
  let v := Map.get 0 s.telemetry rec
  .telemetry rec (if bits v.toNat (64 * i) 64 = 2 ^ 64 - 1 then v else v + (1#512 <<< (64 * i)))

/-- Where HBM holds an address (spec 02 R35): the hash h of its offset in the die's range, the stack 2·d + h[0], the channel h[5:1] within
the stack, and the address within the channel. -/
def hbmOffset (pa : Nat) : Nat := pa % 0x1800000000
def hbmHash (pa : Nat) : Nat := bits (hbmOffset pa) 8 6 ^^^ bits (hbmOffset pa) 14 6 ^^^ bits (hbmOffset pa) 20 6
def hbmStack (pa : Nat) : Nat := 2 * (pa / 0x1800000000) + hbmHash pa % 2
def hbmChannel (pa : Nat) : Nat := bits (hbmHash pa) 1 5
def hbmChannelAddr (pa : Nat) : Nat := bits (hbmOffset pa) 14 23 * 256 + bits (hbmOffset pa) 0 8

/-- The telemetry record of the storage at an address: its core's, or its HBM stack's (spec 02 R35, 18 R440). -/
def recordOf (pa : Nat) : Nat :=
  let p := placeOf pa
  if p.block = .hbm then 384 + hbmStack pa else p.core

/-- What reading n bytes does to sectors with soft errors (spec 02 R39, 04 R82): one bit is corrected, written back and counted; more make
the sector poisoned. -/
def State.correct (s : State) (pa : Nat) : List Nat → List Effect
  | [] => []
  | sec :: l =>
    let b := (placeOf (32 * sec)).block
    let now : List Effect :=
      if Map.get 0 s.softErr sec = 1 then [.softErr sec 0, s.countEvent (recordOf (32 * sec)) (if b = .hbm then 0 else 5)]
      else if 2 ≤ Map.get 0 s.softErr sec then [.poison sec true, .softErr sec 0, s.countEvent (recordOf (32 * sec)) (if b = .hbm then 1 else 7)] else []
    now ++ (s.apply now).correct pa l

/-- What reading AM entries does to those with errors (spec 04 R83): one wrong bit is corrected and counted; more are counted, and the entry has
POIS from then on. -/
def State.amFix (s : State) (core : Nat) : List Nat → List Effect
  | [] => []
  | n :: l =>
    let k := 32768 * core + n
    let now : List Effect :=
      if Map.get 0 s.amErr k = 1 then [.amErr k 0, s.countEvent core 5]
      else if 2 ≤ Map.get 0 s.amErr k then [.am k (s.amEntry core n), s.countEvent core 7] else []
    now ++ (s.apply now).amFix core l

/-- What reading n bytes at an address does to storage with soft errors. -/
def State.readFix (s : State) (pa n : Nat) : List Effect :=
  let p := placeOf pa
  match p.block with
  | .am => s.amFix p.core ((List.range ((n + 15) / 16)).map (fun i => p.off / 16 + i))
  | _ => s.correct pa (sectorsOf pa n)

/-- The die and the set of a cache line: 64 MiB of 128 B lines in 16 ways are 32,768 sets (spec 02 R36); the set is taken by the line's low
bits (log 11). -/
def lineDie (line : Nat) : Nat := 128 * line / 0x1800000000
def lineSet (line : Nat) : Nat := line % 32768

/-- The lines that stand in the set of a line. -/
def State.waysOf (s : State) (line : Nat) : List Nat :=
  (s.cache.filter (fun x => lineDie x.1 = lineDie line && lineSet x.1 = lineSet line)).map (fun x => x.1)

/-- Room in the set of a line (spec 02 R36): of 16 lines one is written back and leaves; which one is a free value (log 11). -/
def State.evict (s : State) (line : Nat) : List Effect :=
  let l := s.waysOf line
  if l.length < 16 then []
  else [.cacheLine (l.getD ((Config.freeValue s.free).toNat % l.length) 0) CacheLine.none, .free (s.free + 1)]

/-- The sectors of a line that n bytes at an address touch. -/
def lineMask (pa n : Nat) : BitVec 4 :=
  BitVec.ofNat 4 ((List.range 4).foldl (fun acc i =>
    acc + (if pa % 128 < 32 * i + 32 ∧ 32 * i < pa % 128 + n then 2 ^ i else 0)) 0)

/-- THE MEMORY-SIDE CACHE on an access to HBM under a KID (spec 02 R36, R37): a hit needs the line and its KID; a line of another KID is written
back and invalidated; a miss fills the touched sectors, unless the page does not allocate; a write makes them dirty. The sectors
that the node reads are corrected (R39). -/
def State.touchLine (s : State) (kid pa : Nat) (noAlloc wr : Bool) (n : Nat) : List Effect :=
  let fix := s.readFix pa n
  if (placeOf pa).block = .hbm then
    let line := pa / 128
    let old := Map.get CacheLine.none s.cache line
    let m := lineMask pa n
    let hit : Bool := old.have_ ≠ 0 && old.kid = kid
    let held := if hit then (if noAlloc then old.have_ else old.have_ ||| m) else m
    let new : CacheLine := { kid := kid, have_ := held, dirty := (if hit then old.dirty else 0) ||| (if wr then m &&& held else 0) }
    fix ++ (if hit then [.cacheLine line new]
            else if noAlloc then [.cacheLine line CacheLine.none]
            else if old.have_ = 0 then s.evict line ++ [.cacheLine line new] else [.cacheLine line new])
  else fix

end Sys2Proof.Machine
end

