-- ==== Sys2Proof/Machine/Ops.lean ====
section
/-! DEFINITION. The shared operations: regions and error counts, translation and the checks of an access (spec 02 R46 to R54,
01 R26 to R28), semaphores and named barriers (05 R111 to R115), taking a trap and returning from one (17 R394 to R401). -/

namespace Sys2Proof.Machine

/-- Roles of masters (spec 05 R111): KIND, PKG, CORE, UNIT. -/
def roleOf (kind pkg core unit : Nat) : BitVec 26 :=
  BitVec.ofNat 26 (kind * 2 ^ 22 + pkg % 64 * 2 ^ 16 + core % 512 * 2 ^ 7 + unit % 128)
def State.elemRole (s : State) (key : Nat) : BitVec 26 := roleOf 1 s.pkgNum (coreOf key) (elemIx key)
def State.engineRole (s : State) (core eng : Nat) : BitVec 26 := roleOf (2 + eng) s.pkgNum core 0

/-- Whether a region block's rectangle covers an element index. -/
def Region.covers (r : Region) (elem : Nat) : Bool :=
  r.state ≠ .free && decide (r.rw0 ≤ elem / 16) && decide (elem / 16 < r.rw0 + r.nrows)
    && decide (r.cl0 ≤ elem % 16) && decide (elem % 16 < r.cl0 + r.ncols)

/-- The region block an element belongs to. -/
def State.regionOf (s : State) (key : Nat) : Option Nat :=
  (List.range 16).map (fun i => 16 * coreOf key + i) |>.find? (fun k => (s.region k).covers (elemIx key))

/-- The elements of a region, in ascending index. -/
def State.regionElems (s : State) (blk : Nat) : List Nat :=
  let r := s.region blk
  (List.range r.nrows).flatMap (fun i => (List.range r.ncols).map (fun j => ekey (blk / 16) (16 * (r.rw0 + i) + r.cl0 + j)))

/-- Adds to a region's error-token count, saturating (spec 16 R376). -/
def Region.addErr (r : Region) (n : Nat) : Region := { r with errt := Nat.min (r.errt + n) (2 ^ 32 - 1) }
def State.countErr (s : State) (key n : Nat) : List Effect :=
  if n = 0 then []
  else match s.regionOf key with
    | some b => [.region b ((s.region b).addErr n)]
    | none => []

/-- The translation context of the process whose region holds an element; 0 is Foreveder's own. -/
def State.tcidOf (s : State) (key : Nat) : Nat :=
  match s.regionOf key with
  | some b => (s.region b).tcid
  | none => Map.get 0 s.served (coreOf key)

/-- A field that the bits of a cause's DETAIL hold, packed from bit 0 up (spec 17 R398). -/
def detailOf (l : List (Nat × Nat)) : BitVec 128 := BitVec.ofNat 128 (packFields l)

/-- A cause and the items recorded with it. -/
structure Fail where
  cause : Nat
  detail : BitVec 128
  deriving DecidableEq, Repr

/-- Page bits of a page-size code. -/
def pageBits (size : Nat) : Nat := match size with | 0 => 16 | 1 => 21 | _ => 30

/-- Whether the physical map shows an address as unmapped (spec 01 R18). -/
def unmapped (pa : Nat) : Bool :=
  !(decide (pa < 0x6000000000) || decide (0x800000000000 ≤ pa) && decide (pa < 0x800180000000)
    || decide (0xF00000000000 ≤ pa) && decide (pa < 0xF00080001000))

/-- Whether a valid entry is malformed at a level (spec 02 R47). A local leaf names the first address of its frame, which must be mapped
(log 41). -/
def State.pteBad (s : State) (level w : Nat) : Bool :=
  let leaf := bits w 1 1 = 1
  let addr := bits w 8 40 * 256
  let page := match level with | 0 => 2 ^ 16 | 1 => 2 ^ 21 | _ => 2 ^ 30
  let table := match level with | 3 => 4096 | 2 => 4096 | _ => 256
  bits w 63 1 = 1 || bits w 48 3 ≠ 0 || bits w 2 1 = 1 || decide (2 ≤ bits w 6 2)
    || (if leaf then level = 3 || addr % page ≠ 0 || (bits w 57 6 = s.pkgNum && unmapped addr)
        else level = 0 || bits w 51 12 ≠ 0 || bits w 6 2 ≠ 0 || addr % table ≠ 0)

/-- Reads a table entry with KID 0 (spec 02 R47, R51). -/
def State.pteAt (s : State) (pa : Nat) : Nat := leNat (s.readBytes 0 pa 8)

/-- The lowest address bit that a level indexes, and the address of its entry in a table (spec 02 R46). -/
def levelShift (level : Nat) : Nat := match level with | 3 => 39 | 2 => 30 | 1 => 21 | _ => 16
def entryAt (level table va : Nat) : Nat := table + 8 * bits va (levelShift level) (if level = 0 then 5 else 9)

/-- One walk from a table down the levels that remain (spec 02 R46, R51, R53). -/
def State.walk (s : State) (tcid va : Nat) : List Nat → Nat → Except Fail (Nat × Nat)
  | [], _ => .error ⟨0x13, detailOf [(48, va), (10, tcid), (2, 0)]⟩
  | level :: rest, table =>
    let pa := entryAt level table va
    if s.sectorPoisoned (pa / 32) then .error ⟨0x16, detailOf [(48, va), (10, tcid), (2, level)]⟩
    else
      let w := s.pteAt pa
      if bits w 0 1 = 0 then .error ⟨0x13, detailOf [(48, va), (10, tcid), (2, level)]⟩
      else if s.pteBad level w then .error ⟨0x15, detailOf [(48, va), (10, tcid), (2, level), (64, w)]⟩
      else if bits w 1 1 = 1 then .ok (w, level)
      else s.walk tcid va rest (bits w 8 40 * 256)

/-- The tables that a walk reads, each with its level (spec 02 R46, R51). -/
def State.walkTables (s : State) (va : Nat) : List Nat → Nat → List (Nat × Nat)
  | [], _ => []
  | level :: rest, table =>
    let pa := entryAt level table va
    let w := s.pteAt pa
    if s.sectorPoisoned (pa / 32) ∨ bits w 0 1 = 0 ∨ bits w 1 1 = 1 ∨ s.pteBad level w = true then [(level, table)]
    else (level, table) :: s.walkTables va rest (bits w 8 40 * 256)

/-- The die whose buffer and walkers serve a master's core (spec 02 R50); masters of the I/O die use die 0's (log 43). -/
def walkDie (core : Nat) : Nat := if core < 384 then dieOf core else 0

/-- The translations that a buffer holds: a core's own, or 384 + die; and the pointer entries of a die (spec 02 R50). -/
def State.buffer (s : State) (n : Nat) : List TlbEntry := Map.get [] s.tlb n
def State.pointersOf (s : State) (die : Nat) : List PtrEntry := Map.get [] s.pointers die

/-- Whether a held translation, or pointer entry, serves an address. -/
def TlbEntry.serves (t : TlbEntry) (tcid va : Nat) : Bool := t.tcid = tcid && va / 2 ^ pageBits t.size = t.vpage
def PtrEntry.serves (p : PtrEntry) (tcid level va : Nat) : Bool := p.tcid = tcid && p.level = level && va / 2 ^ levelShift level = p.prefix_

/-- The translation of an address that a core's buffer or its die's holds (spec 02 R50). -/
def State.heldLeaf (s : State) (core tcid va : Nat) : Option TlbEntry :=
  match (if core < 384 then (s.buffer core).find? (fun t => t.serves tcid va) else none) with
  | some t => some t
  | none => (s.buffer (384 + walkDie core)).find? (fun t => t.serves tcid va)

/-- Where a walk starts: below the deepest pointer entry that the die's walkers hold, else at the root (spec 02 R50). -/
def State.walkStart (s : State) (die tcid va : Nat) : List Nat × Nat :=
  let at_ (level : Nat) : Option PtrEntry := (s.pointersOf die).find? (fun p => p.serves tcid level va)
  match at_ 1, at_ 2, at_ 3 with
  | some p, _, _ => ([0], p.table)
  | none, some p, _ => ([1, 0], p.table)
  | none, none, some p => ([2, 1, 0], p.table)
  | none, none, none => ([3, 2, 1, 0], Map.get 0 s.roots tcid)

/-- The leaf of an address and its page-size code: from a translation buffer, else by a walk (spec 02 R50 to R53). A context whose root
pointer was never written has no valid entry at level 3 (log 41). -/
def State.leafOf (s : State) (core tcid : Nat) (va : Int) : Except Fail (Nat × Nat) :=
  let v := lowBits 48 va
  if va < 0 ∨ va ≥ 2 ^ 48 then .error ⟨0x13, detailOf [(48, v), (10, tcid), (2, 3)]⟩
  else
    match s.heldLeaf core tcid v with
    | some t => .ok (t.leaf.toNat, t.size)
    | none =>
      if Map.get 0 s.roots tcid = 0 then .error ⟨0x13, detailOf [(48, v), (10, tcid), (2, 3)]⟩
      else
        let at_ := s.walkStart (walkDie core) tcid v
        s.walk tcid v at_.1 at_.2

/-- A buffer with a translation entered before the others: of those in its set, as many stay as there are ways left, the newest first
(spec 02 R50, log 43). -/
def keepWays (sets set : Nat) : Nat → List TlbEntry → List TlbEntry
  | _, [] => []
  | n, t :: l =>
    if t.vpage % sets ≠ set then t :: keepWays sets set n l
    else match n with
      | 0 => keepWays sets set 0 l
      | n + 1 => t :: keepWays sets set n l
def enterWay (ways sets : Nat) (t : TlbEntry) (l : List TlbEntry) : List TlbEntry := t :: keepWays sets (t.vpage % sets) (ways - 1) l

/-- A translation enters a core's buffer of 256 entries in 8 ways, or a die's of 16,384 in 16 (spec 02 R50). -/
def State.enterCore (s : State) (core : Nat) (t : TlbEntry) : List Effect :=
  if core < 384 then [.tlb core (enterWay 8 32 t (s.buffer core))] else []
def State.enterDie (s : State) (die : Nat) (t : TlbEntry) : List Effect := [.tlb (384 + die) (enterWay 16 1024 t (s.buffer (384 + die)))]

/-- The pointer entries that a walk has read: of each table but the last, the one that leads to the next. -/
def pointersRead (tcid va : Nat) : List (Nat × Nat) → List PtrEntry
  | [] => []
  | x :: l =>
    match l with
    | [] => []
    | y :: _ => { tcid := tcid, level := x.1, prefix_ := va / 2 ^ levelShift x.1, table := y.2 } :: pointersRead tcid va l

/-- The cache lines touched and the errors corrected by reads of 8 B under KID 0 (spec 02 R39, R47, R51). -/
def State.touchAll (s : State) : List Nat → List Effect
  | [] => []
  | pa :: l =>
    let now := s.touchLine 0 pa false false 8
    now ++ (s.apply now).touchAll l

/-- THE WALK that a miss makes (spec 02 R50, R51): its reads of the tables, the pointer entries it leaves with the walkers (512 at most), and,
where it finds a leaf, the translation in the die's buffer. -/
def State.walkEffects (s : State) (die tcid va : Nat) : List Effect :=
  if Map.get 0 s.roots tcid = 0 then []
  else
    let at_ := s.walkStart die tcid va
    let tables := s.walkTables va at_.1 at_.2
    let new := pointersRead tcid va tables
    s.touchAll (tables.map (fun x => entryAt x.1 x.2 va))
      ++ (if new.isEmpty then [] else [.pointers die ((new ++ s.pointersOf die).take 512)])
      ++ (match s.walk tcid va at_.1 at_.2 with
          | .ok (w, size) => s.enterDie die { tcid := tcid, vpage := va / 2 ^ pageBits size, size := size, leaf := BitVec.ofNat 64 w }
          | .error _ => [])

/-- What translating an address changes (spec 02 R50): a hit in the core's buffer nothing; a hit in the die's enters the core's; a miss
walks, and then enters both. -/
def State.translated (s : State) (core tcid va : Nat) : List Effect :=
  if core < 384 ∧ ((s.buffer core).any (fun t => t.serves tcid va)) = true then []
  else
    let now := if (s.buffer (384 + walkDie core)).any (fun t => t.serves tcid va) then [] else s.walkEffects (walkDie core) tcid va
    match ((s.apply now).buffer (384 + walkDie core)).find? (fun t => t.serves tcid va) with
    | some t => now ++ s.enterCore core t
    | none => now

/-- The reads of a translation that failed (spec 02 R39, R51, R53), from the VA and the TCID that its cause records. -/
def State.failedWalk (s : State) (core cause : Nat) (detail : BitVec 128) : List Effect :=
  let va := bits detail.toNat 0 48
  let tcid := bits detail.toNat 48 10
  if cause = 0x14 then s.translated core tcid va
  else if cause = 0x13 ∨ cause = 0x15 ∨ cause = 0x16 then
    (match s.leafOf core tcid va with
     | .ok _ => []
     | .error _ => s.translated core tcid va)
  else []

/-- Code of an access kind in a trap record (spec 17 R398). -/
def Kind.code (k : Kind) : Nat := match k with | .read => 0 | .write => 1 | .atomic => 2

/-- Translates one address and checks the permission (spec 02 R46, R49, R53). -/
def State.translate (s : State) (core tcid : Nat) (va : Int) (k : Kind) : Except Fail Xlat :=
  match s.leafOf core tcid va with
  | .error f => .error f
  | .ok (w, size) =>
    let v := lowBits 48 va
    let rd : Bool := bits w 3 1 = 1
    let wr : Bool := bits w 4 1 = 1
    let at_ : Bool := bits w 5 1 = 1
    let ok : Bool := match k with | .read => rd | .write => wr | .atomic => rd && wr && at_
    if ok then .ok ⟨bits w 57 6, bits w 51 6, bits w 6 2 = 1, bits w 8 40 * 256 + v % 2 ^ pageBits size⟩
    else .error ⟨0x14, detailOf [(48, v), (10, tcid), (2, k.code)]⟩

/-- Who makes an access: class, core, scope, role, translation context. -/
structure Who where
  master : Master
  core : Nat
  scope : Nat
  role : BitVec 26
  tcid : Nat
  deriving DecidableEq, Repr

/-- The recorded items of a refusal of a physical address (spec 02 R53, 17 R404). The address that cause 0x11 records is the physical one
(log 41). -/
def failOf (w : Who) (pa size cause : Nat) : Fail :=
  if cause = 0x11 then ⟨0x11, detailOf [(48, pa), (7, size)]⟩
  else if cause = 0x52 then ⟨0x52, detailOf [(48, pa), (26, w.role.toNat)]⟩
  else ⟨cause, detailOf [(48, pa)]⟩

/-- Sizes of the pieces a block allows, largest first (spec 01 R26); AM is taken entry by entry, its unit of atomicity (15 R344). -/
def pieceSizes (b : Area) : List Nat :=
  match b with
  | .hbm => [64, 32, 16, 8, 4, 2, 1]
  | .coreMem => [64, 32, 16, 8, 4, 2, 1]
  | .spad => [64, 32, 16, 8, 4, 2, 1]
  | .am => [16]
  | .const => [32, 16, 8]
  | .dfile => [32, 16, 8]
  | .sem => [8, 4]
  | .bar => [16, 4]
  | .image => [64, 60, 56, 52, 48, 44, 40, 36, 32, 28, 24, 20, 16, 12, 8, 4]
  | .control => [8]
  | .regctl => [64, 60, 56, 52, 48, 44, 40, 36, 32, 28, 24, 20, 16, 12, 8, 4]
  | _ => [4]

/-- The pieces of an access of n bytes within one 64 B granule (spec 01 R26); none where a byte begins no piece. -/
def piecesOf (b : Area) (off : Nat) : Nat → Nat → Option (List (Nat × Nat))
  | 0, n => if n = 0 then some [] else none
  | fuel + 1, n =>
    if n = 0 then some []
    else
      match (pieceSizes b).find? (fun z => decide (z ≤ n) && sizeOk b .read off z && decide (off % 64 + z ≤ 64)) with
      | none => none
      | some z =>
        match piecesOf b (off + z) fuel (n - z) with
        | none => none
        | some l => some ((off, z) :: l)

/-- One checked access: its translation and size. -/
structure Piece where
  x : Xlat
  va : Nat
  size : Nat
  deriving DecidableEq, Repr

/-- Checks one part of an access that lies in one 64 B granule, at its translation, and divides it into pieces (spec 01 R26 to R28,
02 R49, R54); a cell that allows nothing comes before a wrong size (log 40). Memory of another package is checked by that package (18 R429). -/
def State.checkAt (s : State) (w : Who) (k : Kind) (x : Xlat) (va n : Nat) : Except Fail (List Piece) :=
  if x.pkg ≠ s.pkgNum then .ok [⟨x, va, n⟩]
  else
    let p := placeOf x.pa
    if reachesHole x.pa n then .error (failOf w x.pa n 0x10)
    else if reachCell w.master p.block = 0 then .error (failOf w x.pa n 0x52)
    else if k = .atomic then
      match s.refusal w.master k x.pa n w.core w.scope with
      | some c => .error (failOf w x.pa n c)
      | none => .ok [⟨x, va, n⟩]
    else
      match piecesOf p.block p.off n n with
      | none => .error (failOf w x.pa n 0x11)
      | some l =>
        let ps := l.map (fun q => (⟨{ x with pa := x.pa + (q.1 - p.off) }, va + (q.1 - p.off), q.2⟩ : Piece))
        match ps.findSome? (fun q => (s.refusal w.master k q.x.pa q.size w.core w.scope).map (fun c => failOf w q.x.pa q.size c)) with
        | some f => .error f
        | none => .ok ps

/-- Checks one part of an access that lies in one 64 B granule (spec 02 R46 to R54). -/
def State.checkPart (s : State) (w : Who) (k : Kind) (va : Int) (n : Nat) : Except Fail (List Piece) :=
  match s.translate w.core w.tcid va k with
  | .error f => .error f
  | .ok x => s.checkAt w k x (lowBits 48 va) n

/-- The parts of an access of n bytes at a virtual address, one for each 64 B granule it touches. -/
def granules (va : Int) (n : Nat) : List (Int × Nat) :=
  let r := (va % 64).toNat
  (List.range (if n = 0 then 0 else (r + n + 63) / 64)).map (fun i =>
    let lo := Nat.max r (64 * i)
    (va + ((lo : Int) - (r : Int)), Nat.min (r + n) (64 * i + 64) - lo))

/-- Checks a whole access (spec 02 R54): all its pieces, or the first failure. -/
def State.checkAccess (s : State) (w : Who) (k : Kind) (va : Int) (n : Nat) : Except Fail (List Piece) :=
  (granules va n).foldl (fun acc g =>
    match acc with
    | .error f => .error f
    | .ok l =>
      match s.checkPart w k g.1 g.2 with
      | .error f => .error f
      | .ok m => .ok (l ++ m)) (.ok [])

/-- Checks several accesses of one firing in order (spec 02 R54). -/
def State.checkAll (s : State) (w : Who) (k : Kind) : List (Int × Nat) → Except Fail (List (List Piece))
  | [] => .ok []
  | (va, n) :: l =>
    match s.checkAccess w k va n with
    | .error f => .error f
    | .ok p =>
      match s.checkAll w k l with
      | .error f => .error f
      | .ok ps => .ok (p :: ps)

/-- Stored address of a logical address under a layout (spec 04 R89). -/
def swizzle (code : Nat) (a : Int) : Int :=
  let low := lowBits 11 a
  match code with
  | 1 => a - (low % 1024 : Nat) + ((low % 16 + ((bits low 4 3) ^^^ (bits low 7 3)) * 16 + low % 1024 / 128 * 128 : Nat) : Int)
  | 2 => a - (low : Nat) + ((low % 32 + ((bits low 5 3) ^^^ (bits low 8 3)) * 32 + low / 256 * 256 : Nat) : Int)
  | _ => a

/-- COUNT, ERR, CAUSE and ROLE of a semaphore (spec 05 R111). -/
def semCount (w : BitVec 64) : Nat := (w.extractLsb' 0 24).toNat
def semErr (w : BitVec 64) : Bool := w.getLsbD 31
def semCause (w : BitVec 64) : Nat := (w.extractLsb' 24 7).toNat
def semRole (w : BitVec 64) : BitVec 26 := w.extractLsb' 32 26

/-- A semaphore word from its fields. -/
def semMake (role : BitVec 26) (err : Bool) (cause count : Nat) : BitVec 64 :=
  BitVec.ofNat 64 (count % 2 ^ 24 + cause % 128 * 2 ^ 24 + bit01 err * 2 ^ 31 + role.toNat * 2 ^ 32)

/-- A signal (spec 05 R112): COUNT clamps; an error signal sets ERR, and CAUSE and ROLE if ERR was clear. -/
def semSignal (w : BitVec 64) (inc : Int) (err : Option (Nat × BitVec 26)) : BitVec 64 :=
  let c := Int.toNat (min (max ((semCount w : Int) + inc) 0) 0xFFFFFF)
  match err with
  | none => semMake (semRole w) (semErr w) (semCause w) c
  | some (cause, role) => if semErr w then semMake (semRole w) true (semCause w) c else semMake role true cause c

/-- Whether a wait's count condition holds (spec 05 R104, R106, 09 R208). -/
def semCond (w : BitVec 64) (lt : Bool) (thr : Nat) : Bool :=
  if lt then decide (semCount w < thr) else decide (thr ≤ semCount w)

/-- A named barrier by fields (spec 05 R114). -/
structure BarF where
  abytes : Nat
  xbytes : Nat
  aarr : Nat
  xarr : Nat
  init : Bool
  phase : Bool
  err : Bool
  cause : Nat
  role : BitVec 26
  deriving DecidableEq, Repr

def barOf (b : BitVec 128) : BarF :=
  { abytes := (b.extractLsb' 96 32).toNat, xbytes := (b.extractLsb' 64 32).toNat, aarr := (b.extractLsb' 52 12).toNat,
    xarr := (b.extractLsb' 40 12).toNat, init := b.getLsbD 35, phase := b.getLsbD 34, err := b.getLsbD 33,
    cause := (b.extractLsb' 26 7).toNat, role := b.extractLsb' 0 26 }
def barBits (f : BarF) : BitVec 128 :=
  BitVec.ofNat 128 (packFields [(26, f.role.toNat), (7, f.cause), (1, bit01 f.err), (1, bit01 f.phase), (1, bit01 f.init), (4, 0),
    (12, f.xarr), (12, f.aarr), (32, f.xbytes), (32, f.abytes)])

/-- Sets ERR of a barrier if it was clear. -/
def BarF.setErr (f : BarF) (cause : Nat) (role : BitVec 26) : BarF :=
  if f.err then f else { f with err := true, cause := cause, role := role }

/-- The evaluation after a BINIT or an arrival (spec 05 R115). -/
def BarF.evaluate (f : BarF) (role : BitVec 26) : BarF :=
  if f.init then
    let g := if f.xarr < f.aarr ∨ f.xbytes < f.abytes then f.setErr 0x36 role else f
    if g.xarr ≤ g.aarr ∧ g.xbytes ≤ g.abytes then { g with phase := !g.phase, aarr := 0, abytes := 0 } else g
  else f

/-- BINIT, arrivals and byte arrivals (spec 05 R115). -/
def barInit (b : BitVec 128) (xarr xbytes : Nat) (pois : Bool) (role : BitVec 26) : BitVec 128 :=
  let f : BarF := { barOf b with xarr := xarr, xbytes := xbytes, aarr := 0, abytes := 0, err := false, cause := 0, role := 0, init := true }
  barBits ((if pois then f.setErr 0x32 role else f).evaluate role)
def barArrive (b : BitVec 128) (n : Nat) (pois : Bool) (role : BitVec 26) : BitVec 128 :=
  let f := barOf b
  let f := if pois then f.setErr 0x32 role else f
  let f := if 4095 < f.aarr + n then { f with aarr := 4095 }.setErr 0x36 role else { f with aarr := f.aarr + n }
  barBits (f.evaluate role)
def barBytes (b : BitVec 128) (n : Nat) (pois : Bool) (role : BitVec 26) : BitVec 128 :=
  let f := barOf b
  let f := if pois then f.setErr 0x32 role else f
  let f := if 2 ^ 32 - 1 < f.abytes + n then { f with abytes := 2 ^ 32 - 1 }.setErr 0x36 role else { f with abytes := f.abytes + n }
  barBits (f.evaluate role)

/-- Opcodes whose multi-cycle firings are cancellable: FENCE, XFENCE, DRAIN, ECMD, ACHAIN (spec 09 R207). -/
def cancellableOps : List Nat := [0xB0, 0xB1, 0xB2, 0xB9, 0xD0]

/-- Whether a bind is being asked for again (spec 14 R329). -/
def BindState.retries (b : BindState) : Bool :=
  match b with
  | .again _ => true
  | .reasked => true
  | .asked => false
  | .idle => false

/-- Whether a firing of an element with this opcode can be cancelled now: an ACHAIN only while it retries its bind (spec 09 R207). -/
def Elem.cancellable (e : Elem) (op : Nat) : Bool := cancellableOps.contains op && (op ≠ 0xD0 || e.binds.any (fun b => b.2.retries))

/-- Removes the offers of an element from the engines of its core. -/
def State.dropOffers (s : State) (key : Nat) : List Effect :=
  (List.range 4).flatMap (fun e =>
    let g := s.engine (coreOf key) e
    if g.offers.any (fun o => o.src = .elem key) then
      [.engine (4 * coreOf key + e) { g with offers := g.offers.filter (fun o => o.src ≠ .elem key) }]
    else [])

/-- The element with a cancellable firing in progress cancelled: none of its steps happens (spec 09 R207). -/
def State.cancelled (s : State) (key : Nat) (e : Elem) : Elem :=
  match e.busy with
  | none => e
  | some n =>
    match s.slotOp key e.ctx.toNat n with
    | some op => if e.cancellable op then { e with busy := none, binds := [] } else e
    | none => e

/-- Counter i of generator g of an element (spec 04 R87). -/
def Elem.gen (e : Elem) (g i : Nat) : Nat := Map.get 0 e.gens (4 * g + i)

/-- The iteration vector of a region (spec 17 R397): counters of its ST and SE elements in ascending index. -/
def State.iterVector (s : State) (blk : Nat) : Map (BitVec 128) :=
  let l := (s.regionElems blk).filter (fun k => siteType (elemIx k) = .st || siteType (elemIx k) = .se)
  (l.zipIdx).foldl (fun m x =>
    let e := s.elem x.1
    Map.set 0 m x.2 (BitVec.ofNat 128 (packFields ((List.range 8).map (fun i => (16, e.gen (i / 4) (i % 4))))))) []

/-- The commands of a region's elements stop at chunk boundaries, or go on (spec 05 R110, 17 R395). -/
def State.pauseCmds (s : State) (blk : Nat) (on : Bool) : List Effect :=
  let ks := s.regionElems blk
  let f (c : Cmd) : Cmd := if ks.any (fun k => c.src = .elem k) then { c with paused := on } else c
  (List.range 4).flatMap (fun e =>
    let g := s.engine (blk / 16) e
    let g' := { g with queue := g.queue.map f, running := g.running.map f }
    if g' = g then [] else [.engine (4 * (blk / 16) + e) g'])

/-- A region stopped at once, as the first step of a discard (spec 17 R394, R400 step 1). -/
def State.stopRegion (s : State) (blk : Nat) : List Effect :=
  (s.regionElems blk).flatMap (fun k =>
    let e := s.elem k
    s.dropOffers k ++ [.elem k { s.cancelled k e with stopped := true, stopIn := 0 }])
  ++ s.pauseCmds blk true

/-- The stop that a region's controller sends to its elements but one: it reaches each within 8 cycles, in a cycle the spec leaves
open; the region's commands stop at chunk boundaries (spec 17 R394, R395, log 6). -/
def State.sendStops (s : State) (blk : Nat) (but : Option Nat) : List Effect :=
  let ks := (s.regionElems blk).filter (fun k => some k ≠ but)
  (ks.zipIdx).map (fun x => .elem x.1 { s.elem x.1 with stopIn := 1 + (Config.freeValue (s.free + x.2)).toNat % 8 })
    ++ s.pauseCmds blk true ++ [.free (s.free + ks.length)]

/-- The stop on its way to an element: in the cycle it arrives the element stops, a cancellable firing in progress is cancelled, and the
iteration vector takes its counters (spec 17 R394, R397, 09 R207). -/
def stopArrives (key : Nat) : Prog := fun s =>
  let e := s.elem key
  if e.stopIn = 0 then []
  else if 1 < e.stopIn then [.elem key { e with stopIn := e.stopIn - 1 }]
  else
    s.dropOffers key ++ [.elem key { s.cancelled key e with stopped := true, stopIn := 0 }]
      ++ (match s.regionOf key with | some b => [.region b { s.region b with iter := s.iterVector b }] | none => [])

/-- Whether every stop of a region has arrived. -/
def State.stopsDone (s : State) (blk : Nat) : Bool := (s.regionElems blk).all (fun k => (s.elem k).stopIn = 0)

/-- The trap record of a region with one more trap (spec 17 R395, R396): the earliest stays; in one cycle the lowest element. -/
def Region.record (r : Region) (t : TrapInfo) (elem : Nat) (now : BitVec 64) : Region :=
  let fresh := { r with state := .trapped, fromIdle := r.fromIdle || (r.state == RState.idle), tv := true, cause := t.cause, orig := t.orig, elem := elem,
                        slot := if t.orig = 0 then t.slot else 0, tctx := t.ctx, cyc := now, detail := t.detail }
  if r.tv then
    (if r.cyc = now ∧ elem < r.elem then { fresh with more := Nat.min (r.more + 1) 127 }
     else { r with more := Nat.min (r.more + 1) 127 })
  else { fresh with more := 0 }

/-- TAKING A TRAP (spec 17 R394 to R397), precise or not: the element keeps its firing undone and stops, the region's block takes
the record and STATE 5, a stop goes to every other element of the region, the iteration vector is written. -/
def State.trapEffects (s : State) (key : Nat) (t : TrapInfo) : List Effect :=
  let e := s.elem key
  let mine : Effect := .elem key { s.cancelled key e with trap := some t, stopped := true, stopIn := 0
                                                          busy := if t.orig = 0 then none else (s.cancelled key e).busy }
  match s.regionOf key with
  | none => [mine]
  | some b =>
    let r := (s.region b).record t (elemIx key) s.cycle
    s.failedWalk (coreOf key) t.cause t.detail ++ s.dropOffers key ++ [mine]
      ++ (if (s.region b).tv then [.region b r] else s.sendStops b (some key) ++ [.region b { r with iter := s.iterVector b }])

/-- An asynchronous stop (spec 17 R401): no trapping firing; the record names an element, its context and the items. -/
def State.asyncStop (s : State) (blk cause orig elem : Nat) (detail : BitVec 128) : List Effect :=
  let r := s.region blk
  let t : TrapInfo := { cause := cause, orig := orig, slot := 0, ctx := (s.elem (ekey (blk / 16) elem)).ctx.toNat, detail := detail }
  let q := r.record t elem s.cycle
  if r.tv then [.region blk q] else s.sendStops blk none ++ [.region blk { q with iter := s.iterVector blk }]

/-- RETURNING FROM A TRAP (spec 17 R399, operation 2): TV and MORE clear, every stop is released, STATE 3; each trapping firing is
evaluated again. A region still draining goes on draining (R408); one that ran no invocation is idle again (log 31). -/
def State.resumeEffects (s : State) (blk : Nat) : List Effect :=
  let r := s.region blk
  (s.regionElems blk).map (fun k => .elem k { s.elem k with stopped := false, stopIn := 0, trap := none })
    ++ s.pauseCmds blk false
    ++ [.region blk { r with tv := false, more := 0, quiet := 0, told := false,
                             state := if r.fromIdle then .idle else if r.cutAt ≠ 0 then .preempting else .running, fromIdle := false }]

end Sys2Proof.Machine
end

