-- ==== Sys2Proof/Machine/Operands.lean ====
section
/-! DEFINITION. The firing: which slot it is, when it is eligible (spec 07 R152 to R154, 06 R138, 09 R199), the operands its
selectors supply (07 R147, 06 R126 to R133), and the steps that complete it, replace its result by an ERR token, or trap (07 R159,
R160, 06 R127). -/

namespace Sys2Proof.Machine

/-- The firing of a slot: its element, context, slot number, fields, the element as it stands, header and routing word. -/
structure Fire where
  key : Nat
  ctx : Nat
  n : Nat
  f : Slot
  e : Elem
  hdr : Nat
  rt : Nat
  deriving DecidableEq, Repr

/-- The firing that the focus names (spec 07 R159). -/
def State.fireOf (s : State) (f : Slot) : Option Fire :=
  match s.focus with
  | .slot key ctx n => some { key := key, ctx := ctx, n := n, f := f, e := s.elem key, hdr := s.header key ctx, rt := s.routing key ctx }
  | _ => none

/-- Fields of the context header (spec 07 R148). -/
def hdrFmt (h : Nat) : Nat := bits h 0 5
def hdrRm (h : Nat) : RMode := match bits h 5 2 with | 0 => .rne | 1 => .rtz | 2 => .rdn | _ => .sr
def hdrJm (h : Nat) : Nat := bits h 7 2
def hdrJa (h : Nat) : Nat := bits h 9 3
def hdrJb (h : Nat) : Nat := bits h 12 3
def hdrWin (h : Nat) : Nat := bits h 15 6
def hdrWout (h : Nat) : Nat := bits h 21 6
def hdrSnk (h : Nat) : Bool := bits h 27 1 = 1
def hdrSnkl (h : Nat) : Nat := bits h 28 3
def hdrEpol (h : Nat) : Bool := bits h 31 1 = 1
def hdrHle (h : Nat) : Bool := bits h 32 1 = 1
def hdrRep (h : Nat) : Nat := bits h 33 7
def hdrSeed (h : Nat) : Nat := bits h 40 8
def hdrRid (h : Nat) : Nat := bits h 48 16

/-- Fields of the routing word (spec 06 R134): source and lane format of output o, bypass-only flag of input i. -/
def rtSource (r o : Nat) : Nat := bits r (4 * o) 4
def rtFormat (r o : Nat) : Nat := bits r (30 + 5 * o) 5
def rtBypass (r i : Nat) : Bool := bits r (24 + i) 1 = 1

def Fire.core (fr : Fire) : Nat := coreOf fr.key
def Fire.fmt (fr : Fire) : Nat := hdrFmt fr.hdr
def Fire.rm (fr : Fire) : RMode := hdrRm fr.hdr
def Fire.epol (fr : Fire) : Bool := hdrEpol fr.hdr
/-- Lane width of the slot's format. -/
def Fire.w (fr : Fire) : Nat := fmtWidth fr.fmt
def Fire.md (fr : Fire) (i : Nat) : Bool := fr.f.md.getLsbD i
def Fire.imm (fr : Fire) (lo n : Nat) : Nat := immField fr.f lo n

/-- Kinds of spec 06 R120. -/
def kData : BitVec 3 := 0
def kHdr : BitVec 3 := 1
def kEos : BitVec 3 := 2
def kErr : BitVec 3 := 3
def kWave : BitVec 3 := 4

/-- Whether a queue refuses a packet (spec 06 R120, R122): an unassigned kind, parity, or a malformed wave. -/
def Packet.bad (p : Packet) : Bool :=
  p.perr || decide (4 < p.kind.toNat)
    || (p.kind = kWave && (p.pay.extractLsb' 0 2 = 3#2 || p.pay.extractLsb' 5 27 ≠ 0#27
          || (p.pay.extractLsb' 0 2 ≠ 0#2 && p.pay.extractLsb' 2 3 ≠ 0#3)))

def Packet.lanes (p : Packet) : Nat := p.lenm.toNat + 1
def Packet.width (p : Packet) : Nat := lwBits p.lw
/-- Raw bits of lane i, zero beyond the length (spec 08 R182). -/
def Packet.lane (p : Packet) (i : Nat) : Nat := if i < p.lanes then bits p.pay.toNat (p.width * i) p.width else 0
def Packet.laneP (p : Packet) (i : Nat) : Bool := if i < 8 then p.pois.getLsbD i else false

/-- The view of a joined packet with the headers of its side (spec 06 R133). -/
def Elem.joined (e : Elem) : Option Joined := e.qj.head?

/-- The visible head of input q, 0 to 5 (spec 07 R153, 06 R125, R138, 13 R296). -/
def State.headOf (s : State) (key q : Nat) : Option Packet :=
  let e := s.elem key
  match e.queue q with
  | [] => none
  | p :: _ =>
    if p.kind = kWave || p.bad || s.fresh.contains (8 * key + q) then none
    else if p.kind = kHdr && hdrHle (s.header key e.ctx.toNat) then none
    else if q = 3 && siteType (elemIx key) = .me && (p.kind = kEos || p.kind = kErr)
        && (e.me.rb0.state ≠ .empty || e.me.rb1.state ≠ .empty) then none
    else some p

/-- The head that a queue code names, as QA's or QB's view (spec 07 R147, R153). -/
def State.viewOf (s : State) (key q : Nat) (viewB : Bool) : Option Packet :=
  if q = 6 then
    (if s.fresh.contains (8 * key + 6) then none
     else (s.elem key).joined.map (fun j => if viewB then j.b else j.a))
  else if q < 6 then s.headOf key q
  else none

/-- The kind code of a guard that a head answers to: DATA (and an HDR shown as DATA), EOS, ERR (spec 07 R154, 06 R130). -/
def Packet.guardKind (p : Packet) : BitVec 2 := if p.kind = kEos then 1 else if p.kind = kErr then 2 else 0

/-- Whether a head satisfies a guard's kind and tag test (spec 07 R154). -/
def guardHead (k : BitVec 2) (te : Bool) (t : BitVec 3) (p : Option Packet) : Bool :=
  match p with
  | none => false
  | some p => (k = 3 || k = p.guardKind) && (!te || p.tag = t)

/-- Whether the guard's queue tests hold. -/
def State.guardHeads (s : State) (key : Nat) (f : Slot) : Bool :=
  (f.qa = 7 || guardHead f.ka f.tea f.ta (s.viewOf key f.qa.toNat false))
    && (f.qb = 7 || guardHead f.kb f.teb f.tb (s.viewOf key f.qb.toNat true))

/-- Whether every output of a mask has space (spec 06 R125; 09 R199 for a stream element). -/
def Elem.hasSpace (e : Elem) (key : Nat) (m : BitVec 6) : Bool :=
  if siteType (elemIx key) = .st then m = 0 || decide (e.ret.length < 32)
  else (List.range 6).all (fun o => !m.getLsbD o || (e.out o).isNone)

/-- Whether the local port has space: no oy output of a core has any while its region controller holds 16 packets (spec 12 R279). -/
def State.portSpace (s : State) (key : Nat) (m : BitVec 6) : Bool :=
  !m.getLsbD 5 || siteType (elemIx key) = .st || decide ((Map.get [] s.lport (coreOf key)).length < 16)

/-- Whether the element is free (spec 07 R152), and its context loaded (log 20) and begun (06 R140, log 21). -/
def State.isFree (s : State) (key : Nat) : Bool :=
  let e := s.elem key
  e.active && e.opening.isNone && !e.acted && e.busy.isNone && !e.stopped && !e.held && e.trap.isNone
    && !s.fresh.contains (8 * key + 7) && e.loaded.getLsbD e.ctx.toNat

/-- R154 but for the pending lines of a scratchpad element, with the guard g: the slot is eligible, or is the firing in progress, in its last
cycle (R158). No slot of an accumulate element fires before it takes the trap of a refusal (14 R337). -/
def State.eligible (s : State) (fr : Fire) (g : Slot) : Bool :=
  if fr.e.busy = some fr.n then fr.e.left = 0 && fr.ctx = fr.e.ctx.toNat && !s.fresh.contains (8 * fr.key + 7)
  else
    s.isFree fr.key && fr.e.refRec.isNone && fr.ctx = fr.e.ctx.toNat && fr.f.val && fr.e.st &&& fr.f.sm = fr.f.sv &&& fr.f.sm
      && s.guardHeads fr.key g && fr.e.hasSpace fr.key (fr.f.om ||| fr.f.os) && s.portSpace fr.key (fr.f.om ||| fr.f.os)

/-- An operand: the packet, the header its lanes are read under, whether it is a constant (its length follows R126) and whether it
has the slot's lane width by construction (a constant or an immediate). -/
structure Opnd where
  pkt : Packet
  hdr : HReg
  isConst : Bool
  fixed : Bool
  deriving DecidableEq, Repr

/-- A DATA packet of lanes of width code lw, with tag and poison. -/
def packLanes (lw : BitVec 2) (l : List (Nat × Bool)) : BitVec 256 × BitVec 8 :=
  (BitVec.ofNat 256 (packFields (l.map (fun x => (lwBits lw, x.1)))), BitVec.ofNat 8 (packFields (l.map (fun x => (1, bit01 x.2)))))
def dataPacket (lw : BitVec 2) (tag : BitVec 3) (crd : Bool) (l : List (Nat × Bool)) : Packet :=
  let q := packLanes lw l
  { pay := q.1, crd := crd, pois := q.2, tag := tag, kind := kData, lw := lw, lenm := BitVec.ofNat 3 (l.length - 1), perr := false }

/-- An EOS token of a level (spec 06 R120, 07 R160). -/
def eosPacket (lw : BitVec 2) (level : BitVec 3) : Packet :=
  { pay := 0, crd := false, pois := 0, tag := level, kind := kEos, lw := lw, lenm := 0, perr := false }

/-- An ERR token (spec 06 R121). -/
def errToken (key ctx slot src cause detail : Nat) (tag : BitVec 3) : Packet :=
  { pay := BitVec.ofNat 256 (packFields [(7, cause), (1, 0), (1, src), (3, ctx), (4, slot), (7, elemIx key), (9, coreOf key), (32, detail)])
    crd := false, pois := 0, tag := tag, kind := kErr, lw := 2, lenm := 1, perr := false }

/-- A HDR token with a payload (spec 06 R120). -/
def hdrPacket (pay : Nat) (pois : Bool) (tag : BitVec 3) : Packet :=
  { pay := BitVec.ofNat 256 (pay % 2 ^ 32), crd := false, pois := if pois then 1 else 0, tag := tag, kind := kHdr, lw := 2, lenm := 0, perr := false }

/-- A packet with another tag (spec 12 R268: the rest unchanged). -/
def Packet.retag (p : Packet) (t : BitVec 3) : Packet := { p with tag := t }

/-- The immediate of a format (spec 07 R147), as the bits of one lane. -/
def immLane (fmt imm : Nat) : Nat :=
  if fmt < 4 then lowBits (fmtWidth fmt) (signExt 16 imm)
  else if fmt < 8 then imm % 2 ^ fmtWidth fmt
  else if fmt = 8 then 65536 * imm
  else if fmt = 9 ∨ fmt = 10 then imm
  else if fmt = 16 then lowBits 64 (signExt 16 imm)
  else imm % 256

/-- A data-file entry read as an operand (spec 07 R145): the lanes of its length, the others zero (06 R119). -/
def DEntry.packet (d : DEntry) (tag : BitVec 3) : Packet :=
  { pay := d.pay &&& BitVec.ofNat 256 (2 ^ (lwBits d.lw * d.len.toNat) - 1), crd := false
    pois := d.pois &&& BitVec.ofNat 8 (2 ^ d.len.toNat - 1), tag := tag, kind := kData, lw := d.lw, lenm := BitVec.ofNat 3 (d.len.toNat - 1), perr := false }

/-- A constant read as lanes of a width (spec 07 R146, R147). -/
def KReg.packet (k : KReg) (w : Nat) (tag : BitVec 3) : Packet :=
  let n := maxLanes w
  dataPacket (lwCode w) tag false ((List.range n).map (fun i => (bits k.val.toNat (w * i) w, k.pois.getLsbD (w * i / 64))))

/-- The operand that a selector supplies, a constant as lanes of width w (spec 07 R147). `isB` tells which IMM field names a constant. -/
def State.operandAt (s : State) (fr : Fire) (w : Nat) (sel : BitVec 3) (isB : Bool) : Option Opnd :=
  let f := fr.f
  let fromQueue (q : Nat) (viewB : Bool) : Option Opnd :=
    (s.viewOf fr.key q viewB).map (fun p =>
      { pkt := p
        hdr := if q = 6 then (match fr.e.joined with | some j => if viewB then j.hb else j.ha | none => HReg.neutral) else fr.e.hreg q
        isConst := false, fixed := false })
  if sel = 4 then fromQueue f.qa.toNat false
  else if sel = 5 then fromQueue f.qb.toNat true
  else if sel = 6 then
    some { pkt := (fr.e.kReg (if isB then fr.imm 2 2 else fr.imm 0 2)).packet w f.ot, hdr := HReg.neutral, isConst := true, fixed := true }
  else if sel = 7 then
    some { pkt := dataPacket (lwCode fr.w) f.ot false [(immLane fr.fmt f.imm.toNat, false)], hdr := HReg.neutral, isConst := false, fixed := true }
  else some { pkt := (fr.e.dReg sel.toNat).packet f.ot, hdr := HReg.neutral, isConst := false, fixed := false }

/-- The operand that a selector supplies, a constant as lanes of the format's width. -/
def State.operand (s : State) (fr : Fire) (sel : BitVec 3) (isB : Bool) : Option Opnd := s.operandAt fr fr.w sel isB

/-- Operands A and B, and the destination entry as a third operand (spec 10 R223). -/
def State.opA (s : State) (fr : Fire) : Option Opnd := s.operand fr fr.f.sa false
def State.opB (s : State) (fr : Fire) : Option Opnd := s.operand fr fr.f.sb true
def Fire.opD (fr : Fire) : Opnd :=
  { pkt := (fr.e.dReg fr.f.dd.toNat).packet fr.f.ot, hdr := HReg.neutral, isConst := false, fixed := false }

/-- Length of an operand for the rules of R126: entries in coordinate mode (spec 06 R123). -/
def Opnd.count (o : Opnd) : Nat := if o.pkt.crd then o.pkt.lanes / 2 else o.pkt.lanes

/-- The lane an operand supplies for result lane i: value lanes in coordinate mode, lane 0 of a length-1 operand broadcast (06 R123, R126). -/
def Opnd.index (o : Opnd) (i : Nat) : Nat :=
  let j := if o.count = 1 ∧ !o.isConst then 0 else i
  if o.pkt.crd then 2 * j + 1 else j
def Opnd.bl (o : Opnd) (i : Nat) : Nat := o.pkt.lane (o.index i)
def Opnd.bp (o : Opnd) (i : Nat) : Bool := o.pkt.laneP (o.index i) || o.hdr.pois

/-- `out_len` of spec 06 R126 over the operands read; none is a mismatch. -/
def outLen (w : Nat) (l : List Opnd) : Option Nat :=
  let ns := ((l.filter (fun o => !o.isConst)).map Opnd.count).filter (fun n => n ≠ 1)
  match ns with
  | [] => some (if l.any (fun o => o.isConst) then maxLanes w else 1)
  | n :: rest => if rest.all (fun m => m = n) then some n else none

/-- The first operand whose DATA packet is not of the slot's lane width (spec 08 R184). -/
def badWidth (lw : BitVec 2) (l : List Opnd) : Option Packet :=
  (l.find? (fun o => !o.fixed && (o.pkt.kind = kData || o.pkt.kind = kHdr) && o.pkt.lw ≠ lw)).map (fun o => o.pkt)

/-- What a firing that completes does: its result for the destination, the packet it pushes and where, which heads it pops, the
element with the registers its instruction changes, a state bit written after NS, errors counted, and other changes made first. -/
structure Done where
  res : Option Packet
  out : Option Packet
  om : BitVec 6
  popA : Bool
  popB : Bool
  e : Elem
  stBit : Option (Nat × Bool)
  errs : Nat
  dest : PortDest
  pre : List Effect
  deriving DecidableEq, Repr

/-- How a firing ends. -/
inductive Outc where
  | done (d : Done)
  | err (cause detail : Nat)
  | trap (cause : Nat) (detail : BitVec 128)
  | wait (e : Elem) (l : List Effect)
  | nothing
  deriving DecidableEq, Repr

/-- A firing with no result yet: it pops and moves the state as encoded. -/
def Fire.plain (fr : Fire) : Done :=
  { res := none, out := none, om := fr.f.om, popA := fr.f.dqa, popB := fr.f.dqb, e := fr.e, stBit := none, errs := 0, dest := .nowhere, pre := [] }

/-- Lane-width code of the outputs that a slot names, which spec 06 R136 makes one width (07 R160); with none, of the slot's format. -/
def Fire.outLw (fr : Fire) : BitVec 2 :=
  match (List.range 6).find? (fun o => fr.f.om.getLsbD o) with
  | some o => fmtLw (rtFormat fr.rt o)
  | none => fmtLw fr.fmt

/-- The packet that a result is pushed as (spec 07 R160): DATA with tag OT, or an EOS of level OT at the outputs' lane width. -/
def Fire.outPacket (fr : Fire) (p : Packet) : Packet :=
  if fr.f.oeos then eosPacket fr.outLw fr.f.ot else { p with tag := fr.f.ot, kind := kData }

/-- A firing with a DATA result (spec 07 R159, R160). -/
def Fire.result (fr : Fire) (p : Packet) : Done := { fr.plain with res := some p, out := some (fr.outPacket p) }

/-- Pops input q of an element; 6 is the join queue. -/
def Elem.pop (e : Elem) (q : Nat) : Elem :=
  if q = 6 then { e with qj := e.qj.drop 1 } else if q < 6 then e.setQueue q ((e.queue q).drop 1) else e

/-- Pops of both queues; one queue named twice is popped once (spec 07 R147). -/
def Fire.pops (fr : Fire) (a b : Bool) (e : Elem) : Elem :=
  let e := if a then e.pop fr.f.qa.toNat else e
  if b && !(a && fr.f.qa = fr.f.qb) then e.pop fr.f.qb.toNat else e

/-- Fills the output registers of a mask; a stream element's packets enter its return buffer (spec 09 R199). -/
def Elem.push (e : Elem) (key : Nat) (m : BitVec 6) (p : Packet) (dest : PortDest) : Elem :=
  if m = 0 then e
  else if siteType (elemIx key) = .st then
    { e with ret := e.ret ++ [{ id := 0, pkt := p, mask := m, need := 0, dest := dest }] }
  else
    let e := (List.range 6).foldl (fun e o => if m.getLsbD o then e.setOut o (some p) else e) e
    if m.getLsbD 5 then { e with oyDest := dest } else e

/-- The state register after step 6 (spec 07 R159, R161). -/
def Fire.nextSt (fr : Fire) (bit : Option (Nat × Bool)) : BitVec 6 :=
  let st := if fr.f.nse then fr.f.ns else fr.e.st
  match bit with
  | none => st
  | some (i, b) => if b then st ||| (1#6 <<< i) else st &&& ~~~(1#6 <<< i)

/-- A data-file entry that holds a packet (spec 07 R145). -/
def Packet.entry (p : Packet) : DEntry :=
  { pay := p.pay &&& BitVec.ofNat 256 (2 ^ (p.width * p.lanes) - 1), pois := p.pois &&& BitVec.ofNat 8 (2 ^ p.lanes - 1)
    lw := p.lw, len := BitVec.ofNat 4 p.lanes }

/-- Step 3: the destination entry; a result that is not DATA is not written (spec 07 R159, 12 R263). -/
def Fire.writeDest (fr : Fire) (r : Option Packet) (e : Elem) : Elem :=
  match r with
  | none => e
  | some p => if fr.f.dwe && (p.kind = kData || p.kind = kHdr) then e.setD fr.f.dd.toNat p.entry else e

/-- The element after a completed firing (spec 07 R159, steps 3 to 6). -/
def Fire.after (fr : Fire) (d : Done) : Elem :=
  let e := fr.pops d.popA d.popB (fr.writeDest d.res d.e)
  let e := match d.out with | none => e | some p => e.push fr.key d.om p d.dest
  { e with st := fr.nextSt d.stBit, busy := none }

/-- The changes of a completed firing. -/
def Fire.finish (fr : Fire) (d : Done) (s : State) : List Effect :=
  d.pre ++ [.elem fr.key (fr.after d), .move fr.key] ++ s.countErr fr.key d.errs

/-- The EPOL = 0 outcome of spec 06 R127: the ERR token replaces the result; with OM empty it is counted. -/
def Fire.errDone (fr : Fire) (cause detail : Nat) : Done :=
  { fr.plain with out := some (errToken fr.key fr.ctx fr.n 0 cause detail fr.f.ot), errs := if fr.f.om = 0 then 1 else 0 }

/-- The outcome of a firing whose result goes to a destination of the local port: an ERR token in its place goes there too; where the firing
names none, the token is counted instead (spec 06 R127, 12 R279, log 44). -/
def Fire.errTo (fr : Fire) (dest : Option PortDest) (o : Outc) : Outc :=
  match o with
  | .err c d =>
    if fr.epol then o
    else match dest with
      | some x => .done { fr.errDone c d with dest := x }
      | none => .done { fr.errDone c d with out := none, errs := 1 }
  | _ => o

/-- The trap of a firing (spec 17 R394, ORIG 0). -/
def Fire.trapInfo (fr : Fire) (cause : Nat) (detail : BitVec 128) : TrapInfo :=
  { cause := cause, orig := 0, slot := fr.n, ctx := fr.ctx, detail := detail }

/-- The ordering mode a firing runs under: the one that the element had adopted when it began (spec 15 R353). -/
def State.consOf (s : State) (key : Nat) (e : Elem) : Bool := if e.busy.isSome then e.cons else Map.get true s.consAt (coreOf key)

/-- The changes of a firing that ends so. -/
def Fire.settle (fr : Fire) (s : State) : Outc → List Effect
  | .done d => fr.finish d s
  | .err c det => if fr.epol then s.trapEffects fr.key (fr.trapInfo c (BitVec.ofNat 128 (det % 2 ^ 32))) else fr.finish (fr.errDone c det) s
  | .trap c det => s.trapEffects fr.key (fr.trapInfo c det)
  | .wait e l => l ++ [.elem fr.key { e with busy := some fr.n, left := 0, cons := s.consOf fr.key fr.e }]
  | .nothing => []

/-- Whether a slot can fire now: eligible under its guard, and `ready` unless its firing is in progress. -/
def State.canFire (s : State) (fr : Fire) (guard : Fire → Slot) (ready : Fire → State → Bool) : Bool :=
  s.eligible fr (guard fr) && (fr.e.busy = some fr.n || ready fr s)

/-- The changes of a slot that fires, if it can (spec 07 R162: otherwise it does nothing). -/
def fireProg (f : Slot) (guard : Fire → Slot) (ready : Fire → State → Bool) (g : Fire → State → Outc) : Prog := fun s =>
  match s.fireOf f with
  | none => []
  | some fr => if s.canFire fr guard ready then fr.settle s (g fr s) else []

/-- The guard as the slot gives it; no further condition. -/
def ownGuard (fr : Fire) : Slot := fr.f
def always (_ : Fire) (_ : State) : Bool := true

/-- The meaning of an element instruction from what its firing does. -/
def fire (f : Slot) (g : Fire → State → Outc) (s : State) : Host.Outcome State Fault Refusal :=
  complete (fireProg f ownGuard always g) s

/-- The same for an instruction that waits for more than R154 before it fires. -/
def fireWhen (f : Slot) (ready : Fire → State → Bool) (g : Fire → State → Outc) (s : State) : Host.Outcome State Fault Refusal :=
  complete (fireProg f ownGuard ready g) s

/-- The detail of a width error (spec 06 R121). -/
def widthDetail (want got : BitVec 2) : Nat := want.toNat * 4 + got.toNat

/-- Runs on with the operands if their widths fit and their lengths agree (spec 08 R184). -/
def Fire.checked (fr : Fire) (l : List Opnd) (k : Nat → Outc) : Outc :=
  match badWidth (fmtLw fr.fmt) l with
  | some p => .err 0x22 (widthDetail (fmtLw fr.fmt) p.lw)
  | none =>
    match outLen fr.w l with
    | none => .err 0x20 ((match l with | [_, _, c] => c.count * 256 | _ => 0)
        + ((l.getD 1 fr.opD).count % 16) * 16 + (l.getD 0 fr.opD).count % 16)
    | some n => k n

/-- Runs on with operand A, or both; a slot whose operand is missing does nothing (it is not eligible). -/
def State.withA (s : State) (fr : Fire) (k : Opnd → Outc) : Outc :=
  match s.opA fr with | some a => k a | none => .nothing
/-- Operand A whose constant has lanes of another width than the format's. -/
def State.withAAt (s : State) (fr : Fire) (w : Nat) (k : Opnd → Outc) : Outc :=
  match s.operandAt fr w fr.f.sa false with | some a => k a | none => .nothing
def State.withB (s : State) (fr : Fire) (k : Opnd → Outc) : Outc :=
  match s.opB fr with | some b => k b | none => .nothing
def State.withAB (s : State) (fr : Fire) (k : Opnd → Opnd → Outc) : Outc := s.withA fr (fun a => s.withB fr (fun b => k a b))

/-- Runs on if every operand has the slot's lane width (spec 08 R184, 12 R262). -/
def Fire.widthOk (fr : Fire) (l : List Opnd) (k : Outc) : Outc :=
  match badWidth (fmtLw fr.fmt) l with
  | some p => .err 0x22 (widthDetail (fmtLw fr.fmt) p.lw)
  | none => k

/-- The length error of an instruction that reads one packet (spec 10 R238): a limit in place of a length of B. -/
def lengthErr (limit lanes : Nat) : Outc := .err 0x20 (limit % 16 * 16 + lanes % 16)

/-- The outcome of an index out of range (spec 09 R189, 10 R232): lane mask and value. -/
def rangeErr (mask value : Nat) : Outc := .err 0x24 (mask % 256 * 2 ^ 24 + value % 2 ^ 24)

/-- A firing whose result is a plain DATA packet of lanes of the slot's width. -/
def Fire.lanesOut (fr : Fire) (l : List (Nat × Bool)) : Done := fr.result (dataPacket (fmtLw fr.fmt) fr.f.ot false l)

/-- The raw lanes of an operand's packet, with the poison of its header (spec 10 R221). -/
def Opnd.raw (o : Opnd) (i : Nat) : Nat × Bool := (o.pkt.lane i, o.pkt.laneP i || o.hdr.pois)
def Opnd.raws (o : Opnd) : List (Nat × Bool) := (List.range o.pkt.lanes).map o.raw
/-- The value lanes of an operand: of its entries in coordinate mode. -/
def Opnd.values (o : Opnd) : List (Nat × Bool) :=
  (List.range o.count).map (fun i => if o.pkt.crd then o.raw (2 * i + 1) else o.raw i)

/-- The integer of lane i of an operand read at its own width, unsigned, and its poison (spec 09 R187). -/
def Opnd.nat (o : Opnd) (i : Nat) : Nat := o.bl i
def Opnd.int (o : Opnd) (i : Nat) : Int := signExt o.pkt.width (o.bl i)

end Sys2Proof.Machine
end

