-- ==== Sys2Proof/Machine/Flags.lean ====
section
/-! DEFINITION. The lane-wise frame with its masks (spec 08 R184, 07 R163), and the state bits that compares write (07 R161). -/

namespace Sys2Proof.Machine

/-- What one lane of a lane-wise instruction reads: raw bits and poison of a, b and the destination entry, and the headers of a and b. -/
structure LaneIn where
  i : Nat
  a : Nat
  b : Nat
  c : Nat
  pa : Bool
  pb : Bool
  pc : Bool
  ha : BitVec 32
  hb : BitVec 32
  deriving DecidableEq, Repr

/-- The exact value of a lane under its header (spec 08 R182 `value`). -/
def LaneIn.va (x : LaneIn) (fmt : Nat) : Val := headerVal x.ha (elemVal fmt x.a)
def LaneIn.vb (x : LaneIn) (fmt : Nat) : Val := headerVal x.hb (elemVal fmt x.b)
def LaneIn.vc (x : LaneIn) (fmt : Nat) : Val := elemVal fmt x.c

/-- Whether lane i is computed, and whether a masked lane is zero (spec 07 R163). -/
def Fire.lanesMasked (fr : Fire) : Bool := fr.f.md.extractLsb' 2 2 ≠ 0#2
def Fire.active (fr : Fire) (masks : Bool) (i : Nat) : Bool :=
  !(masks && fr.lanesMasked) || maskBit (fr.imm 4 8) i
def Fire.zeroing (fr : Fire) : Bool := fr.f.md.extractLsb' 2 2 = 1#2

/-- What lane i reads from the operands. -/
def laneIn (a b c : Option Opnd) (i : Nat) : LaneIn :=
  let g (o : Option Opnd) : Nat := match o with | some o => o.bl i | none => 0
  let p (o : Option Opnd) : Bool := match o with | some o => o.bp i | none => false
  let h (o : Option Opnd) : BitVec 32 := match o with | some o => o.hdr.pay | none => HReg.neutral.pay
  { i := i, a := g a, b := g b, c := g c, pa := p a, pb := p b, pc := p c, ha := h a, hb := h b }

/-- The lanes of a lane-wise result in ascending order, the generator stepping once for each computed lane that rounds (spec 08 R184, 03 R67). -/
def laneLoop (fr : Fire) (masks steps : Bool) (a b c : Option Opnd) (fn : LaneIn → BitVec 32 → Nat × Bool) :
    List Nat → BitVec 32 → List (Nat × Bool) × BitVec 32
  | [], r => ([], r)
  | i :: l, r =>
    let x := laneIn a b c i
    if fr.active masks i then
      let r' := if steps && fr.rm = .sr then srNext r else r
      let rest := laneLoop fr masks steps a b c fn l r'
      (fn x r' :: rest.1, rest.2)
    else
      let rest := laneLoop fr masks steps a b c fn l r
      ((if fr.zeroing then (0, false) else (x.a, x.pa)) :: rest.1, rest.2)

/-- The coordinate lanes of operand A woven with value lanes (spec 06 R123). -/
def weave (a : Opnd) (l : List (Nat × Bool)) : List (Nat × Bool) :=
  l.zipIdx.flatMap (fun x =>
    let j := if a.count = 1 then 0 else x.2
    [(a.pkt.lane (2 * j), a.pkt.laneP (2 * j) || a.hdr.pois), x.1])

/-- A result packet of lanes of the slot's width: in coordinate mode with A's coordinates (spec 06 R123, 10 R221). -/
def Fire.pack (fr : Fire) (a : Option Opnd) (l : List (Nat × Bool)) : Packet :=
  match a with
  | some a => if a.pkt.crd then dataPacket (fmtLw fr.fmt) fr.f.ot true (weave a l) else dataPacket (fmtLw fr.fmt) fr.f.ot false l
  | none => dataPacket (fmtLw fr.fmt) fr.f.ot false l

/-- The lanes that an entry of the result holds: value lanes. -/
def optList (l : List (Option Opnd)) : List Opnd := l.filterMap id

/-- The frame of a lane-wise instruction over the operands it reads (spec 08 R184): `masks` for classes L and C, `steps` when each
computed lane rounds; fn gives the bits and poison of a lane. -/
def Fire.laneWise (fr : Fire) (a b c : Option Opnd) (masks steps : Bool) (fn : LaneIn → BitVec 32 → Nat × Bool)
    (k : List (Nat × Bool) → Packet → Done → Outc) : Outc :=
  fr.checked (optList [a, b, c]) (fun n =>
    let q := laneLoop fr masks steps a b c fn (List.range n) fr.e.rng
    let p := fr.pack a q.1
    let d := fr.result p
    k q.1 p { d with e := { d.e with rng := q.2 } })

/-- The meaning of a unary lane-wise instruction. -/
def unaryOp (f : Slot) (steps : Bool) (fn : Fire → LaneIn → BitVec 32 → Nat × Bool) (s : State) : Host.Outcome State Fault Refusal :=
  fire f (fun fr s => s.withA fr (fun a => fr.laneWise (some a) none none true steps (fn fr) (fun _ _ d => .done d))) s

/-- The meaning of a binary lane-wise instruction. -/
def binaryOp (f : Slot) (steps : Bool) (fn : Fire → LaneIn → BitVec 32 → Nat × Bool) (s : State) : Host.Outcome State Fault Refusal :=
  fire f (fun fr s => s.withAB fr (fun a b => fr.laneWise (some a) (some b) none true steps (fn fr) (fun _ _ d => .done d))) s

/-- The meaning of a lane-wise instruction that also reads its destination entry. -/
def ternaryOp (f : Slot) (steps : Bool) (fn : Fire → LaneIn → BitVec 32 → Nat × Bool) (s : State) : Host.Outcome State Fault Refusal :=
  fire f (fun fr s => s.withAB fr (fun a b => fr.laneWise (some a) (some b) (some fr.opD) true steps (fn fr) (fun _ _ d => .done d))) s

/-- The meaning of an instruction over all lanes of A alone, after the width test. -/
def oneOp (f : Slot) (g : Fire → State → Opnd → Outc) (s : State) : Host.Outcome State Fault Refusal :=
  fire f (fun fr s => s.withA fr (fun a => fr.widthOk [a] (g fr s a))) s

/-- The outcome bit of a compare (spec 07 R161): AND or OR over the lanes that take part. -/
def Fire.outcome (fr : Fire) (preds : List Bool) : Bool :=
  let on := (preds.zipIdx).filter (fun x => fr.active true x.2)
  if fr.md 1 then on.any (fun x => x.1) else on.all (fun x => x.1)

/-- The mask of lanes that take part and are poisoned (spec 07 R161, R164). -/
def Fire.poisonedLanes (fr : Fire) (l : List Bool) : Nat :=
  packFields ((l.zipIdx).map (fun x => (1, bit01 (x.1 && fr.active true x.2))))

/-- The meaning of a compare (spec 10 R227, 11 R246, 07 R161): a lane is all ones or zero by its predicate; MOD[0] writes a state bit after NS. -/
def compareOp (f : Slot) (pred : Fire → LaneIn → Bool) (s : State) : Host.Outcome State Fault Refusal :=
  fire f (fun fr s => s.withAB fr (fun a b =>
    fr.laneWise (some a) (some b) none true false (fun x _ => (if pred fr x then 2 ^ fr.w - 1 else 0, x.pa || x.pb)) (fun l _ d =>
      if fr.md 0 then
        let ins := (List.range l.length).map (laneIn (some a) (some b) none)
        let bad := fr.poisonedLanes (ins.map (fun x => x.pa || x.pb))
        let bit := some (fr.imm 13 3, fr.outcome (ins.map (pred fr)))
        if bad = 0 then .done { d with stBit := bit }
        else if fr.epol then .trap 0x23 (detailOf [(8, bad)])
        else .done { d with stBit := bit, errs := 1 }
      else .done d))) s

end Sys2Proof.Machine
end

