-- ==== Sys2Proof/Machine/Integer.lean ====
section
/-! DEFINITION. The integer, logic and lane instructions of vector elements (spec 10). -/

namespace Sys2Proof.Machine

/-- The signed and unsigned integers of w bits, and the integer of a lane under the slot's format (spec 10 R222). -/
def sInt (w x : Nat) : Int := signExt w x
def fInt (fr : Fire) (x : Nat) : Int := laneInt fr.fmt x

/-- A per-lane function that reads a alone, or a and b, whose lane is poisoned with what it reads (spec 10 R225, 03 R77). -/
def lane1 (g : Fire → Nat → Nat) (fr : Fire) (x : LaneIn) (_ : BitVec 32) : Nat × Bool := (g fr x.a, x.pa)
def lane2 (g : Fire → Nat → Nat → Nat) (fr : Fire) (x : LaneIn) (_ : BitVec 32) : Nat × Bool := (g fr x.a x.b, x.pa || x.pb)

/-- Bits of a lane, lowest first, and the number they make. -/
def bitsOf (w x : Nat) : List Bool := (List.range w).map (fun i => maskBit x i)
def ofBits (l : List Bool) : Nat := packFields (l.map (fun b => (1, bit01 b)))

/-- Leading and trailing zeros, population count, reversal of w bits (spec 10 R225). -/
def clzN (w x : Nat) : Nat := ((bitsOf w x).reverse.takeWhile (fun b => !b)).length
def ctzN (w x : Nat) : Nat := ((bitsOf w x).takeWhile (fun b => !b)).length
def popcN (w x : Nat) : Nat := ((bitsOf w x).filter (fun b => b)).length
def brevN (w x : Nat) : Nat := ofBits (bitsOf w x).reverse

/-- The per-lane functions of spec 10 R225. -/
def addLane (fr : Fire) (a b : Nat) : Nat := (a + b) % 2 ^ fr.w
def subLane (fr : Fire) (a b : Nat) : Nat := lowBits fr.w ((a : Int) - b)
def addsLane (fr : Fire) (a b : Nat) : Nat := lowBits fr.w (saturateInt fr.fmt (fInt fr a + fInt fr b))
def subsLane (fr : Fire) (a b : Nat) : Nat := lowBits fr.w (saturateInt fr.fmt (fInt fr a - fInt fr b))
def mulLane (fr : Fire) (a b : Nat) : Nat := a * b % 2 ^ fr.w
def mulhLane (fr : Fire) (a b : Nat) : Nat := lowBits fr.w ((sInt fr.w a * sInt fr.w b) / ((2 ^ fr.w : Nat) : Int))
def mulhnLane (fr : Fire) (a b : Nat) : Nat := a * b / 2 ^ fr.w
def absLane (fr : Fire) (a : Nat) : Nat :=
  let x : Int := ((fInt fr a).natAbs : Int)
  lowBits fr.w (if fr.md 0 then saturateInt fr.fmt x else x)
def negLane (fr : Fire) (a : Nat) : Nat :=
  let x : Int := -(fInt fr a)
  lowBits fr.w (if fr.md 0 then saturateInt fr.fmt x else x)
def minLane (fr : Fire) (a b : Nat) : Nat := if sInt fr.w b < sInt fr.w a then b else a
def maxLane (fr : Fire) (a b : Nat) : Nat := if sInt fr.w a < sInt fr.w b then b else a
def minnLane (_ : Fire) (a b : Nat) : Nat := Nat.min a b
def maxnLane (_ : Fire) (a b : Nat) : Nat := Nat.max a b
def andLane (_ : Fire) (a b : Nat) : Nat := a &&& b
def orLane (_ : Fire) (a b : Nat) : Nat := a ||| b
def xorLane (_ : Fire) (a b : Nat) : Nat := a ^^^ b
def andnLane (fr : Fire) (a b : Nat) : Nat := a &&& (2 ^ fr.w - 1 - b)
def shlLane (fr : Fire) (a b : Nat) : Nat := if b ≥ fr.w then 0 else a * 2 ^ b % 2 ^ fr.w
def shrLane (fr : Fire) (a b : Nat) : Nat := if b ≥ fr.w then 0 else a / 2 ^ b
def shaLane (fr : Fire) (a b : Nat) : Nat := lowBits fr.w (sInt fr.w a / ((2 ^ Nat.min b (fr.w - 1) : Nat) : Int))
def rolLane (fr : Fire) (a b : Nat) : Nat := a * 2 ^ (b % fr.w) % 2 ^ fr.w + a / 2 ^ (fr.w - b % fr.w)
def clzLane (fr : Fire) (a : Nat) : Nat := clzN fr.w a
def ctzLane (fr : Fire) (a : Nat) : Nat := ctzN fr.w a
def popcLane (fr : Fire) (a : Nat) : Nat := popcN fr.w a
def brevLane (fr : Fire) (a : Nat) : Nat := brevN fr.w a
def movLane (_ : Fire) (a : Nat) : Nat := a
def movhLane (fr : Fire) (a b : Nat) : Nat := a % 2 ^ (fr.w / 2) + b % 2 ^ (fr.w / 2) * 2 ^ (fr.w / 2)

/-- ADD (spec 10 R225). -/
def execAdd (f : Slot) (s : State) : Host.Outcome State Fault Refusal := binaryOp f false (lane2 addLane) s
/-- SUB (spec 10 R225). -/
def execSub (f : Slot) (s : State) : Host.Outcome State Fault Refusal := binaryOp f false (lane2 subLane) s
/-- ADDS (spec 10 R225). -/
def execAdds (f : Slot) (s : State) : Host.Outcome State Fault Refusal := binaryOp f false (lane2 addsLane) s
/-- SUBS (spec 10 R225). -/
def execSubs (f : Slot) (s : State) : Host.Outcome State Fault Refusal := binaryOp f false (lane2 subsLane) s
/-- MUL (spec 10 R225). -/
def execMul (f : Slot) (s : State) : Host.Outcome State Fault Refusal := binaryOp f false (lane2 mulLane) s
/-- MULH (spec 10 R225). -/
def execMulh (f : Slot) (s : State) : Host.Outcome State Fault Refusal := binaryOp f false (lane2 mulhLane) s
/-- MULHN (spec 10 R225). -/
def execMulhn (f : Slot) (s : State) : Host.Outcome State Fault Refusal := binaryOp f false (lane2 mulhnLane) s
/-- MADD (spec 10 R226). -/
def execMadd (f : Slot) (s : State) : Host.Outcome State Fault Refusal :=
  ternaryOp f false (fun fr x _ => ((x.c + x.a * x.b) % 2 ^ fr.w, x.pa || x.pb || x.pc)) s
/-- ABS (spec 10 R225). -/
def execAbs (f : Slot) (s : State) : Host.Outcome State Fault Refusal := unaryOp f false (lane1 absLane) s
/-- NEG (spec 10 R225). -/
def execNeg (f : Slot) (s : State) : Host.Outcome State Fault Refusal := unaryOp f false (lane1 negLane) s
/-- MIN (spec 10 R225). -/
def execMin (f : Slot) (s : State) : Host.Outcome State Fault Refusal := binaryOp f false (lane2 minLane) s
/-- MAX (spec 10 R225). -/
def execMax (f : Slot) (s : State) : Host.Outcome State Fault Refusal := binaryOp f false (lane2 maxLane) s
/-- MINN (spec 10 R225). -/
def execMinn (f : Slot) (s : State) : Host.Outcome State Fault Refusal := binaryOp f false (lane2 minnLane) s
/-- MAXN (spec 10 R225). -/
def execMaxn (f : Slot) (s : State) : Host.Outcome State Fault Refusal := binaryOp f false (lane2 maxnLane) s
/-- AND (spec 10 R225). -/
def execAnd (f : Slot) (s : State) : Host.Outcome State Fault Refusal := binaryOp f false (lane2 andLane) s
/-- OR (spec 10 R225). -/
def execOr (f : Slot) (s : State) : Host.Outcome State Fault Refusal := binaryOp f false (lane2 orLane) s
/-- XOR (spec 10 R225). -/
def execXor (f : Slot) (s : State) : Host.Outcome State Fault Refusal := binaryOp f false (lane2 xorLane) s
/-- ANDN (spec 10 R225). -/
def execAndn (f : Slot) (s : State) : Host.Outcome State Fault Refusal := binaryOp f false (lane2 andnLane) s
/-- SHL (spec 10 R225). -/
def execShl (f : Slot) (s : State) : Host.Outcome State Fault Refusal := binaryOp f false (lane2 shlLane) s
/-- SHR (spec 10 R225). -/
def execShr (f : Slot) (s : State) : Host.Outcome State Fault Refusal := binaryOp f false (lane2 shrLane) s
/-- SHA (spec 10 R225). -/
def execSha (f : Slot) (s : State) : Host.Outcome State Fault Refusal := binaryOp f false (lane2 shaLane) s
/-- ROL (spec 10 R225). -/
def execRol (f : Slot) (s : State) : Host.Outcome State Fault Refusal := binaryOp f false (lane2 rolLane) s
/-- CLZ (spec 10 R225). -/
def execClz (f : Slot) (s : State) : Host.Outcome State Fault Refusal := unaryOp f false (lane1 clzLane) s
/-- CTZ (spec 10 R225). -/
def execCtz (f : Slot) (s : State) : Host.Outcome State Fault Refusal := unaryOp f false (lane1 ctzLane) s
/-- POPC (spec 10 R225). -/
def execPopc (f : Slot) (s : State) : Host.Outcome State Fault Refusal := unaryOp f false (lane1 popcLane) s
/-- BREV (spec 10 R225). -/
def execBrev (f : Slot) (s : State) : Host.Outcome State Fault Refusal := unaryOp f false (lane1 brevLane) s
/-- MOV (spec 10 R225). -/
def execMov (f : Slot) (s : State) : Host.Outcome State Fault Refusal := unaryOp f false (lane1 movLane) s
/-- MOVH (spec 10 R225). -/
def execMovh (f : Slot) (s : State) : Host.Outcome State Fault Refusal := binaryOp f false (lane2 movhLane) s

/-- CMPEQ (spec 10 R227). -/
def execCmpeq (f : Slot) (s : State) : Host.Outcome State Fault Refusal := compareOp f (fun _ x => x.a = x.b) s
/-- CMPNE (spec 10 R227). -/
def execCmpne (f : Slot) (s : State) : Host.Outcome State Fault Refusal := compareOp f (fun _ x => x.a ≠ x.b) s
/-- CMPLT (spec 10 R227): signed. -/
def execCmplt (f : Slot) (s : State) : Host.Outcome State Fault Refusal := compareOp f (fun fr x => decide (sInt fr.w x.a < sInt fr.w x.b)) s
/-- CMPLTN (spec 10 R227): unsigned. -/
def execCmpltn (f : Slot) (s : State) : Host.Outcome State Fault Refusal := compareOp f (fun _ x => decide (x.a < x.b)) s
/-- CMPLE (spec 10 R227): signed. -/
def execCmple (f : Slot) (s : State) : Host.Outcome State Fault Refusal := compareOp f (fun fr x => decide (sInt fr.w x.a ≤ sInt fr.w x.b)) s
/-- CMPLEN (spec 10 R227): unsigned. -/
def execCmplen (f : Slot) (s : State) : Host.Outcome State Fault Refusal := compareOp f (fun _ x => decide (x.a ≤ x.b)) s

/-- A whole operand as a result: its bits, length, poison and CRD (spec 10 R228, R221). -/
def Opnd.whole (o : Opnd) (tag : BitVec 3) : Packet :=
  { o.pkt with tag := tag, pois := if o.hdr.pois then BitVec.ofNat 8 (2 ^ o.pkt.lanes - 1) else o.pkt.pois }

/-- SEL in state mode (spec 10 R228): only the selected operand is read. -/
def execSel (f : Slot) (s : State) : Host.Outcome State Fault Refusal :=
  fire f (fun fr s =>
    match if fr.e.st.getLsbD (fr.imm 13 3) then s.opA fr else s.opB fr with
    | none => .nothing
    | some o => fr.widthOk [o] (.done (fr.result (o.whole fr.f.ot)))) s

/-- SEL in lane mode (spec 10 R228). -/
def execSelLane (f : Slot) (s : State) : Host.Outcome State Fault Refusal :=
  ternaryOp f false (fun _ x _ => if x.c ≠ 0 then (x.a, x.pa || x.pc) else (x.b, x.pb || x.pc)) s

/-- The most lanes a packet of the slot's width holds (spec 06 R119). -/
def Fire.most (fr : Fire) : Nat := maxLanes fr.w

/-- Position and length of BFX and BFI (spec 10 R229). -/
def Fire.bfPos (fr : Fire) : Nat := fr.imm 4 6
def Fire.bfLen (fr : Fire) : Nat := fr.imm 10 6 + 1

/-- BFX (spec 10 R229). -/
def execBfx (f : Slot) (s : State) : Host.Outcome State Fault Refusal :=
  fire f (fun fr s => s.withA fr (fun a => fr.laneWise (some a) none none false false (fun x _ =>
    let y := bits x.a fr.bfPos fr.bfLen
    (if fr.md 0 then lowBits fr.w (signExt fr.bfLen y) else y, x.pa)) (fun _ _ d => .done d))) s

/-- BFI (spec 10 R229). -/
def execBfi (f : Slot) (s : State) : Host.Outcome State Fault Refusal :=
  fire f (fun fr s => s.withAB fr (fun a b => fr.laneWise (some a) (some b) none false false (fun x _ =>
    let p := fr.bfPos
    let l := fr.bfLen
    (x.a % 2 ^ p + x.b % 2 ^ l * 2 ^ p + x.a / 2 ^ (p + l) * 2 ^ (p + l), x.pa || x.pb)) (fun _ _ d => .done d))) s

/-- MOVI (spec 10 R231). -/
def execMovi (f : Slot) (s : State) : Host.Outcome State Fault Refusal :=
  fire f (fun fr s => s.withA fr (fun a => fr.laneWise (some a) none none false false (fun x _ =>
    let p := 16 * (fr.f.md.toNat % 4)
    (x.a % 2 ^ p + fr.f.imm.toNat * 2 ^ p + x.a / 2 ^ (p + 16) * 2 ^ (p + 16), x.pa)) (fun _ _ d => .done d))) s

/-- BITI (spec 10 R230). -/
def execBiti (f : Slot) (s : State) : Host.Outcome State Fault Refusal :=
  oneOp f (fun fr _ a =>
    let g := 2 + bit01 (fr.md 0)
    let m := fr.imm 4 5
    let n := a.pkt.lanes
    if n % g ≠ 0 then lengthErr g n
    else .done (fr.lanesOut ((List.range (n / g)).map (fun k =>
      (ofBits ((List.range (g * m)).map (fun p => maskBit (a.raw (k * g + p % g)).1 (p / g))),
       (List.range g).any (fun j => (a.raw (k * g + j)).2)))))) s

/-- BITD (spec 10 R230). -/
def execBitd (f : Slot) (s : State) : Host.Outcome State Fault Refusal :=
  oneOp f (fun fr _ a =>
    let g := 2 + bit01 (fr.md 0)
    let m := fr.imm 4 5
    let n := a.pkt.lanes
    if n * g > fr.most then lengthErr (fr.most / g) n
    else .done (fr.lanesOut ((List.range n).flatMap (fun k => (List.range g).map (fun j =>
      (ofBits ((List.range m).map (fun i => maskBit (a.raw k).1 (i * g + j))), (a.raw k).2)))))) s

/-- MOVX in register mode (spec 10 R232). -/
def execMovx (f : Slot) (s : State) : Host.Outcome State Fault Refusal :=
  oneOp f (fun fr _ a =>
    let x := (a.raw 0).1
    if (a.raw 0).2 then .done (fr.lanesOut [(0, true)])
    else if x > 3 then rangeErr 1 x
    else
      let p := (fr.e.dReg x).packet fr.f.ot
      fr.widthOk [{ pkt := p, hdr := HReg.neutral, isConst := false, fixed := false }] (.done (fr.result p))) s

/-- MOVX in lane mode (spec 10 R232). -/
def execMovxLane (f : Slot) (s : State) : Host.Outcome State Fault Refusal :=
  fire f (fun fr s => s.withAB fr (fun a b => fr.widthOk [a, b] (
    let x := (a.raw 0).1
    if (a.raw 0).2 then .done (fr.lanesOut [(0, true)])
    else if x ≥ b.pkt.lanes then rangeErr 1 x
    else .done (fr.lanesOut [b.raw x])))) s

/-- MOVXW in register mode (spec 10 R232): the entry named by the index is written in place of d0. -/
def execMovxw (f : Slot) (s : State) : Host.Outcome State Fault Refusal :=
  fire f (fun fr s => s.withAB fr (fun a b => fr.widthOk [a, b] (
    let x := (a.raw 0).1
    let p := { b.whole fr.f.ot with crd := false }
    let d := { fr.plain with out := some (fr.outPacket p) }
    if (a.raw 0).2 then .done { d with errs := 1 }
    else if x > 3 then rangeErr 1 x
    else .done { d with e := fr.e.setD x p.entry }))) s

/-- MOVXW in lane mode (spec 10 R232). -/
def execMovxwLane (f : Slot) (s : State) : Host.Outcome State Fault Refusal :=
  fire f (fun fr s => s.withAB fr (fun a b => fr.widthOk [a, b, fr.opD] (
    let x := (a.raw 0).1
    if (a.raw 0).2 then .done { fr.plain with out := some (fr.outPacket { b.whole fr.f.ot with crd := false }), errs := 1 }
    else if x ≥ fr.opD.pkt.lanes then rangeErr 1 x
    else .done (fr.lanesOut (listSet fr.opD.raws x (b.raw 0)))))) s

/-- SHUF (spec 10 R233). -/
def execShuf (f : Slot) (s : State) : Host.Outcome State Fault Refusal :=
  oneOp f (fun fr _ a => .done (fr.lanesOut ((List.range a.pkt.lanes).map (fun i =>
    let j := 4 * ((i / 4) ^^^ bit01 (fr.md 0)) + bits fr.f.imm.toNat (2 * i) 2
    if j < a.pkt.lanes then a.raw j else (0, false))))) s

/-- BCAST (spec 10 R234). -/
def execBcast (f : Slot) (s : State) : Host.Outcome State Fault Refusal :=
  oneOp f (fun fr _ a =>
    let t := fr.imm 4 3
    if t ≥ a.pkt.lanes then lengthErr (t + 1) a.pkt.lanes
    else .done (fr.lanesOut (List.replicate (fr.imm 7 3 + 1) (a.raw t)))) s

/-- EXTL (spec 10 R234). -/
def execExtl (f : Slot) (s : State) : Host.Outcome State Fault Refusal :=
  oneOp f (fun fr _ a =>
    let t := fr.imm 4 3
    if t ≥ a.pkt.lanes then lengthErr (t + 1) a.pkt.lanes else .done (fr.lanesOut [a.raw t])) s

/-- INSL (spec 10 R234). -/
def execInsl (f : Slot) (s : State) : Host.Outcome State Fault Refusal :=
  fire f (fun fr s => s.withAB fr (fun a b => fr.widthOk [a, b] (
    let t := fr.imm 4 3
    if t ≥ a.pkt.lanes then lengthErr (t + 1) a.pkt.lanes
    else .done (fr.lanesOut (listSet a.raws t (b.raw 0)))))) s

/-- LEN (spec 10 R235): no width test, an unpoisoned lane. -/
def execLen (f : Slot) (s : State) : Host.Outcome State Fault Refusal :=
  fire f (fun fr s => s.withA fr (fun a => .done (fr.lanesOut [(a.pkt.lanes, false)]))) s

/-- SETLEN (spec 10 R235). -/
def execSetlen (f : Slot) (s : State) : Host.Outcome State Fault Refusal :=
  oneOp f (fun fr _ a => .done (fr.lanesOut ((List.range (fr.imm 4 3 + 1)).map (fun i =>
    if i < a.pkt.lanes then a.raw i else (0, false))))) s

/-- Pairs of consecutive elements, the last alone if they are odd. -/
def pairUp : List (Nat × Bool) → List (Nat × Bool)
  | [] => []
  | [x] => [(x.1, x.2)]
  | x :: y :: l => (x.1 + 16 * y.1, x.2 || y.2) :: pairUp l

/-- PACK (spec 10 R236). -/
def execPack (f : Slot) (s : State) : Host.Outcome State Fault Refusal :=
  oneOp f (fun fr _ a =>
    let f2 := fr.imm 4 5
    let y := a.raws.map (fun x =>
      let i := fInt fr x.1
      (lowBits (elemBits f2) (if fr.md 0 then saturateInt f2 i else i), x.2))
    .done (fr.result (dataPacket (fmtLw f2) fr.f.ot false (if f2 = 14 then pairUp y else y)))) s

/-- UNPK (spec 10 R236): the width test is against the second format, whose width a constant A takes (07 R147). -/
def execUnpk (f : Slot) (s : State) : Host.Outcome State Fault Refusal :=
  fire f (fun fr s => s.withAAt fr (lwBits (fmtLw (fr.imm 4 5))) (fun a =>
    let f2 := fr.imm 4 5
    let n := a.pkt.lanes
    match badWidth (fmtLw f2) [a] with
    | some p => .err 0x22 (widthDetail (fmtLw f2) p.lw)
    | none =>
      if f2 = 14 then
        if 2 * n > fr.most then lengthErr (fr.most / 2) n
        else .done (fr.lanesOut (a.raws.flatMap (fun x =>
          [(lowBits fr.w (signExt 4 x.1), x.2), (lowBits fr.w (signExt 4 (x.1 / 16)), x.2)])))
      else if n > fr.most then lengthErr fr.most n
      else .done (fr.lanesOut (a.raws.map (fun x => (lowBits fr.w (laneInt f2 x.1), x.2)))))) s

/-- The sum of lanes, reduced or saturated (spec 10 R237). -/
def sumLanes (fr : Fire) (sat : Bool) (l : List (Nat × Bool)) : Nat × Bool :=
  let x := (l.map (fun y => fInt fr y.1)).foldl (· + ·) 0
  (lowBits fr.w (if sat then saturateInt fr.fmt x else x), l.any (fun y => y.2))

/-- REDA (spec 10 R237). -/
def execReda (f : Slot) (s : State) : Host.Outcome State Fault Refusal :=
  oneOp f (fun fr _ a => .done (fr.lanesOut [sumLanes fr (fr.md 0) a.values])) s

/-- The operations of REDM (spec 10 R237). -/
def redmPick (fr : Fire) (x y : Nat) : Nat :=
  match fr.f.md.toNat % 4 with
  | 0 => minLane fr x y
  | 1 => maxLane fr x y
  | 2 => Nat.min x y
  | _ => Nat.max x y

/-- REDM (spec 10 R237). -/
def execRedm (f : Slot) (s : State) : Host.Outcome State Fault Refusal :=
  oneOp f (fun fr _ a =>
    match a.values with
    | [] => .nothing
    | x :: l => .done (fr.lanesOut [((l.map (fun y => y.1)).foldl (redmPick fr) x.1, (x :: l).any (fun y => y.2))])) s

/-- SCANA (spec 10 R237): a coordinate-mode result keeps A's coordinates. -/
def execScana (f : Slot) (s : State) : Host.Outcome State Fault Refusal :=
  oneOp f (fun fr _ a =>
    let l := a.values
    let out := (List.range l.length).map (fun i => sumLanes fr (fr.md 1) (l.take (if fr.md 0 then i else i + 1)))
    .done (fr.result (if a.pkt.crd then dataPacket (fmtLw fr.fmt) fr.f.ot true (weave { a with pkt := { a.pkt with crd := true } } out)
                      else dataPacket (fmtLw fr.fmt) fr.f.ot false out))) s

end Sys2Proof.Machine
end

