-- ==== Sys2Proof/Machine/Float.lean ====
section
/-! DEFINITION. The floating-point and alignment instructions of vector elements (spec 11 R240 to R251). -/

namespace Sys2Proof.Machine

/-- ρ of spec 11 R244: `round_to(·, FMT, RM)` with the generator's draw. -/
def Fire.rho (fr : Fire) (r : BitVec 32) (v : Val) : Nat := roundElem fr.fmt fr.rm r v

/-- A per-lane float function that reads a alone, or a and b; the lane is poisoned with what it reads (spec 11 R241, R244). -/
def flane1 (g : Fire → BitVec 32 → Val → Nat) (fr : Fire) (x : LaneIn) (r : BitVec 32) : Nat × Bool := (g fr r (x.va fr.fmt), x.pa)
def flane2 (g : Fire → BitVec 32 → Val → Val → Nat) (fr : Fire) (x : LaneIn) (r : BitVec 32) : Nat × Bool :=
  (g fr r (x.va fr.fmt) (x.vb fr.fmt), x.pa || x.pb)

/-- The smaller and the larger value with −0 < +0; the operand that is not NaN if one is (spec 11 R244). -/
def leastVal (a b : Val) : Val :=
  if a.isNan then b else if b.isNan then a
  else if Val.lt a b then a else if Val.lt b a then b else if a.neg? then a else b
def mostVal (a b : Val) : Val :=
  if a.isNan then b else if b.isNan then a
  else if Val.lt a b then b else if Val.lt b a then a else if a.neg? then b else a

/-- FRND: a on the integer grid in mode RM (spec 11 R244). -/
def frndVal (rm : RMode) (r : BitVec 32) : Val → Val
  | .fin neg m e => if m = 0 then .fin neg 0 0 else .fin neg (if 0 ≤ e then m * 2 ^ (Int.toNat (min e 400)) else roundMag rm r neg m e 0) 0
  | v => v

/-- FEXPT: expo(a) − 1 (spec 11 R244). -/
def fexptVal : Val → Val
  | .fin _ m e => if m = 0 then .inf true else Val.ofInt (expoOf m e - 1) 0
  | .inf _ => .inf false
  | .nan => .nan

/-- FCLASS of stored bits (spec 11 R244). -/
def fclass (fmt x : Nat) : Nat :=
  let m := fmtMant fmt
  let e := (x / 2 ^ m) % 2 ^ fmtExpBits fmt
  match floatVal fmt x with
  | .nan => 8
  | .inf n => if n then 0 else 7
  | .fin n mag _ => if mag = 0 then (if n then 3 else 4) else if e = 0 then (if n then 2 else 5) else (if n then 1 else 6)

/-- The reciprocal estimate before ρ (spec 11 R248). -/
def frcpeVal : Val → Val
  | .nan => .nan
  | .inf n => .fin n 0 0
  | .fin n m e =>
    if m = 0 then .inf n
    else
      let l := Nat.log2 m
      let i := (m - 2 ^ l) * 128 / 2 ^ l
      let d := 257 + 2 * i
      .fin n ((2 * 131072 + d) / (2 * d)) (-((l : Int) + e) - 9)

/-- The integer square root below 2^11. -/
def isqrt (x : Nat) : Nat :=
  [1024, 512, 256, 128, 64, 32, 16, 8, 4, 2, 1].foldl (fun r b => if (r + b) * (r + b) ≤ x then r + b else r) 0

/-- The reciprocal square-root estimate before ρ (spec 11 R249): S is the integer nearest to 512 / √midpoint. -/
def frsqeVal : Val → Val
  | .nan => .nan
  | .inf n => if n then .nan else .fin false 0 0
  | .fin n m e =>
    if m = 0 then .inf n
    else if n then .nan
    else
      let l := Nat.log2 m
      let x := (l : Int) + e
      let t := (m - 2 ^ l) * 64 / 2 ^ l
      let even := x % 2 = 0
      let k := if even then x else x - 1
      let q := 4 * 262144 * (if even then 128 else 64) / (129 + 2 * t)
      .fin false ((isqrt q + 1) / 2) (-9 - k / 2)

/-- FADD (spec 11 R244). -/
def execFadd (f : Slot) (s : State) : Host.Outcome State Fault Refusal :=
  binaryOp f true (flane2 (fun fr r a b => fr.rho r (Val.add fr.rm a b))) s
/-- FSUB (spec 11 R244). -/
def execFsub (f : Slot) (s : State) : Host.Outcome State Fault Refusal :=
  binaryOp f true (flane2 (fun fr r a b => fr.rho r (Val.add fr.rm a b.negate))) s
/-- FMUL (spec 11 R244). -/
def execFmul (f : Slot) (s : State) : Host.Outcome State Fault Refusal :=
  binaryOp f true (flane2 (fun fr r a b => fr.rho r (Val.mul a b))) s

/-- The fused forms: sign of the product and of c (spec 11 R245). -/
def fusedOp (f : Slot) (np nc : Bool) (s : State) : Host.Outcome State Fault Refusal :=
  ternaryOp f true (fun fr x r =>
    let p := Val.mul (x.va fr.fmt) (x.vb fr.fmt)
    let c := x.vc fr.fmt
    (fr.rho r (Val.add fr.rm (if np then p.negate else p) (if nc then c.negate else c)), x.pa || x.pb || x.pc)) s
/-- FFMA (spec 11 R245). -/
def execFfma (f : Slot) (s : State) : Host.Outcome State Fault Refusal := fusedOp f false false s
/-- FFMS (spec 11 R245). -/
def execFfms (f : Slot) (s : State) : Host.Outcome State Fault Refusal := fusedOp f false true s
/-- FNMA (spec 11 R245). -/
def execFnma (f : Slot) (s : State) : Host.Outcome State Fault Refusal := fusedOp f true false s

/-- FMIN (spec 11 R244). -/
def execFmin (f : Slot) (s : State) : Host.Outcome State Fault Refusal := binaryOp f true (flane2 (fun fr r a b => fr.rho r (leastVal a b))) s
/-- FMAX (spec 11 R244). -/
def execFmax (f : Slot) (s : State) : Host.Outcome State Fault Refusal := binaryOp f true (flane2 (fun fr r a b => fr.rho r (mostVal a b))) s
/-- FABS (spec 11 R244). -/
def execFabs (f : Slot) (s : State) : Host.Outcome State Fault Refusal := unaryOp f true (flane1 (fun fr r a => fr.rho r a.abs)) s
/-- FNEG (spec 11 R244). -/
def execFneg (f : Slot) (s : State) : Host.Outcome State Fault Refusal := unaryOp f true (flane1 (fun fr r a => fr.rho r a.negate)) s
/-- FCPYS (spec 11 R244): the magnitude of a with the sign bit of b's stored bits; a NaN stays canonical. -/
def execFcpys (f : Slot) (s : State) : Host.Outcome State Fault Refusal :=
  binaryOp f true (fun fr x r =>
    let v := x.va fr.fmt
    let y := fr.rho r v.abs
    (if v.isNan then y else y % 2 ^ (fr.w - 1) + x.b / 2 ^ (fr.w - 1) * 2 ^ (fr.w - 1), x.pa || x.pb)) s

/-- FCMPEQ (spec 11 R246). -/
def execFcmpeq (f : Slot) (s : State) : Host.Outcome State Fault Refusal :=
  compareOp f (fun fr x => Val.eqv (x.va fr.fmt) (x.vb fr.fmt)) s
/-- FCMPLT (spec 11 R246). -/
def execFcmplt (f : Slot) (s : State) : Host.Outcome State Fault Refusal :=
  compareOp f (fun fr x => Val.lt (x.va fr.fmt) (x.vb fr.fmt)) s
/-- FCMPLE (spec 11 R246). -/
def execFcmple (f : Slot) (s : State) : Host.Outcome State Fault Refusal :=
  compareOp f (fun fr x => Val.le (x.va fr.fmt) (x.vb fr.fmt)) s
/-- FCMPUN (spec 11 R246). -/
def execFcmpun (f : Slot) (s : State) : Host.Outcome State Fault Refusal :=
  compareOp f (fun fr x => (x.va fr.fmt).isNan || (x.vb fr.fmt).isNan) s
/-- FCLASS (spec 11 R244): stored bits, no header, no step of s. -/
def execFclass (f : Slot) (s : State) : Host.Outcome State Fault Refusal :=
  unaryOp f false (fun fr x _ => (fclass fr.fmt x.a, x.pa)) s

/-- FRND (spec 11 R244): the integer takes its place in FMT by the same mode and draw (R241). -/
def execFrnd (f : Slot) (s : State) : Host.Outcome State Fault Refusal :=
  unaryOp f true (flane1 (fun fr r a => fr.rho r (frndVal fr.rm r a))) s
/-- FRCPE (spec 11 R248). -/
def execFrcpe (f : Slot) (s : State) : Host.Outcome State Fault Refusal := unaryOp f true (flane1 (fun fr r a => fr.rho r (frcpeVal a))) s
/-- FRSQE (spec 11 R249). -/
def execFrsqe (f : Slot) (s : State) : Host.Outcome State Fault Refusal := unaryOp f true (flane1 (fun fr r a => fr.rho r (frsqeVal a))) s
/-- FSCL (spec 11 R244): b is read as a signed integer of the lane width. -/
def execFscl (f : Slot) (s : State) : Host.Outcome State Fault Refusal :=
  binaryOp f true (fun fr x r => (fr.rho r ((x.va fr.fmt).scale (signExt fr.w x.b)), x.pa || x.pb)) s
/-- FEXPT (spec 11 R244). -/
def execFexpt (f : Slot) (s : State) : Host.Outcome State Fault Refusal := unaryOp f true (flane1 (fun fr r a => fr.rho r (fexptVal a))) s

/-- The elements of an operand in a format, in lane order, two per lane of a pair format: bits, and the lane's poison (spec 11 R247). -/
def Opnd.elements (o : Opnd) (fmt : Nat) : List (Nat × Bool) :=
  if fmtIsPair fmt then o.raws.flatMap (fun x => [(x.1 % 16, x.2), (x.1 / 16 % 16, x.2)]) else o.raws

/-- The value of an element of an operand under its header. -/
def Opnd.value (o : Opnd) (fmt x : Nat) : Val := headerVal o.hdr.pay (elemVal fmt x)

/-- The draws of the generator for n results in order, and its state after them (spec 03 R67). -/
def draws (rm : RMode) : Nat → BitVec 32 → List (BitVec 32) × BitVec 32
  | 0, s => ([], s)
  | n + 1, s =>
    let s' := if rm = .sr then srNext s else s
    let q := draws rm n s'
    (s' :: q.1, q.2)

/-- Rounds a list of values in order, each a result of its own, with poison; and the generator after it. -/
def Fire.roundAll (fr : Fire) (fmt : Nat) (l : List (Val × Bool)) : List (Nat × Bool) × BitVec 32 :=
  let d := draws fr.rm l.length fr.e.rng
  ((l.zip d.1).map (fun x => (roundElem fmt fr.rm x.2 x.1.1, x.1.2)), d.2)

/-- A firing with lanes of the slot's width and the generator as the rounding left it. -/
def Fire.lanesRng (fr : Fire) (l : List (Nat × Bool)) (rng : BitVec 32) : Done :=
  let d := fr.lanesOut l
  { d with e := { d.e with rng := rng } }

/-- The conversions FCVT, FCVTI and ICVTF (spec 11 R247): a constant A has lanes of the second format's width (07 R147). Under SR the generator
steps once for each element rounded, so twice for a lane of an E2M1 pair (log 45). -/
def convertOp (f : Slot) (s : State) : Host.Outcome State Fault Refusal :=
  fire f (fun fr s => s.withAAt fr (lwBits (fmtLw (fr.imm 4 5))) (fun a =>
    let f2 := fr.imm 4 5
    match badWidth (fmtLw f2) [a] with
    | some p => .err 0x22 (widthDetail (fmtLw f2) p.lw)
    | none =>
      let xs := a.elements f2
      let pairOut := fr.fmt = 13
      let nout := if pairOut then (xs.length + 1) / 2 else xs.length
      if nout > fr.most then lengthErr (if fmtIsPair f2 then fr.most / 2 else fr.most) a.pkt.lanes
      else
        let q := fr.roundAll fr.fmt (xs.map (fun x => (a.value f2 x.1, x.2)))
        .done (fr.lanesRng (if pairOut then pairUp q.1 else q.1) q.2))) s
/-- FCVT (spec 11 R247). -/
def execFcvt (f : Slot) (s : State) : Host.Outcome State Fault Refusal := convertOp f s
/-- FCVTI (spec 11 R247). -/
def execFcvti (f : Slot) (s : State) : Host.Outcome State Fault Refusal := convertOp f s
/-- ICVTF (spec 11 R247). -/
def execIcvtf (f : Slot) (s : State) : Host.Outcome State Fault Refusal := convertOp f s

/-- FREDA (spec 11 R250). -/
def execFreda (f : Slot) (s : State) : Host.Outcome State Fault Refusal :=
  oneOp f (fun fr _ a =>
    let v := Val.sum fr.rm (a.values.map (fun x => a.value fr.fmt x.1))
    let q := fr.roundAll fr.fmt [(v, a.values.any (fun x => x.2))]
    .done (fr.lanesRng q.1 q.2)) s

/-- FDOT (spec 11 R250). -/
def execFdot (f : Slot) (s : State) : Host.Outcome State Fault Refusal :=
  fire f (fun fr s => s.withAB fr (fun a b => fr.widthOk ([a, b] ++ (if fr.md 0 then [fr.opD] else [])) (fr.checked [a, b] (fun n =>
    let terms := (List.range n).map (fun i => Val.mul (a.value fr.fmt (a.bl i)) (b.value fr.fmt (b.bl i)))
    let pois := (List.range n).any (fun i => a.bp i || b.bp i)
    let c := fr.opD
    let terms := if fr.md 0 then terms ++ [elemVal fr.fmt (c.bl 0)] else terms
    let q := fr.roundAll fr.fmt [(Val.sum fr.rm terms, pois || (fr.md 0 && c.bp 0))]
    .done (fr.lanesRng q.1 q.2))))) s

/-- Serial width of an A format (spec 03 R69). -/
def serialWidth (fmt : Nat) : Nat := match fmt with | 9 => 16 | 10 => 16 | 13 => 5 | 14 => 4 | _ => 8

/-- expo of a finite nonzero value. -/
def valExpo : Val → Option Int
  | .fin _ m e => if m = 0 then none else some (expoOf m e)
  | _ => none

/-- FALGN in exponent mode (spec 11 R251). -/
def execFalgnExp (f : Slot) (s : State) : Host.Outcome State Fault Refusal :=
  oneOp f (fun fr _ a =>
    let xs := a.elements fr.fmt
    let e := match xs.filterMap (fun x => valExpo (a.value fr.fmt x.1)) with | [] => 0 | x :: l => l.foldl max x
    .done (fr.lanesOut [(lowBits fr.w e, xs.any (fun x => x.2))])) s

/-- One element of FALGN's data mode (spec 11 R251): the bits with poison, or none when it is out of range. -/
def alignElem (fmt : Nat) (v : Val) (pois bPois : Bool) (e : Int) : Option (Nat × Bool) :=
  let w := serialWidth fmt
  match v with
  | .nan => some (0, true)
  | .inf _ => some (0, true)
  | .fin neg m x =>
    if m ≠ 0 ∧ expoOf m x > e then (if pois || bPois then some (0, true) else none)
    else
      let a := alignInt (.fin neg m x) e w
      some (if fmt = 13 then a.natAbs % 16 + (if neg then 16 else 0) else lowBits (fmtWidth fmt) a, pois || bPois)

/-- FALGN in data mode (spec 11 R251). -/
def execFalgn (f : Slot) (s : State) : Host.Outcome State Fault Refusal :=
  fire f (fun fr s => s.withAB fr (fun a b => fr.widthOk [a] (
    let e := b.int 0
    let xs := a.elements fr.fmt
    if xs.length > 8 then lengthErr 4 a.pkt.lanes
    else
      let ys := xs.map (fun x => alignElem fr.fmt (a.value fr.fmt x.1) x.2 (b.bp 0) e)
      let bad := packFields (ys.map (fun y => (1, bit01 y.isNone)))
      if bad ≠ 0 then rangeErr bad (lowBits 24 e)
      else .done (fr.lanesOut (ys.map (fun y => y.getD (0, true))))))) s

/-- FALGN in header mode (spec 11 R251): an MX block header. -/
def execFalgnHdr (f : Slot) (s : State) : Host.Outcome State Fault Refusal :=
  fire f (fun fr s => s.withB fr (fun b =>
    let e := b.int 0
    let sc := e - serialWidth fr.fmt + 128
    if !b.bp 0 && decide (sc < 0 ∨ 254 < sc) then rangeErr 1 (lowBits 24 e)
    else
      let sc := (min (max sc 0) 254).toNat
      let pay := sc * 8 + fr.imm 8 8 * 2 ^ 11 + fr.imm 7 1 * 2 ^ 19
      .done { fr.plain with out := some (hdrPacket pay (b.bp 0) fr.f.ot) })) s

end Sys2Proof.Machine
end

