-- ==== Sys2Proof/Machine/Token.lean ====
section
/-! DEFINITION. The token, control and system instructions (spec 12 R262 to R287), but DELTA, which Machine/Scratch.lean holds. -/

namespace Sys2Proof.Machine

/-- Whether a head counts as DATA: DATA, or an HDR shown as DATA (spec 06 R130). -/
def Packet.isData (p : Packet) : Bool := p.kind = kData || p.kind = kHdr

/-- A firing that passes a packet (spec 12 R263). -/
def Fire.passes (fr : Fire) (p : Packet) : Done := { fr.plain with res := some p, out := some p }

/-- NOP (spec 12 R267). -/
def execNop (f : Slot) (s : State) : Host.Outcome State Fault Refusal := fire f (fun fr _ => .done fr.plain) s

/-- PASS (spec 12 R268). -/
def execPass (f : Slot) (s : State) : Host.Outcome State Fault Refusal :=
  oneOp f (fun fr _ a => .done (fr.passes (if fr.md 0 then a.pkt.retag fr.f.ot else a.pkt))) s

/-- DROP (spec 12 R269): each ERR popped is counted unless silent. -/
def execDrop (f : Slot) (s : State) : Host.Outcome State Fault Refusal :=
  fire f (fun fr s =>
    let isErr (q : BitVec 3) (viewB : Bool) : Nat := match s.viewOf fr.key q.toNat viewB with | some p => if p.kind = kErr then 1 else 0 | none => 0
    let n := (if fr.f.dqa then isErr fr.f.qa false else 0) + (if fr.f.dqb && !(fr.f.dqa && fr.f.qb = fr.f.qa) then isErr fr.f.qb true else 0)
    .done { fr.plain with errs := if fr.md 0 then 0 else n }) s

/-- EMIT (spec 12 R268). -/
def execEmit (f : Slot) (s : State) : Host.Outcome State Fault Refusal :=
  fire f (fun fr s => s.withA fr (fun a => fr.widthOk [a] (
    let p := if fr.f.sa = 6 then dataPacket (fmtLw fr.fmt) fr.f.ot false (a.raws.take (fr.imm 7 3 + 1)) else a.pkt
    .done (fr.result p)))) s

/-- EOSE (spec 12 R270). -/
def execEose (f : Slot) (s : State) : Host.Outcome State Fault Refusal :=
  fire f (fun fr s => s.withA fr (fun a => fr.widthOk [a] (
    if a.pkt.kind = kEos then
      let l := a.pkt.tag.toNat
      let d := fr.imm 0 3
      if fr.md 0 then
        (if l < d then .done fr.plain else .done { fr.plain with out := some (a.pkt.retag (BitVec.ofNat 3 (l - d))) })
      else .done { fr.plain with out := some (a.pkt.retag (BitVec.ofNat 3 (Nat.min 7 (l + d)))) }
    else .done { fr.plain with out := some a.pkt }))) s

/-- The lowest and the highest output of a mask, as masks. -/
def lowOut (m : BitVec 6) : BitVec 6 := match (List.range 6).find? (fun i => m.getLsbD i) with | some i => 1#6 <<< i | none => 0
def highOut (m : BitVec 6) : BitVec 6 := match (List.range 6).reverse.find? (fun i => m.getLsbD i) with | some i => 1#6 <<< i | none => 0

/-- STEER of a token by a selection (spec 12 R271). -/
def Fire.steers (fr : Fire) (p : Packet) (sel : Bool) : Done :=
  let m := fr.f.om
  if fr.md 1 && !p.isData then { fr.plain with out := some p }
  else if sel then { fr.plain with out := some p, om := highOut m }
  else if lowOut m ≠ highOut m then { fr.plain with out := some p, om := lowOut m }
  else { fr.plain with errs := if p.kind = kErr then 1 else 0 }

/-- STEER by a state bit (spec 12 R271). -/
def execSteer (f : Slot) (s : State) : Host.Outcome State Fault Refusal :=
  fire f (fun fr s => s.withA fr (fun a => fr.widthOk [a] (.done (fr.steers a.pkt (fr.e.st.getLsbD (fr.imm 13 3)))))) s

/-- A packet with every lane poisoned, if it is DATA. -/
def Packet.poisonAll (p : Packet) : Packet :=
  if p.isData then { p with pois := BitVec.ofNat 8 (2 ^ p.lanes - 1) } else p

/-- STEER by lane 0 of B (spec 12 R271). -/
def execSteerData (f : Slot) (s : State) : Host.Outcome State Fault Refusal :=
  fire f (fun fr s => s.withAB fr (fun a b => fr.widthOk [a] (
    let p := if (b.raw 0).2 then a.pkt.poisonAll else a.pkt
    .done (fr.steers p ((b.raw 0).1 ≠ 0))))) s

/-- The lanes of a packet as stored. -/
def Packet.laneList (p : Packet) : List (Nat × Bool) := (List.range p.lanes).map (fun i => (p.lane i, p.laneP i))

/-- Two packets joined (spec 12 R272: M followed by h). -/
def Packet.append (m h : Packet) : Packet := dataPacket m.lw m.tag m.crd (m.laneList ++ h.laneList)

/-- MERGE (spec 12 R272). -/
def execMerge (f : Slot) (s : State) : Host.Outcome State Fault Refusal :=
  fire f (fun fr s => s.withA fr (fun a => fr.widthOk [a] (
    let h := a.pkt
    let d := fr.plain
    let cap := maxLanes fr.w
    if h.kind = kData then
      match fr.e.merge with
      | none => .done { d with popA := true, e := { fr.e with merge := some h } }
      | some m =>
        if h.tag = m.tag && h.crd = m.crd && decide (m.lanes + h.lanes ≤ cap) then
          let j := m.append h
          if j.lanes = cap then .done { d with popA := true, out := some j, e := { fr.e with merge := none } }
          else .done { d with popA := true, e := { fr.e with merge := some j } }
        else .done { d with popA := true, out := some m, e := { fr.e with merge := some h } }
    else
      match fr.e.merge with
      | some m => .done { d with popA := false, out := some m, e := { fr.e with merge := none } }
      | none => .done { d with popA := true, out := some h }))) s

/-- SPLIT (spec 12 R273). -/
def execSplit (f : Slot) (s : State) : Host.Outcome State Fault Refusal :=
  fire f (fun fr s => s.withA fr (fun a => fr.widthOk [a] (
    let h := a.pkt
    if h.isData then
      let step := (fr.imm 0 3 + 1) * (if h.crd then 2 else 1)
      let o := fr.e.split
      let piece := dataPacket h.lw h.tag h.crd ((h.laneList.drop o).take step)
      if h.lanes ≤ o + step then .done { fr.plain with popA := true, out := some piece, e := { fr.e with split := 0 } }
      else .done { fr.plain with popA := false, out := some piece, e := { fr.e with split := o + step } }
    else .done { fr.plain with popA := true, out := some h }))) s

/-- The carry flag of a slot (spec 12 R264). -/
def Fire.carryFlag (fr : Fire) : Bool := fr.e.carry.getLsbD fr.n
def Elem.setCarry (e : Elem) (n : Nat) (b : Bool) : Elem :=
  { e with carry := if b then e.carry ||| (1#16 <<< n) else e.carry &&& ~~~(1#16 <<< n) }

/-- CARRY tests the head of QA while its flag is clear, and of QB while it is set (spec 12 R274). -/
def carryGuard (fr : Fire) : Slot := if fr.carryFlag then { fr.f with qa := 7 } else { fr.f with qb := 7 }

/-- CARRY (spec 12 R274). -/
def execCarry (f : Slot) (s : State) : Host.Outcome State Fault Refusal :=
  complete (fireProg f carryGuard always (fun fr s =>
    if fr.carryFlag then s.withB fr (fun b => fr.widthOk [b] (
      let h := b.pkt
      let done := h.kind = kEos && decide (fr.imm 0 3 ≤ h.tag.toNat)
      .done { fr.plain with popA := false, popB := true, out := some h, e := if done then fr.e.setCarry fr.n false else fr.e }))
    else s.withA fr (fun a => fr.widthOk [a] (
      let h := a.pkt
      .done { fr.plain with popA := true, popB := false, out := some h, e := if h.isData then fr.e.setCarry fr.n true else fr.e })))) s

/-- DELAY (spec 12 R275). -/
def execDelay (f : Slot) (s : State) : Host.Outcome State Fault Refusal :=
  fire f (fun fr s => s.withAB fr (fun a b => fr.widthOk [a, b] (
    let h := a.pkt
    if h.isData then
      let o := if fr.carryFlag then fr.opD.pkt else b.pkt
      .done { fr.plain with popA := true, res := some h, out := some (o.retag fr.f.ot), e := fr.e.setCarry fr.n true }
    else
      let ends := h.kind = kEos && decide (fr.f.md.toNat % 8 ≤ h.tag.toNat)
      .done { fr.plain with popA := true, out := some h, e := if ends then fr.e.setCarry fr.n false else fr.e }))) s

/-- COUNT (spec 12 R276). -/
def execCount (f : Slot) (s : State) : Host.Outcome State Fault Refusal :=
  fire f (fun fr s => s.withA fr (fun a => fr.widthOk [a] (
    let h := a.pkt
    let d := { fr.plain with popA := true }
    if h.isData then
      let n := fr.e.count.toNat + (if fr.md 0 then h.lanes else 1)
      .done { d with e := { fr.e with count := BitVec.ofNat 32 (Nat.min n (2 ^ 32 - 1)) } }
    else if h.kind = kEos then
      (if fr.imm 0 3 ≤ h.tag.toNat then
        let x := lowBits fr.w (saturateInt fr.fmt (fr.e.count.toNat : Int))
        .done { d with out := some (dataPacket (fmtLw fr.fmt) fr.f.ot false [(x, false)]), e := { fr.e with count := 0 } }
       else .done d)
    else .done { d with out := some h }))) s

/-- One sink report reaches the region controller (spec 12 R278, 16 R376). -/
def State.reportSink (s : State) (key : Nat) : List Effect :=
  match s.regionOf key with
  | some b => [.region b { s.region b with snkd := (s.region b).snkd + 1 }]
  | none => []

/-- SINK (spec 12 R278). -/
def execSink (f : Slot) (s : State) : Host.Outcome State Fault Refusal :=
  fire f (fun fr s => s.withA fr (fun a =>
    let h := a.pkt
    let d := { fr.plain with popA := true }
    if fr.e.reported then .done d
    else if h.kind = kErr then .done { d with errs := 1 }
    else if h.kind = kEos ∧ hdrSnkl fr.hdr ≤ h.tag.toNat then
      let c := fr.e.sinkc + 1
      if fr.f.imm.toNat + 1 ≤ c then
        .done { d with e := { fr.e with sinkc := c, reported := true }, pre := s.reportSink fr.key }
      else .done { d with e := { fr.e with sinkc := c } }
    else .done d)) s

/-- The most bits a task packet carries (spec 12 R280). -/
def taskBits : Nat := 128

/-- Sends A as a task packet (spec 12 R280). -/
def Fire.sends (fr : Fire) (a : Opnd) (dest : PortDest) : Outc :=
  if a.pkt.lanes * a.pkt.width > taskBits then lengthErr (taskBits / fr.w) a.pkt.lanes
  else .done { fr.plain with out := some a.pkt, dest := dest }

/-- TSEND to the own core (spec 12 R280). -/
def execTsend (f : Slot) (s : State) : Host.Outcome State Fault Refusal :=
  fire f (fun fr s => fr.errTo (some (.label (fr.imm 4 7))) (
    s.withA fr (fun a => fr.widthOk [a] (fr.sends a (.label (fr.imm 4 7)))))) s

/-- The core that lane 0 of B names: out of range, poisoned (counted), or a core (spec 12 R280, 09 R189). -/
def Fire.farCore (fr : Fire) (b : Opnd) (k : Nat → Outc) : Outc :=
  if (b.raw 0).2 then .done { fr.plain with errs := 1 }
  else if (b.raw 0).1 > 383 then rangeErr 1 (b.raw 0).1
  else k (b.raw 0).1

/-- The core that lane 0 of B names, if it names one. -/
def Opnd.coreNamed (b : Opnd) : Option Nat := if (b.raw 0).2 || decide (383 < (b.raw 0).1) then none else some (b.raw 0).1

/-- TSEND to another core (spec 12 R280). -/
def execTsendFar (f : Slot) (s : State) : Host.Outcome State Fault Refusal :=
  fire f (fun fr s => s.withAB fr (fun a b => fr.errTo (b.coreNamed.map (fun c => .remote c (fr.imm 4 7))) (
    fr.widthOk [a] (fr.farCore b (fun c => fr.sends a (.remote c (fr.imm 4 7))))))) s

/-- The constant that a CFGK names on a core (spec 12 R281). -/
def Fire.constAt (fr : Fire) (core : Nat) : PortDest := .const core (fr.imm 4 7) (fr.imm 11 2) (fr.md 1)

/-- CFGK to an element of the own core (spec 12 R281). -/
def execCfgk (f : Slot) (s : State) : Host.Outcome State Fault Refusal :=
  fire f (fun fr s => fr.errTo (some (fr.constAt fr.core)) (s.withA fr (fun a => fr.widthOk [a] (
    .done { fr.plain with out := some a.pkt, dest := fr.constAt fr.core })))) s

/-- CFGK to an element of another core (spec 12 R281). -/
def execCfgkFar (f : Slot) (s : State) : Host.Outcome State Fault Refusal :=
  fire f (fun fr s => s.withAB fr (fun a b => fr.errTo (b.coreNamed.map fr.constAt) (fr.widthOk [a] (fr.farCore b (fun c =>
    .done { fr.plain with out := some a.pkt, dest := fr.constAt c }))))) s

/-- MARK (spec 12 R282). -/
def execMark (f : Slot) (s : State) : Host.Outcome State Fault Refusal :=
  fire f (fun fr s => s.withAB fr (fun a b => fr.widthOk [a] (
    let p := a.pkt.retag (BitVec.ofNat 3 (b.raw 0).1)
    if (b.raw 0).2 then
      (if p.isData then .done (fr.passes p.poisonAll) else .done { fr.passes p with errs := 1 })
    else .done (fr.passes p)))) s

/-- ERRT forwarding its head to the repair element (spec 12 R283). -/
def execErrt (f : Slot) (s : State) : Host.Outcome State Fault Refusal :=
  fire f (fun fr s => s.withA fr (fun a => .done { fr.plain with out := some a.pkt, dest := .elem (hdrRep fr.hdr) })) s

/-- ERRT making a software token (spec 12 R283). -/
def execErrtMake (f : Slot) (s : State) : Host.Outcome State Fault Refusal :=
  fire f (fun fr s => s.withA fr (fun a => fr.widthOk [a] (
    .done { fr.plain with out := some (errToken fr.key fr.ctx fr.n 0 0x25 ((a.raw 0).1 % 2 ^ 32) fr.f.ot) }))) s

/-- A packet as DATA with a tag. -/
def Packet.asData (p : Packet) (t : BitVec 3) : Packet := { p with tag := t, kind := kData }

/-- REPAIR pushing on OM (spec 12 R284). -/
def execRepair (f : Slot) (s : State) : Host.Outcome State Fault Refusal :=
  fire f (fun fr s => s.withB fr (fun b => fr.widthOk [b] (
    .done { fr.plain with out := some (b.pkt.asData fr.f.ot) }))) s

/-- REPAIR reinjecting at the element the token names (spec 12 R284). -/
def execRepairBack (f : Slot) (s : State) : Host.Outcome State Fault Refusal :=
  fire f (fun fr s => s.withAB fr (fun a b =>
    let t := a.pkt.pay.toNat
    let elem := bits t 16 7
    let same := match s.regionOf fr.key with | some blk => (s.region blk).covers elem | none => false
    if bits t 23 9 ≠ fr.core || !same then .trap 0x26 (detailOf [(64, t)])
    else fr.errTo (some (.elem elem)) (fr.widthOk [b] (.done { fr.plain with out := some (b.pkt.asData fr.f.ot), dest := .elem elem })))) s

/-- TRAP (spec 12 R285). -/
def execTrap (f : Slot) (s : State) : Host.Outcome State Fault Refusal :=
  fire f (fun fr s =>
    let cause := 0x58 + fr.imm 4 3
    if fr.md 0 then s.withA fr (fun a => .trap cause (detailOf [(64, (a.raw 0).1)])) else .trap cause 0) s

/-- TIME (spec 12 R286). -/
def execTime (f : Slot) (s : State) : Host.Outcome State Fault Refusal :=
  fire f (fun fr s =>
    let c := s.cycle.toNat
    .done (fr.lanesOut (if fr.w = 64 then [(c, false)] else [(c % 2 ^ 32, false), (c / 2 ^ 32, false)]))) s

/-- WHO (spec 12 R286). -/
def execWho (f : Slot) (s : State) : Host.Outcome State Fault Refusal :=
  fire f (fun fr s =>
    .done (fr.lanesOut [(packFields [(9, fr.core), (7, elemIx fr.key), (3, fr.ctx), (6, s.pkgNum)], false), (hdrRid fr.hdr, false)])) s

/-- TAGOF (spec 12 R282). -/
def execTagof (f : Slot) (s : State) : Host.Outcome State Fault Refusal :=
  fire f (fun fr s => s.withA fr (fun a =>
    let p := a.pkt
    let tag := if fr.f.sa = 4 || fr.f.sa = 5 then p.tag.toNat else 0
    let x := tag + p.kind.toNat * 8 + bit01 p.crd * 64 + (if 16 ≤ fr.w then (p.lanes - 1) * 256 else 0)
    .done (fr.lanesOut [(x, false)]))) s

/-- HDR (spec 12 R262, R287): a queue head must have lanes of 32 bits, a data-file entry those of the format. -/
def execHdr (f : Slot) (s : State) : Host.Outcome State Fault Refusal :=
  fire f (fun fr s => s.withA fr (fun a =>
    let want : BitVec 2 := if fr.f.sa = 4 || fr.f.sa = 5 then 2 else fmtLw fr.fmt
    if !a.fixed && a.pkt.isData && a.pkt.lw ≠ want then .err 0x22 (widthDetail want a.pkt.lw)
    else
      let pay := if fr.f.sa = 7 then fr.f.imm.toNat else (a.raw 0).1
      .done { fr.plain with out := some (hdrPacket pay (a.raw 0).2 fr.f.ot) })) s

end Sys2Proof.Machine
end

