-- ==== Sys2Proof/Machine/Scratch.lean ====
section
/-! DEFINITION. The scratchpad element: affine generators and tables (spec 04 R86 to R89, 09 R188), loads, stores and atomics on its
scratchpad (09 R189 to R194), the priority queue (R195 to R197), pending lines and zeroing (R198, 04 R92), DELTA (12 R277). -/

namespace Sys2Proof.Machine

/-- A generator descriptor (spec 04 R86): base, lane width code, lanes, used dimensions, layout, strides, counts − 1. -/
structure GenDesc where
  base : Nat
  lw : BitVec 2
  lanes : Nat
  ndm : Nat
  swz : Nat
  strides : List Int
  cntms : List Nat
  deriving DecidableEq, Repr

/-- The descriptor that a constant holds (spec 04 R86). -/
def genDesc (v : BitVec 256) : GenDesc :=
  let x := v.toNat
  { base := bits x 0 48, lw := BitVec.ofNat 2 (bits x 48 2), lanes := bits x 50 3 + 1, ndm := bits x 53 3, swz := bits x 56 2
    strides := (List.range 4).map (fun i => signExt 32 (bits x (64 + 48 * i + 16) 32))
    cntms := (List.range 4).map (fun i => bits x (64 + 48 * i) 16) }

/-- The dimensions that take part. -/
def GenDesc.dims (g : GenDesc) : List Nat := List.range (Nat.min (g.ndm + 1) 4)
def GenDesc.stride (g : GenDesc) (i : Nat) : Int := g.strides.getD i 0
def GenDesc.cntm (g : GenDesc) (i : Nat) : Nat := g.cntms.getD i 0
def GenDesc.laneBytes (g : GenDesc) : Nat := lwBits g.lw / 8

/-- The address of the counters as they stand (spec 04 R87). -/
def GenDesc.addr (g : GenDesc) (ctr : Nat → Nat) : Int := g.dims.foldl (fun a i => a + (ctr i : Int) * g.stride i) (g.base : Int)

/-- Whether the counters name the last address. -/
def GenDesc.isLast (g : GenDesc) (ctr : Nat → Nat) : Bool := g.dims.all (fun i => ctr i = g.cntm i)

/-- The counters after one step: i0 counts and carries outward; after the last address all are zero (spec 04 R87). -/
def GenDesc.stepFrom (g : GenDesc) (ctr : Nat → Nat) : List Nat → List (Nat × Nat)
  | [] => []
  | i :: l => if ctr i < g.cntm i then [(i, ctr i + 1)] else (i, 0) :: g.stepFrom ctr l

/-- The element with generator n stepped under a descriptor. -/
def Elem.stepGen (e : Elem) (n : Nat) (g : GenDesc) : Elem :=
  { e with gens := (g.stepFrom (e.gen n) g.dims).foldl (fun m x => Map.set 0 m (4 * n + x.1) x.2) e.gens }

/-- Stored byte addresses of n bytes from a logical address (spec 04 R87, R89). -/
def GenDesc.bytesAt (g : GenDesc) (a : Int) (n : Nat) : List Int := (List.range n).map (fun j => swizzle g.swz (a + (j : Int)))

/-- Stored byte addresses of lane i of a table (spec 09 R188). -/
def GenDesc.entry (g : GenDesc) (i : Nat) : List Int := g.bytesAt ((g.base : Int) + (i : Int) * g.stride 0) g.laneBytes

/-- The descriptor or table that IMM[9:8] names, committed. -/
def Fire.desc (fr : Fire) : GenDesc := genDesc (fr.e.kReg (fr.imm 8 2)).val

/-- The affine access of a firing: generator MOD[0] as its counters stand (spec 09 R192). -/
def Fire.affine (fr : Fire) : List Int :=
  let g := fr.desc
  g.bytesAt (g.addr (fr.e.gen (bit01 (fr.md 0)))) (g.lanes * g.laneBytes)

/-- The element after an affine firing, and the wrap bit (spec 09 R192). -/
def Fire.stepped (fr : Fire) : Elem := fr.e.stepGen (bit01 (fr.md 0)) fr.desc
def Fire.wrapBit (fr : Fire) : Option (Nat × Bool) :=
  if fr.md 1 then some (fr.imm 10 3, fr.desc.isLast (fr.e.gen (bit01 (fr.md 0)))) else none

/-- A list of addressed items as runs of consecutive addresses. -/
def runsOf {α : Type} : List (Int × α) → List (Int × List α)
  | [] => []
  | (a, x) :: l =>
    match runsOf l with
    | [] => [(a, [x])]
    | (b, ys) :: r => if b = a + 1 then (a, x :: ys) :: r else (a, [x]) :: (b, ys) :: r

/-- At most k parts of n consecutive items of a list, the last perhaps shorter. -/
def chunksOf {α : Type} (n : Nat) : Nat → List α → List (List α)
  | 0, _ => []
  | _ + 1, [] => []
  | k + 1, x :: l => (x :: l).take n :: chunksOf n k ((x :: l).drop n)

/-- An offset within a scratchpad, and its address in the window. -/
def spadOff (a : Int) : Nat := lowBits 15 a
def padAddr (key : Nat) (a : Int) : Nat := spadBase (coreOf key) (elemIx key) + spadOff a

/-- A scratchpad as a firing in progress sees it (spec 09 R190): the lines that it reads as they stood when it began. -/
def State.seen (s : State) (key : Nat) : State :=
  let e := s.elem key
  if e.busy.isNone || e.latch.isEmpty then s
  else s.apply (e.latch.flatMap (fun x =>
    [.bytes x.1 x.2.1, .softErr (x.1 / 32) 0, .softErr (x.1 / 32 + 1) 0, .poison (x.1 / 32) (x.2.2.getLsbD 0), .poison (x.1 / 32 + 1) (x.2.2.getLsbD 1)])
    ++ [.elem key { e with latch := [], pqAt := none }])

/-- The lane that stands at scratchpad offsets, and whether any of its bytes lies in a poisoned sector (spec 04 R82, 09 R191). -/
def State.padLane (s : State) (key : Nat) (as : List Int) : Nat × Bool :=
  let t := s.seen key
  (leNat (as.map (fun a => t.spadByte key (padAddr key a))), as.any (fun a => t.sectorPoisoned (padAddr key a / 32)))

/-- A write of bytes, each with its mark, at scratchpad offsets: a sector that takes a marked byte is poisoned, one that is wholly
written without a mark is not, any other stays (spec 04 R82). -/
def padWrite (key : Nat) (l : List (Int × Byte × Bool)) : List Effect :=
  let w := l.map (fun x => (((padAddr key x.1 : Nat) : Int), x.2.1))
  let secs := l.foldl (fun m x => Nats.add m (padAddr key x.1 / 32)) []
  (runsOf w).map (fun r => .bytes r.1.toNat r.2)
  ++ secs.flatMap (fun sec =>
    let m := l.filter (fun x => padAddr key x.1 / 32 = sec)
    if m.any (fun x => x.2.2) then [.poison sec true]
    else if 32 ≤ m.length then [.poison sec false, .softErr sec 0] else [])

/-- What reading scratchpad offsets does to sectors with soft errors (spec 04 R82). -/
def State.padReads (s : State) (key : Nat) (as : List Int) : List Effect :=
  s.correct 0 (as.foldl (fun m a => Nats.add m (padAddr key a / 32)) [])

/-- The bytes of lanes at stored addresses. -/
def laneBytesOf (wb : Nat) (as : List Int) (lanes : List (Nat × Bool)) : List (Int × Byte × Bool) :=
  (as.zip (lanes.flatMap (fun x => (leBytes wb x.1).map (fun b => (b, x.2))))).map (fun q => (q.1, q.2.1, q.2.2))

/-- The element after a firing that makes these changes to its scratchpad: a write empties the queue unless the element is in priority-queue
mode (spec 09 R195). -/
def State.padTouched (s : State) (key : Nat) (w : List Effect) (e : Elem) : Elem :=
  if w = [] ∨ s.pqMode key = true then e else { e with pq := [], pqAt := none }
/-- The changes of a firing that writes its scratchpad: what a queue had arranged stands in the bytes before. -/
def State.padPre (s : State) (key : Nat) (w : List Effect) : List Effect := if w = [] ∨ s.pqMode key = true then w else s.unqueued key ++ w

/-- Whether none of the lines at these offsets is pending (spec 04 R92). -/
def Elem.linesFree (e : Elem) (as : List Int) : Bool := as.all (fun a => e.pend.all (fun p => p.1 ≠ spadOff a / 64))

/-- The unpoisoned lanes above a limit stop the firing (spec 09 R189). -/
def ranged (limit : Nat) (l : List (Nat × Bool)) (k : Outc) : Outc :=
  let out (x : Nat × Bool) : Bool := !x.2 && decide (limit < x.1)
  if l.any out then rangeErr (packFields (l.map (fun x => (1, bit01 (out x))))) ((l.find? out).getD (0, false)).1 else k

/-- The index lanes of an indexed load (spec 09 R193). -/
def Opnd.indices (o : Opnd) : List (Nat × Bool) := o.raws

/-- The index lanes of an indexed store with data b; none where the lengths disagree (spec 09 R187, R193). -/
def Fire.storeIndices (fr : Fire) (x b : Opnd) : Option (List (Nat × Bool)) :=
  (outLen fr.w [x, b]).map (fun n => (List.range n).map (fun i => (x.bl i, x.bp i)))

/-- Runs on with the index lanes of an indexed store whose data has the slot's width (spec 09 R187). -/
def Fire.indexed (fr : Fire) (x b : Opnd) (k : List (Nat × Bool) → Outc) : Outc :=
  fr.widthOk [b] (match fr.storeIndices x b with
    | none => .err 0x20 (b.count % 16 * 16 + x.count % 16)
    | some l => k l)

/-- The stored addresses that index lanes touch: neither poisoned nor out of range. -/
def GenDesc.touched (g : GenDesc) (l : List (Nat × Bool)) : List Int :=
  (l.filter (fun x => !x.2 && decide (x.1 ≤ g.cntm 0))).flatMap (fun x => g.entry x.1)

/-- Poisoned index lanes of a list. -/
def poisonedCount (l : List (Nat × Bool)) : Nat := (l.filter (fun x => x.2)).length

/-- A DATA result of lanes of the slot's format (spec 09 R193: tag OT). -/
def Fire.loaded (fr : Fire) (l : List (Nat × Bool)) : Done := fr.result (dataPacket (fmtLw fr.fmt) fr.f.ot false l)

/-- Stored offsets of SLD, and of the lanes of SST. -/
def Fire.fixedBytes (fr : Fire) (lanes : Nat) : List Int := (List.range (lanes * (fr.w / 8))).map (fun j => ((fr.imm 0 15 + j : Nat) : Int))

/-- When the slot is ready to fire, beyond the guard (spec 07 R154). -/
def Fire.readySld (fr : Fire) (_ : State) : Bool :=
  fr.e.linesFree (fr.fixedBytes (fr.f.md.toNat % 8 + 1))

/-- SLD (spec 09 R191). -/
def execSld (f : Slot) (s : State) : Host.Outcome State Fault Refusal :=
  let n := f.md.toNat % 8 + 1
  fireWhen f Fire.readySld (fun fr s =>
    .done { fr.loaded ((chunksOf (fr.w / 8) n (fr.fixedBytes n)).map (s.padLane fr.key)) with pre := s.padReads fr.key (fr.fixedBytes n) }) s

/-- The lanes of SST that end within the scratchpad, and those that do not, with where each starts (spec 09 R189). -/
def Fire.sstLanes (fr : Fire) (a : Opnd) : List (Nat × (Nat × Bool)) :=
  (a.raws.zipIdx).map (fun x => (fr.imm 0 15 + x.2 * (fr.w / 8), x.1))

/-- When the slot is ready to fire, beyond the guard (spec 07 R154). -/
def Fire.readySst (fr : Fire) (s : State) : Bool :=
  match s.opA fr with
      | some a => fr.e.linesFree ((fr.fixedBytes a.pkt.lanes).filter (fun x => decide (x < 32768)))
      | none => true

/-- SST (spec 09 R191): a poisoned lane beyond the end is skipped and counted (R189). -/
def execSst (f : Slot) (s : State) : Host.Outcome State Fault Refusal :=
  fireWhen f Fire.readySst
    (fun fr s => s.withA fr (fun a => fr.widthOk [a] (
      let wb := fr.w / 8
      let l := fr.sstLanes a
      let out (x : Nat × (Nat × Bool)) : Bool := decide (32768 < x.1 + wb)
      let bad := l.filter (fun x => out x && !x.2.2)
      if bad ≠ [] then rangeErr (packFields (l.map (fun x => (1, bit01 (out x && !x.2.2))))) ((bad.map (fun x => x.1)).headD 0)
      else
        let ins := l.filter (fun x => !out x)
        let as := ins.flatMap (fun x => (List.range wb).map (fun j => ((x.1 + j : Nat) : Int)))
        let w := padWrite fr.key (laneBytesOf wb as (ins.map (fun x => x.2)))
        .done { fr.plain with e := s.padTouched fr.key w fr.e, errs := (l.filter out).length, pre := s.padPre fr.key w }))) s

/-- When the slot is ready to fire, beyond the guard (spec 07 R154). -/
def Fire.readySlds (fr : Fire) (_ : State) : Bool :=
  fr.e.linesFree fr.affine

/-- SLDS (spec 09 R192). -/
def execSlds (f : Slot) (s : State) : Host.Outcome State Fault Refusal :=
  fireWhen f Fire.readySlds (fun fr s =>
    let g := fr.desc
    let d := fr.loaded ((chunksOf g.laneBytes g.lanes fr.affine).map (s.padLane fr.key))
    .done { d with e := fr.stepped, stBit := fr.wrapBit, pre := s.padReads fr.key fr.affine }) s

/-- Runs on if the data of an affine store has the descriptor's length (spec 09 R192). -/
def Fire.affineLength (fr : Fire) (a : Opnd) (k : Outc) : Outc :=
  fr.widthOk [a] (if a.pkt.lanes = fr.desc.lanes then k else lengthErr fr.desc.lanes a.pkt.lanes)

/-- The error form of an affine store: the counters still step, the wrap bit is still written (spec 06 R127: the firing happens in
full but for its result). -/
def Fire.affineErr (fr : Fire) (o : Outc) : Outc :=
  match o with
  | .err c det => if fr.epol then .err c det else .done { fr.errDone c det with e := fr.stepped, stBit := fr.wrapBit }
  | _ => o

/-- When the slot is ready to fire, beyond the guard (spec 07 R154). -/
def Fire.readySsts (fr : Fire) (_ : State) : Bool :=
  fr.e.linesFree fr.affine

/-- SSTS (spec 09 R192). -/
def execSsts (f : Slot) (s : State) : Host.Outcome State Fault Refusal :=
  fireWhen f Fire.readySsts (fun fr s => s.withA fr (fun a =>
    fr.affineErr (fr.affineLength a (
      let w := padWrite fr.key (laneBytesOf fr.desc.laneBytes fr.affine a.raws)
      .done { fr.plain with e := s.padTouched fr.key w fr.stepped, stBit := fr.wrapBit, pre := s.padPre fr.key w })))) s

/-- When the slot is ready to fire, beyond the guard (spec 07 R154). -/
def Fire.readySgth (fr : Fire) (s : State) : Bool :=
  match s.opA fr with | some x => fr.e.linesFree (fr.desc.touched x.indices) | none => true

/-- SGTH (spec 09 R193). -/
def execSgth (f : Slot) (s : State) : Host.Outcome State Fault Refusal :=
  fireWhen f Fire.readySgth
    (fun fr s => s.withA fr (fun x =>
      let t := fr.desc
      ranged (t.cntm 0) x.indices (
        .done { fr.loaded (x.indices.map (fun i => if i.2 then (0, true) else s.padLane fr.key (t.entry i.1)))
                with pre := s.padReads fr.key (t.touched x.indices) }))) s

/-- Whether the lines of an indexed store are free. -/
def Fire.storeReady (fr : Fire) (s : State) : Bool :=
  match s.opA fr, s.opB fr with
  | some x, some b => (match fr.storeIndices x b with | some l => fr.e.linesFree (fr.desc.touched l) | none => true)
  | _, _ => true

/-- The writes of an indexed scatter, ascending by lane (spec 09 R193). -/
def Fire.scatter (fr : Fire) (l : List (Nat × Bool)) (b : Opnd) : List Effect :=
  (l.zipIdx).flatMap (fun x =>
    if x.1.2 then [] else padWrite fr.key (laneBytesOf fr.desc.laneBytes (fr.desc.entry x.1.1) [(b.bl x.2, b.bp x.2)]))

/-- SSCT (spec 09 R193). -/
def execSsct (f : Slot) (s : State) : Host.Outcome State Fault Refusal :=
  fireWhen f Fire.storeReady (fun fr s => s.withAB fr (fun x b => fr.indexed x b (fun l => ranged (fr.desc.cntm 0) l (
    .done { fr.plain with e := s.padTouched fr.key (fr.scatter l b) fr.e, errs := poisonedCount l, pre := s.padPre fr.key (fr.scatter l b) })))) s

/-- The new value of an atomic (spec 09 R194): operation, lane width, old value, operand, second operand of `.cas`. -/
def amoNew (op w old v v2 : Nat) : Nat :=
  match op with
  | 0 => (old + v) % 2 ^ w
  | 1 => if signExt w v < signExt w old then v else old
  | 2 => if signExt w old < signExt w v then v else old
  | 3 => Nat.min old v
  | 4 => Nat.max old v
  | 5 => old &&& v
  | 6 => old ||| v
  | 7 => old ^^^ v
  | 8 => v
  | 9 => if old = v then v2 else old
  | 10 => roundElem 8 .rne 0 (Val.add .rne (floatVal 8 old) (floatVal 8 v))
  | _ => old

/-- The lanes of SAMO in ascending order, each on what the lanes before it left (spec 09 R194). -/
def Fire.samoLanes (fr : Fire) (b : Opnd) : List ((Nat × Bool) × Nat) → State → List (Nat × Bool) × List Effect
  | [], _ => ([], [])
  | (x, i) :: l, s =>
    if x.2 then
      let q := fr.samoLanes b l s
      ((0, true) :: q.1, q.2)
    else
      let as := fr.desc.entry x.1
      let old := s.padLane fr.key as
      let w := padWrite fr.key (laneBytesOf fr.desc.laneBytes as [(amoNew (fr.imm 4 4) fr.w old.1 (b.bl i) 0, b.bp i)])
      let q := fr.samoLanes b l (s.apply w)
      ((old.1, old.2 || b.bp i) :: q.1, w ++ q.2)

/-- SAMO (spec 09 R194). -/
def execSamo (f : Slot) (s : State) : Host.Outcome State Fault Refusal :=
  fireWhen f Fire.storeReady (fun fr s => s.withAB fr (fun x b => fr.indexed x b (fun l => ranged (fr.desc.cntm 0) l (
    let fix := s.padReads fr.key (fr.desc.touched l)
    let q := fr.samoLanes b l.zipIdx ((s.seen fr.key).apply fix)
    .done { fr.loaded q.1 with e := s.padTouched fr.key q.2 fr.e, errs := poisonedCount l, pre := fix ++ s.padPre fr.key q.2 })))) s

/-- Inserts an entry behind every entry whose key is not above its own (spec 09 R195). -/
def pqInsert (x : PqEntry) : List PqEntry → List PqEntry
  | [] => [x]
  | y :: l => if x.key.toNat < y.key.toNat then x :: y :: l else y :: pqInsert x l

/-- The entries of a coordinate-mode operand, with whether the coordinate lane is poisoned. -/
def Opnd.entries (o : Opnd) : List (PqEntry × Bool) :=
  (List.range (o.pkt.lanes / 2)).map (fun k =>
    ({ key := BitVec.ofNat 32 (o.raw (2 * k)).1, val := BitVec.ofNat 32 (o.raw (2 * k + 1)).1, pois := (o.raw (2 * k + 1)).2 }, (o.raw (2 * k)).2))

/-- When the slot is ready to fire, beyond the guard (spec 07 R154). -/
def Fire.readyPqin (fr : Fire) (s : State) : Bool :=
  fr.e.pend = [] && (match s.opA fr with
      | some a => decide (fr.e.pq.length + a.pkt.lanes / 2 ≤ 4096)
      | none => true)

/-- PQIN (spec 09 R196). -/
def execPqin (f : Slot) (s : State) : Host.Outcome State Fault Refusal :=
  fireWhen f Fire.readyPqin
    (fun fr s => s.withA fr (fun a => fr.widthOk [a] (
      if !a.pkt.crd then .err 0x22 (widthDetail 2 a.pkt.lw)
      else
        let good := (a.entries.filter (fun x => !x.2)).map (fun x => x.1)
        .done { fr.plain with e := { fr.e with pq := good.foldl (fun q x => pqInsert x q) fr.e.pq, pqAt := some s.free }
                              errs := (a.entries.filter (fun x => x.2)).length, pre := [.free (s.free + 1024)] }))) s

/-- The entries that qualify under a bound (spec 09 R197). -/
def Fire.qualifying (fr : Fire) (bound : Option Opnd) : List PqEntry :=
  match bound with
  | none => fr.e.pq
  | some b => fr.e.pq.takeWhile (fun x => decide (x.key.toNat ≤ b.nat 0))

/-- The bound of PQOUT, read only with MOD[1] = 1. -/
def State.pqBound (s : State) (fr : Fire) : Option Opnd := if fr.md 1 then s.opB fr else none

/-- When the slot is ready to fire, beyond the guard (spec 07 R154). -/
def Fire.readyPqout (fr : Fire) (s : State) : Bool :=
  fr.e.pend = [] && (fr.md 0 || fr.qualifying (s.pqBound fr) ≠ []
      || (match s.pqBound fr with | some b => b.bp 0 || b.pkt.lw ≠ 2 | none => false))

/-- PQOUT (spec 09 R197). -/
def execPqout (f : Slot) (s : State) : Host.Outcome State Fault Refusal :=
  fireWhen f Fire.readyPqout
    (fun fr s =>
      let bound := s.pqBound fr
      let take : Outc :=
        let q := (fr.qualifying bound).take (fr.imm 4 2 + 1)
        if q = [] then .done { fr.plain with out := some (eosPacket fr.outLw fr.f.ot) }
        else
          .done { fr.result (dataPacket 2 fr.f.ot true (q.flatMap (fun x => [(x.key.toNat, false), (x.val.toNat, x.pois)])))
                  with e := { fr.e with pq := fr.e.pq.drop q.length, pqAt := some s.free }, pre := [.free (s.free + 1024)] }
      match bound with
      | none => if fr.md 1 then .nothing else take
      | some b =>
        if b.pkt.lw ≠ 2 then .err 0x22 (widthDetail 2 b.pkt.lw)
        else if b.bp 0 then rangeErr 1 (b.nat 0) else take) s

/-- The first line and the number of lines of SPND and SZERO (spec 09 R198). -/
def Fire.lineFirst (fr : Fire) : Nat := fr.imm 0 9
def Fire.lineCount (fr : Fire) : Nat := 2 ^ fr.imm 9 4

/-- SPND (spec 09 R198): never held by pending bits (R190). -/
def execSpnd (f : Slot) (s : State) : Host.Outcome State Fault Refusal :=
  fire f (fun fr _ =>
    .done { fr.plain with stBit := some (fr.imm 13 3,
      fr.e.pend.any (fun p => decide (fr.lineFirst ≤ p.1) && decide (p.1 < fr.lineFirst + fr.lineCount))) }) s

/-- When the slot is ready to fire, beyond the guard (spec 07 R154). -/
def Fire.readySzero (fr : Fire) (_ : State) : Bool :=
  fr.e.pend.all (fun p => !(decide (fr.lineFirst ≤ p.1) && decide (p.1 < fr.lineFirst + fr.lineCount)))

/-- SZERO (spec 09 R198). -/
def execSzero (f : Slot) (s : State) : Host.Outcome State Fault Refusal :=
  fireWhen f Fire.readySzero
    (fun fr s =>
      let a := spadBase fr.core (elemIx fr.key) + 64 * fr.lineFirst
      let w : List Effect := [.clear a (Nat.min (a + 64 * fr.lineCount) (spadBase fr.core (elemIx fr.key) + 32768))]
      .done { fr.plain with e := s.padTouched fr.key w fr.e, pre := s.padPre fr.key w }) s

/-- The magnitude of the exact difference of two values. -/
def diffMag (a b : Val) : Val := (Val.add .rne a b.negate).abs

/-- The entries of DELTA in order: the effects of the writes, and the entries emitted (spec 12 R277). -/
def Fire.deltaLanes (fr : Fire) (a : Opnd) (theta : Val) (blind : Bool) :
    List (PqEntry × Bool) → State → List Effect × List (Nat × Bool)
  | [], _ => ([], [])
  | (x, bad) :: l, s =>
    if bad then fr.deltaLanes a theta blind l s
    else
      let as := fr.desc.entry x.key.toNat
      let kept := s.padLane fr.key as
      let v := a.value fr.fmt x.val.toNat
      if x.pois || kept.2 || blind || !Val.lt (diffMag v (elemVal fr.fmt kept.1)) theta then
        let w := padWrite fr.key (laneBytesOf fr.desc.laneBytes as [(x.val.toNat, x.pois)])
        let q := fr.deltaLanes a theta blind l (s.apply w)
        (w ++ q.1, (x.key.toNat, false) :: (x.val.toNat, x.pois) :: q.2)
      else fr.deltaLanes a theta blind l s

/-- When the slot is ready to fire, beyond the guard (spec 07 R154). -/
def Fire.readyDelta (fr : Fire) (s : State) : Bool :=
  match s.opA fr with
      | some a => !(a.pkt.isData && a.pkt.crd)
          || fr.e.linesFree (fr.desc.touched (a.entries.map (fun x => (x.1.key.toNat, x.2))))
      | none => true

/-- DELTA (spec 12 R277). -/
def execDelta (f : Slot) (s : State) : Host.Outcome State Fault Refusal :=
  fireWhen f Fire.readyDelta
    (fun fr s => s.withA fr (fun a =>
      if !a.pkt.isData then .done (fr.passes a.pkt)
      else if !a.pkt.crd then .err 0x22 (widthDetail 2 a.pkt.lw)
      else fr.widthOk [a] (
        let k := fr.e.kReg (fr.imm 2 2)
        let idx := a.entries.map (fun x => (x.1.key.toNat, x.2))
        let lanes := (List.range a.pkt.lanes).map a.raw
        let mask := packFields ((lanes.zipIdx).map (fun x => (1, bit01 (x.2 % 2 = 0 && !x.1.2 && decide (fr.desc.cntm 0 < x.1.1)))))
        if mask ≠ 0 then rangeErr mask ((idx.find? (fun x => !x.2 && decide (fr.desc.cntm 0 < x.1))).getD (0, false)).1
        else
          let fix := s.padReads fr.key (fr.desc.touched idx)
          let q := fr.deltaLanes a (elemVal fr.fmt (bits k.val.toNat 0 fr.w)) (k.pois.getLsbD 0) a.entries ((s.seen fr.key).apply fix)
          let d : Done := { fr.plain with e := s.padTouched fr.key q.1 fr.e, errs := poisonedCount idx, pre := fix ++ s.padPre fr.key q.1 }
          if q.2 = [] then .done d
          else
            let p := dataPacket (fmtLw fr.fmt) a.pkt.tag true q.2
            .done { d with res := some p, out := some p }))) s

end Sys2Proof.Machine
end

