-- ==== Sys2Proof/Machine/Access.lean ====
section
/-! DEFINITION. FAB accesses of stream elements: their checks (spec 02 R54), the order in which they may be performed (15 R343 to
R353), and what performing one does. -/

namespace Sys2Proof.Machine

/-- A stream element as the issuer of accesses at a scope (spec 01 R27, 15 R346). -/
def State.fabWho (s : State) (key scope : Nat) : Who :=
  { master := .fab, core := coreOf key, scope := scope, role := s.elemRole key, tcid := s.tcidOf key }

/-- Whether an access lies in the window of a core of this package. -/
def State.inWindow (s : State) (pkg pa core : Nat) : Bool :=
  pkg = s.pkgNum && (placeOf pa).block ≠ .hbm && (placeOf pa).block ≠ .hole && (placeOf pa).core = core

/-- Whether two ranges of addresses meet. -/
def overlaps (a n b m : Nat) : Bool := decide (a < b + m) && decide (b < a + n)

/-- The unit of single-copy atomicity at an address (spec 15 R344), and whether two ranges touch one unit: one location. -/
def unitOf (pa : Nat) : Nat := match (placeOf pa).block with | .coreMem => 64 | .spad => 64 | .am => 16 | .bar => 16 | .sem => 8 | _ => 32
def sameUnit (a n b m : Nat) : Bool :=
  let u := unitOf a
  decide (a / u * u < b + m) && decide (b < (a + n + u - 1) / u * u)

/-- Whether an access reads. -/
def MemOp.isLoad : MemOp → Bool
  | .load _ _ => true
  | _ => false

/-- Whether copies of a packet leave: no access to memory (spec 15 R345). -/
def MemOp.isCopies : MemOp → Bool
  | .copies _ _ _ => true
  | _ => false

/-- Whether an access is still held back by one before it. -/
def State.heldBack (s : State) (a : Access) : Bool := s.pending.any (fun b => a.after.contains b.id)

/-- Whether an access that is not performed yet is still to be waited for at a scope (spec 15 R346): at ELEM, REG and CORE until the core's
router has taken it, in its own window until it is performed; at CLUS, DIE and PKG one to another package until it has been sent; at DOM
every one. -/
def State.owed (s : State) (scope : Nat) (a : Access) : Bool :=
  !a.op.isCopies &&
    (if s.inWindow a.pkg a.pa (coreOf a.key) then true
     else if scope < 3 then s.heldBack a
     else if scope < 6 then !a.sent
     else true)

/-- The accesses of an element that are not performed at a scope. -/
def State.unperformed (s : State) (key scope : Nat) : List Access := s.pending.filter (fun a => a.key = key && s.owed scope a)

/-- Whether an access issued earlier must be performed before one of element e to n bytes at pa (spec 15 R347, R349, R351, R352):
`wr` if the later one writes, `rel` its scope if it is a release. -/
def State.precedes (s : State) (key : Nat) (e : Elem) (wr : Bool) (pkg pa n : Nat) (rel : Option Nat) (a : Access) : Bool :=
  let meet := a.pkg = pkg && sameUnit a.pa a.size pa n
  if a.key = key then
    meet || (s.consOf key e && wr && a.op.isLoad) || e.fenceLd.contains a.id || (wr && e.fenceAll.contains a.id)
      || (match rel with | some sc => s.owed sc a | none => false)
  else
    meet && ((coreOf a.key = coreOf key && !s.inWindow pkg pa (coreOf key)) || pkg ≠ s.pkgNum)

/-- The accesses that must be performed before such an access. -/
def State.before (s : State) (key : Nat) (wr : Bool) (pkg pa n : Nat) (rel : Option Nat) : List Nat :=
  (s.pending.filter (s.precedes key (s.elem key) wr pkg pa n rel)).map (fun a => a.id)

/-- The access of a piece under a translation: the buffers and walks of its translation, and the cache line it touches if it lies in this
package (spec 02 R36 to R39, R50). -/
def State.reach (s : State) (core tcid : Nat) (wr : Bool) (p : Piece) : List Effect :=
  let now := s.translated core tcid p.va
  now ++ (if p.x.pkg = s.pkgNum then (s.apply now).touchLine p.x.kid p.x.pa p.x.noAlloc wr p.size else [])
def State.reachAll (s : State) (core tcid : Nat) (wr : Bool) : List Piece → List Effect
  | [] => []
  | p :: l =>
    let now := s.reach core tcid wr p
    now ++ (s.apply now).reachAll core tcid wr l

/-- The poison mask of marks on bytes from an address up: a bit for each 32 B sector that they touch (spec 18 R429), and the marks of n bytes under
such a mask. -/
def maskOf (pa : Nat) (marks : List Bool) : BitVec 2 :=
  BitVec.ofNat 2 ((marks.zipIdx).foldl (fun m x => if x.1 then m ||| 2 ^ ((pa + x.2) / 32 - pa / 32) else m) 0)
def marksUnder (pa n : Nat) (m : BitVec 2) : List Bool := (List.range n).map (fun i => m.getLsbD ((pa + i) / 32 - pa / 32))

/-- The peer port towards a package (spec 18 R427). -/
def State.portTo (s : State) (pkg : Nat) : Nat := (Map.get 0 s.routes pkg).toNat % 16

/-- A request to another package (spec 18 R429), numbered by the next number; its data are marked as `marks`. -/
def State.peerReq (s : State) (role : BitVec 26) (pkg pa tcid tag size : Nat) (op : PeerOp) (arg : Nat) (data : List (Byte × Bool)) : PeerReq :=
  { port := s.portTo pkg, pa := pa, op := op, size := size, data := data.map (fun b => b.1), tcid := tcid, srcPkg := s.pkgNum
    srcCore := bits role.toNat 7 9, tag := tag, arg := arg, pois := maskOf pa (data.map (fun b => b.2)), issuer := role.toNat }

/-- Issues accesses of an element in order (spec 15 R343, R344, R348); copies to one member leave in firing order (09 R202). -/
def State.issue (s : State) (key : Nat) (rel : Option Nat) : List (MemOp × Piece) → List Effect
  | [] => []
  | (op, p) :: l =>
    let a : Access := { id := s.nextId, key := key, op := op, pkg := p.x.pkg, pa := p.x.pa, size := p.size, kid := p.x.kid
                        noAlloc := p.x.noAlloc, tcid := s.tcidOf key, va := p.va
                        after := s.before key (!op.isLoad) p.x.pkg p.x.pa p.size rel
                              ++ (if op.isCopies then (s.pending.filter (fun b => b.key = key && b.op.isCopies)).map (fun b => b.id) else [])
                        sent := false }
    let now : List Effect := (if op.isCopies then [] else s.translated (coreOf key) a.tcid p.va) ++ [.nextId (s.nextId + 1), .pending (s.pending ++ [a])]
    now ++ (s.apply now).issue key rel l

/-- The pieces of addressed bytes, each with the index of its first byte; or the failure that stops the firing (spec 02 R54). -/
def State.located (s : State) (w : Who) (k : Kind) (items : List (Int × Nat)) : Except Fail (List (Nat × Piece)) :=
  let runs := runsOf items
  match s.checkAll w k (runs.map (fun r => (r.1, r.2.length))) with
  | .error f => .error f
  | .ok ps =>
    .ok ((runs.zip ps).flatMap (fun x =>
      (x.2.foldl (fun (acc : List (Nat × Piece) × Nat) p => (acc.1 ++ [(acc.2, p)], acc.2 + p.size)) ([], x.1.2.headD 0)).1))

/-- A store of bytes with marks to located pieces, or the refusal of a descriptor word (spec 01 R23). -/
def storesAt (w : Who) (data : List (Byte × Bool)) (ps : List (Nat × Piece)) : Except Fail (List (MemOp × Piece)) :=
  let cut (x : Nat × Piece) : List (Byte × Bool) := (data.drop x.1).take x.2.size
  match ps.find? (fun x => (placeOf x.2.x.pa).block = .desc && !descOk (leNat ((cut x).map (fun b => b.1)))) with
  | some x => .error (failOf w x.2.x.pa x.2.size 0x12)
  | none => .ok (ps.map (fun x => (.store ((cut x).map (fun b => b.1)) ((cut x).map (fun b => b.2)), x.2)))

/-- The bytes of lanes with their marks, in order. -/
def markedBytes (wb : Nat) (l : List (Nat × Bool)) : List (Byte × Bool) :=
  l.flatMap (fun x => (leBytes wb x.1).map (fun b => (b, x.2)))

/-- Whether an asked request is for these bytes; the requests for pieces that have no answer yet (spec 18 R429). -/
def Ask.isFor (a : Ask) (p : Piece) : Bool := a.pkg = p.x.pkg && a.pa = p.x.pa && a.size = p.size
def State.lacking (s : State) (asks : List Ask) (ps : List Piece) : List Piece :=
  ps.filter (fun p => p.x.pkg ≠ s.pkgNum && !asks.any (fun a => a.isFor p && a.got.isSome))

/-- Asks other packages for pieces that have not been asked for: the requests that wait from now on, and the changes. -/
def State.askFor (s : State) (role : BitVec 26) (tcid : Nat) (op : PeerOp) (arg : Nat) (data : List (Byte × Bool)) (asks : List Ask) (ps : List Piece) :
    List Ask × List Effect :=
  let new := (ps.filter (fun p => p.x.pkg ≠ s.pkgNum && !asks.any (fun a => a.isFor p))).zipIdx
  (asks ++ new.map (fun x => { tag := s.nextId + x.2, pkg := x.1.x.pkg, pa := x.1.x.pa, size := x.1.size, got := none }),
   if new = [] then []
   else .nextId (s.nextId + new.length)
     :: new.map (fun x => .send (.peer (s.peerReq role x.1.x.pkg x.1.x.pa tcid (s.nextId + x.2) x.1.size op arg data))))

/-- Bytes that Foreveder reads in another package: free values (logs 4, 12). At most 64. -/
def freeBytes (n size : Nat) : List Byte := leBytes size ((Config.freeValue n).toNat + (Config.freeValue (n + 1)).toNat * 2 ^ 256)

/-- The bytes of one piece, with their marks; those of another package are its answer, or free values from `free` on (log 12). -/
def State.pieceBytes (s : State) (asks : List Ask) (free : Nat) (p : Piece) : List (Byte × Bool) :=
  if p.x.pkg = s.pkgNum then (List.range p.size).map (fun i => (s.byteAt p.x.kid (p.x.pa + i), s.poisAt (p.x.pa + i)))
  else
    match (asks.find? (fun a => a.isFor p)).bind (fun a => a.got) with
    | some g => g.1.zip (marksUnder p.x.pa p.size g.2)
    | none => (freeBytes free p.size).map (fun b => (b, (Config.freeValue (free + 2)).getLsbD 0))

/-- The bytes of pieces in order. -/
def State.fetchFrom (s : State) (asks : List Ask) (free : Nat) : List Piece → List (Byte × Bool)
  | [] => []
  | p :: l => s.pieceBytes asks free p ++ s.fetchFrom asks (free + 3) l

/-- The semaphore and the barrier at an address of a core's window. -/
def semAt (pa : Nat) : Nat × Nat := ((placeOf pa).core, (placeOf pa).off / 8)
def barAt (pa : Nat) : Nat × Nat := ((placeOf pa).core, (placeOf pa).off / 16)

/-- The changes of performing an access (spec 15 R343): a load takes its bytes and sends them back, a store writes, a synchronisation
acts on its object (05 R112, R115), copies leave on the task network (09 R202, 15 R345). -/
def State.performOp (s : State) (a : Access) : List Effect :=
  let role := s.elemRole a.key
  match a.op with
  | .load ret at_ =>
    s.touchLine a.kid a.pa a.noAlloc false a.size
      ++ [.returned (s.returned ++ [{ key := a.key, ret := ret, at_ := at_, data := s.readBytes a.kid a.pa a.size, pois := s.readPois a.pa a.size }])]
  | .store data marks => s.touchLine a.kid a.pa a.noAlloc true a.size ++ s.store a.kid a.pa data marks
  | .signal inc err =>
    let n := semAt a.pa
    [.sem (256 * n.1 + n.2) (semSignal (s.sem n.1 n.2) inc (if err then some (0x32, role) else none))]
  | .semInit count pois =>
    let n := semAt a.pa
    [.sem (256 * n.1 + n.2) (semMake (if pois then role else 0) pois (if pois then 0x32 else 0) (Nat.min count 0xFFFFFF))]
  | .barInit xarr xbytes pois =>
    let n := barAt a.pa
    [.bar (2048 * n.1 + n.2) (barInit (s.bar n.1 n.2) xarr xbytes pois role)]
  | .barArrive k pois =>
    let n := barAt a.pa
    [.bar (2048 * n.1 + n.2) (barArrive (s.bar n.1 n.2) k pois role)]
  | .copies label mask pkt =>
    [.taskNet (s.taskNet ++ ((List.range 4).filter (fun m => maskBit mask m)).map (fun m =>
      Task.data (clusterCore (coreOf a.key) m) label a.key pkt))]

/-- The request that an access to another package sends (spec 18 R429). -/
def State.sendOp (s : State) (a : Access) : List Effect :=
  let req (op : PeerOp) (data : List (Byte × Bool)) : Effect :=
    .send (.peer (s.peerReq (s.elemRole a.key) a.pkg a.pa a.tcid a.id a.size op 0 data))
  match a.op with
  | .load _ _ => [req .read []]
  | .store data marks => [req .write (data.zip marks)]
  | _ => []

/-- Power of a core (spec 01 R32). -/
def State.powerOf (s : State) (core : Nat) : Power := Map.get .on s.gated core
def State.holdOf (s : State) (core : Nat) : List Held := Map.get [] s.heldq core

/-- Holds traffic at the boundary of a gated core, which starts its wake (spec 01 R32). -/
def State.holdAt (s : State) (core : Nat) (h : Held) : List Effect := [.hold core (s.holdOf core ++ [h]), .gate core .waking]

/-- The core of this package whose window an access reaches, if any. -/
def State.targetCore (s : State) (pkg pa : Nat) : Option Nat :=
  let p := placeOf pa
  if pkg = s.pkgNum ∧ p.block ≠ .hbm ∧ p.block ≠ .hole ∧ p.block ≠ .control then some p.core else none

/-- Whether an access waits at a gated core. -/
def State.gatedFor (s : State) (pkg pa : Nat) : Option Nat :=
  match s.targetCore pkg pa with
  | some c => if s.powerOf c = .on then none else some c
  | none => none

/-- The first gated core that pieces reach. -/
def State.gateOf (s : State) (ps : List Piece) : Option Nat := ps.findSome? (fun p => s.gatedFor p.x.pkg p.x.pa)

/-- Whether a package can no longer be reached: the link towards it has failed (spec 18 R425). -/
def State.cutOff (s : State) (pkg : Nat) : Bool := pkg ≠ s.pkgNum && (s.port (s.portTo pkg)).failed
/-- The failure of an access to a package that cannot be reached: core and package (spec 18 R425, 17 R404). -/
def linkFail (pkg pa : Nat) : Fail := ⟨0x51, detailOf [(9, (placeOf pa).core), (6, pkg)]⟩
/-- The first of these pieces that cannot be reached. -/
def State.cutPiece (s : State) (ps : List Piece) : Option Fail :=
  ps.findSome? (fun p => if s.cutOff p.x.pkg then some (linkFail p.x.pkg p.x.pa) else none)

/-- An access that a failed link does not deliver: its region stops (spec 17 R401, 18 R425). -/
def State.loseAccess (s : State) (a : Access) (f : Fail) : List Effect :=
  let gone : Effect := .pending (s.pending.filter (fun b => b.id ≠ a.id))
  match s.regionOf a.key with
  | none => [gone]
  | some b => gone :: (s.perform gone).asyncStop b f.cause 5 (elemIx a.key) f.detail

/-- The changes of an access whose turn has come: none while one before it is not performed or its answer is on its way; held if its core is
gated; sent if it goes to another package, whose answer ends it (spec 18 R429). -/
def State.performAccess (s : State) (a : Access) : List Effect :=
  if s.heldBack a || a.sent then []
  else
    match s.gatedFor a.pkg a.pa with
    | some c => if (s.holdOf c).contains (.access a) then [] else s.holdAt c (.access a)
    | none =>
      if s.cutOff a.pkg then s.loseAccess a (linkFail a.pkg a.pa)
      else if a.pkg ≠ s.pkgNum ∧ a.op.isCopies = false then
        .pending (s.pending.map (fun b => if b.id = a.id then { b with sent := true } else b)) :: s.sendOp a
      else .pending (s.pending.filter (fun b => b.id ≠ a.id)) :: s.performOp a

/-- An atomic at the node that owns its address (spec 09 R194, 05 R112, R115): the old value, whether its sector is poisoned, and
the changes. -/
def State.atomic (s : State) (kid pa size op v v2 : Nat) (pois : Bool) (role : BitVec 26) : Nat × Bool × List Effect :=
  let p := placeOf pa
  match p.block with
  | .sem =>
    let n := semAt pa
    let old := s.sem n.1 n.2
    (old.toNat % 2 ^ 32, false, [.sem (256 * n.1 + n.2) (semSignal old (signExt 32 v) (if pois then some (0x32, role) else none))])
  | .bar =>
    let n := barAt pa
    let old := s.bar n.1 n.2
    let off := p.off % 16
    let new := if off = 4 then barArrive old (v % 4096) pois role else barBytes old (v % 2 ^ 32) pois role
    (bits old.toNat (8 * off) 32, false, [.bar (2048 * n.1 + n.2) new])
  | _ =>
    let old := leNat (s.readBytes kid pa size)
    (old, s.readPois pa size, s.store kid pa (leBytes size (amoNew op (8 * size) old v v2)) (List.replicate size pois))

/-- The cause that refuses an atomic operation on a semaphore or a barrier: only an add of 4 B acts there (spec 05 R112, R115). -/
def atomicRefused (pa op : Nat) : Bool :=
  let b := (placeOf pa).block
  (b = .sem || b = .bar) && op ≠ 0

/-- Whether an observation of n bytes of the element's own core may be made now: its earlier accesses to them are performed, and no
fence holds it (spec 15 R348 to R351). -/
def State.mayObserve (s : State) (key pa n : Nat) : Bool :=
  let e := s.elem key
  s.pending.all (fun a => !(a.key = key && (e.fenceLd.contains a.id || (a.pkg = s.pkgNum && overlaps a.pa a.size pa n))))

end Sys2Proof.Machine
end

