-- ==== Sys2Proof/Machine/Stream.lean ====
section
/-! DEFINITION. The stream element's loads, stores, atomics, multicast, prefetch and fences (spec 09 R192 to R205, 15 R345 to R356). -/

namespace Sys2Proof.Machine

/-- Ordering and scope of a class-O slot (spec 08 R169). -/
def Fire.order (fr : Fire) : Nat := fr.f.md.toNat % 4
def Fire.scope (fr : Fire) : Nat := fr.imm 13 3
/-- The scope at which a store-like slot is a release: `.rel` or `.sc` (spec 15 R350). -/
def Fire.release (fr : Fire) : Option Nat := if 2 ≤ fr.order then some fr.scope else none

/-- A trap for a failed check (spec 02 R54). -/
def trapOf (x : Fail) : Outc := .trap x.cause x.detail

/-- Runs on with what a check answers, or traps. -/
def passed {α : Type} (r : Except Fail α) (k : α → Outc) : Outc :=
  match r with
  | .error x => trapOf x
  | .ok a => k a

/-- The items of affine bytes: each address with its place among the access's bytes. -/
def Fire.affineItems (fr : Fire) : List (Int × Nat) := fr.affine.zipIdx

/-- The return-buffer entry of a deferred load and the element that holds it (spec 09 R199): filled when `need` accesses have returned. -/
def Fire.deferred (fr : Fire) (id : Nat) (p : Packet) (need : Nat) (e : Elem) : Elem :=
  if fr.f.om = 0 then e
  else { e with ret := e.ret ++ [{ id := id, pkt := if fr.f.oeos then eosPacket fr.outLw fr.f.ot else p, mask := fr.f.om, need := need, dest := .nowhere }] }

/-- A load firing (spec 09 R192, R193, R199): accesses issued, their bytes bound for a return-buffer entry that starts as p. -/
def Fire.loads (fr : Fire) (s : State) (ps : List (Nat × Piece)) (p : Packet) (e : Elem) : Done :=
  let id := s.nextId + 1
  { fr.plain with e := fr.deferred id p ps.length e
                  pre := s.issue fr.key none (ps.map (fun x => (.load id x.1, x.2))) }

/-- A store firing: accesses issued. -/
def Fire.stores (fr : Fire) (s : State) (rel : Option Nat) (l : List (MemOp × Piece)) (e : Elem) : Done :=
  { fr.plain with e := e, pre := s.issue fr.key rel l }

/-- LDS (spec 09 R192). -/
def execLds (f : Slot) (s : State) : Host.Outcome State Fault Refusal :=
  fire f (fun fr s =>
    let g := fr.desc
    passed (s.located (s.fabWho fr.key 0) .read fr.affineItems) (fun ps =>
      .done { fr.loads s ps (dataPacket g.lw fr.f.ot false (List.replicate g.lanes (0, false))) fr.stepped with stBit := fr.wrapBit })) s

/-- STS (spec 09 R192). -/
def execSts (f : Slot) (s : State) : Host.Outcome State Fault Refusal :=
  fire f (fun fr s => s.withA fr (fun a => fr.affineErr (fr.affineLength a (
    let w := s.fabWho fr.key 0
    passed (s.located w .write fr.affineItems) (fun ps =>
      passed (storesAt w (markedBytes fr.desc.laneBytes a.raws) ps) (fun l =>
        .done { fr.stores s none l fr.stepped with stBit := fr.wrapBit })))))) s

/-- The items of indexed lanes that address memory, ascending by lane (spec 09 R193). -/
def Fire.indexItems (fr : Fire) (l : List (Nat × Bool)) : List (List (Int × Nat)) :=
  (l.zipIdx).map (fun x => if x.1.2 then [] else (fr.desc.entry x.1.1).zipIdx (x.2 * fr.desc.laneBytes))

/-- The located pieces of several accesses, checked in order (spec 02 R54). -/
def State.locatedAll (s : State) (w : Who) (k : Kind) : List (List (Int × Nat)) → Except Fail (List (Nat × Piece))
  | [] => .ok []
  | i :: l =>
    match s.located w k i with
    | .error f => .error f
    | .ok p =>
      match s.locatedAll w k l with
      | .error f => .error f
      | .ok q => .ok (p ++ q)

/-- LDX (spec 09 R193): a poisoned index lane gives zero, poisoned (R189). -/
def execLdx (f : Slot) (s : State) : Host.Outcome State Fault Refusal :=
  fire f (fun fr s => s.withA fr (fun x =>
    let l := x.indices
    ranged (fr.desc.cntm 0) l (
      passed (s.locatedAll (s.fabWho fr.key 0) .read (fr.indexItems l)) (fun ps =>
        .done (fr.loads s ps (dataPacket fr.desc.lw fr.f.ot false (l.map (fun i => (0, i.2)))) fr.e))))) s

/-- STX (spec 09 R193). -/
def execStx (f : Slot) (s : State) : Host.Outcome State Fault Refusal :=
  fire f (fun fr s => s.withAB fr (fun x b => fr.indexed x b (fun l => ranged (fr.desc.cntm 0) l (
    let w := s.fabWho fr.key 0
    passed (s.locatedAll w .write (fr.indexItems l)) (fun ps =>
      passed (storesAt w (markedBytes fr.desc.laneBytes ((List.range l.length).map (fun i => (b.bl i, b.bp i)))) ps) (fun st =>
        .done { fr.stores s none st fr.e with errs := poisonedCount l })))))) s

/-- The items of the one table lane that LDA, STA, AMO name. -/
def Fire.laneItems (fr : Fire) (i : Nat) : List (Int × Nat) := (fr.desc.entry i).zipIdx

/-- The accesses of an element's firing that must still be performed before it acts on pieces at once: those before any of them, and
for `.sc`, or for `.rel`, every earlier one at the scope (spec 15 R350). -/
def State.mustWait (s : State) (key : Nat) (wr : Bool) (fence : Option Nat) (ps : List (Nat × Piece)) : Bool :=
  ps.any (fun p => s.before key wr p.2.x.pkg p.2.x.pa p.2.size none ≠ [])
    || (match fence with | some sc => s.unperformed key sc ≠ [] | none => false)

/-- The cores whose windows pieces reach and that do not run: their wake starts (spec 01 R32). -/
def State.wakes (s : State) (ps : List (Nat × Piece)) : List Effect :=
  ps.flatMap (fun p => match s.gatedFor p.2.x.pkg p.2.x.pa with | some c => [.gate c .waking] | none => [])

/-- Runs on once every piece's core runs and nothing is left to wait for; a firing in progress meanwhile (spec 09 R194, R201). -/
def Fire.whenClear (fr : Fire) (s : State) (wr : Bool) (fence : Option Nat) (ps : List (Nat × Piece)) (k : Outc) : Outc :=
  if s.mustWait fr.key wr fence ps then .wait fr.e []
  else if ps.any (fun p => (s.gatedFor p.2.x.pkg p.2.x.pa).isSome) then .wait fr.e (s.wakes ps)
  else match s.cutPiece (ps.map (fun p => p.2)) with
    | some f => trapOf f
    | none => k

/-- The result of an LDA or AMO: one lane, and its poison as a state bit with MOD[2] = 1 (spec 09 R194, R201). -/
def Fire.oneLane (fr : Fire) (v : Nat) (p : Bool) (pre : List Effect) : Done :=
  { fr.result (dataPacket fr.desc.lw fr.f.ot false [(v, p)])
    with stBit := if fr.md 2 then some (fr.imm 10 3, p) else none, pre := pre }

/-- Runs on with the bytes of pieces and whether their sectors are poisoned; a firing in progress until other packages have answered
(spec 18 R429). The changes of reaching them come first, and nothing asked is left. -/
def Fire.gathers (fr : Fire) (s : State) (op : PeerOp) (arg : Nat) (data : List (Byte × Bool)) (ps : List Piece) (k : Fire → List Byte → Bool → Outc) : Outc :=
  if s.lacking fr.e.asks ps ≠ [] then
    let q := s.askFor (s.elemRole fr.key) (s.tcidOf fr.key) op arg data fr.e.asks ps
    .wait { fr.e with asks := q.1 } q.2
  else
    let l := s.fetchFrom fr.e.asks s.free ps
    k { fr with e := { fr.e with asks := [] } } (l.map (fun b => b.1)) (l.any (fun b => b.2))

/-- LDA (spec 09 R201, 15 R350). -/
def execLda (f : Slot) (s : State) : Host.Outcome State Fault Refusal :=
  fire f (fun fr s => s.withA fr (fun x =>
    ranged (fr.desc.cntm 0) [(x.nat 0, x.bp 0)] (
      if x.bp 0 then .done (fr.oneLane 0 true [])
      else passed (s.located (s.fabWho fr.key fr.scope) .read (fr.laneItems (x.nat 0))) (fun ps =>
        fr.whenClear s false (if fr.order = 3 then some fr.scope else none) ps (
          let pieces := ps.map (fun p => p.2)
          fr.gathers s .read 0 [] pieces (fun fr l pois =>
            .done (fr.oneLane (leNat l) pois (s.reachAll (coreOf fr.key) (s.tcidOf fr.key) false pieces))))))))  s

/-- STA (spec 09 R201, 15 R350): `.sc` first acts as FENCE.sc. -/
def execSta (f : Slot) (s : State) : Host.Outcome State Fault Refusal :=
  fire f (fun fr s => s.withAB fr (fun x b => fr.widthOk [b] (ranged (fr.desc.cntm 0) [(x.nat 0, x.bp 0)] (
    if x.bp 0 then .done { fr.plain with errs := 1 }
    else
      let w := s.fabWho fr.key fr.scope
      passed (s.located w .write (fr.laneItems (x.nat 0))) (fun ps =>
        passed (storesAt w (markedBytes fr.desc.laneBytes [(b.bl 0, b.bp 0)]) ps) (fun st =>
          if fr.order = 3 && s.unperformed fr.key fr.scope ≠ [] then .wait fr.e []
          else .done (fr.stores s fr.release st fr.e))))))) s

/-- The wait of an AMO: `.rel` and `.sc` for every earlier access at the scope (spec 15 R350). -/
def Fire.amoFence (fr : Fire) : Option Nat := if 2 ≤ fr.order then some fr.scope else none

/-- AMO (spec 09 R194): lane 0 of the index, one indivisible access at the owning node. -/
def execAmo (f : Slot) (s : State) : Host.Outcome State Fault Refusal :=
  fire f (fun fr s => s.withAB fr (fun x b => fr.widthOk [b] (
    let op := fr.imm 4 4
    if op = 9 ∧ b.count ≠ 2 then .err 0x20 (b.count % 16 * 16 + x.count % 16)
    else ranged (fr.desc.cntm 0) [(x.nat 0, x.bp 0)] (
      if x.bp 0 then .done { fr.oneLane 0 true [] with errs := 1 }
      else
        let w := s.fabWho fr.key fr.scope
        let va := (fr.desc.entry (x.nat 0)).headD 0
        let size := fr.desc.laneBytes
        let pois := b.bp 0 || (op = 9 && b.bp 1)
        let v2 := if op = 9 then b.bl 1 else 0
        passed (s.checkPart w .atomic va size) (fun l =>
          match l with
          | [] => .nothing
          | p :: _ =>
            if p.x.pkg = s.pkgNum ∧ atomicRefused p.x.pa op then trapOf (failOf w p.x.pa size 0x12)
            else fr.whenClear s true fr.amoFence [(0, p)] (
              if p.x.pkg ≠ s.pkgNum then
                fr.gathers s .atomic op ((leBytes size (b.bl 0) ++ leBytes size v2).map (fun y => (y, pois))) [p] (fun fr l old =>
                  .done (fr.oneLane (leNat l) (old || pois) (s.reach (coreOf fr.key) (s.tcidOf fr.key) true p)))
              else
                let q := s.atomic p.x.kid p.x.pa size op (b.bl 0) v2 pois w.role
                .done (fr.oneLane q.1 (q.2.1 || pois) (s.reach (coreOf fr.key) (s.tcidOf fr.key) true p ++ q.2.2)))))))) s

/-- The multicast word of a table (spec 09 R202): label and mask. -/
def Fire.mcWord (fr : Fire) : Nat := bits (fr.e.kReg (fr.imm 8 2)).val.toNat 112 48

/-- MCST (spec 09 R202, 15 R345): the store, and the copies that are not ordered with it. -/
def execMcst (f : Slot) (s : State) : Host.Outcome State Fault Refusal :=
  fire f (fun fr s => s.withAB fr (fun a b => fr.widthOk [a] (
    if 64 < a.pkt.lanes * a.pkt.width then .err 0x20 (b.pkt.lanes % 16 * 16 + a.pkt.lanes % 16)
    else ranged (fr.desc.cntm 0) [(b.nat 0, b.bp 0)] (
      if b.bp 0 then .done { fr.plain with errs := 1 }
      else
        let w := s.fabWho fr.key fr.scope
        let va := (fr.desc.entry (b.nat 0)).headD 0
        let n := a.pkt.lanes * a.pkt.width / 8
        passed (s.located w .write ((List.range n).map (fun (j : Nat) => (va + (j : Int), j)))) (fun ps =>
          passed (storesAt w (markedBytes (a.pkt.width / 8) a.raws) ps) (fun st =>
            let none' : Piece := ⟨⟨s.pkgNum, 0, true, 0⟩, 0, 0⟩
            let copy : MemOp := .copies (bits fr.mcWord 0 7) (bits fr.mcWord 8 4) (dataPacket a.pkt.lw 0 a.pkt.crd a.raws)
            .done (fr.stores s fr.release ((copy, none') :: st) fr.e))))))) s

/-- One line of a prefetch (spec 09 R203): the 128 B of HBM in this package that the address reaches are filled, unless the translation fails
or the page does not allocate. -/
def State.prefetch (s : State) (core tcid : Nat) (va : Int) : List Effect :=
  match s.translate core tcid va .read with
  | .ok q =>
    if q.pkg = s.pkgNum ∧ q.noAlloc = false ∧ (placeOf q.pa).block = .hbm then
      s.reach core tcid false ⟨{ q with pa := q.pa / 128 * 128 }, lowBits 48 va, 128⟩
    else []
  | .error _ => []

/-- The lines of a prefetch in order. -/
def State.prefetchAll (s : State) (core tcid : Nat) : List Int → List Effect
  | [] => []
  | va :: l =>
    let now := s.prefetch core tcid va
    now ++ (s.apply now).prefetchAll core tcid l

/-- PREF (spec 09 R203): fills lines, drops every failure. -/
def execPref (f : Slot) (s : State) : Host.Outcome State Fault Refusal :=
  fire f (fun fr s => s.withA fr (fun x =>
    let vas := (x.indices.filter (fun i => !i.2 && decide (i.1 ≤ fr.desc.cntm 0))).map (fun i => (fr.desc.entry i.1).headD 0)
    .done { fr.plain with pre := s.prefetchAll (coreOf fr.key) (s.tcidOf fr.key) vas })) s

/-- FENCE (spec 09 R204, 15 R351). -/
def execFence (f : Slot) (s : State) : Host.Outcome State Fault Refusal :=
  fire f (fun fr s =>
    let mine := s.pending.filter (fun a => a.key = fr.key)
    if fr.order = 1 then .done { fr.plain with e := { fr.e with fenceLd := (mine.filter (fun a => a.op.isLoad || fr.e.fenceLd.contains a.id)).map (fun a => a.id) } }
    else if fr.order = 2 then
      .done { fr.plain with e := { fr.e with fenceAll := (mine.filter (fun a => s.owed fr.scope a || fr.e.fenceAll.contains a.id)).map (fun a => a.id) } }
    else if s.unperformed fr.key fr.scope ≠ [] then .wait fr.e [] else .done fr.plain) s

/-- The memory kind of an address (spec 09 R206). -/
def State.memKind (s : State) (pkg pa : Nat) : Nat :=
  if pkg ≠ s.pkgNum then 4
  else match (placeOf pa).block with | .coreMem => 0 | .spad => 1 | .am => 2 | .hbm => 3 | _ => 7

/-- The engine of a path class, if any: CPY is served by the copy and the launch engine (spec 05 R105). -/
def enginesOf (cls : Nat) : List Nat := match cls with | 1 => [0, 3] | 2 => [1] | 3 => [2] | _ => []

/-- The commands that engines of a core hold and have not completed. -/
def State.commandsOf (s : State) (core : Nat) (engs : List Nat) : List Cmd :=
  engs.flatMap (fun e => (s.engine core e).queue ++ (s.engine core e).running)

/-- Words of the accumulate network that elements of a core have sent and that are not added or refused (spec 09 R205). -/
def State.contributionsOf (s : State) (core : Nat) : List Nat :=
  let idOf (w : AccWord) : List Nat := match w with | .contrib id _ _ _ _ _ _ src _ => if coreOf src = core then [id] else [] | _ => []
  s.accNet.flatMap idOf ++ s.asked.flatMap (fun x => idOf x.2) ++ (s.elems.filter (fun x => coreOf x.1 = core)).flatMap (fun x => x.2.inj.flatMap idOf)
    ++ (s.heldq.flatMap (fun x => x.2.flatMap (fun h => match h with | .word w => idOf w | _ => [])))

/-- What an XFENCE of a first class waits for, when it begins (spec 09 R205): its own accesses at the scope, its own commands, the
contributions of the core. Accesses of class CFG and EXT are performed when they are accepted. -/
def State.firstClass (s : State) (key scope cls : Nat) : List Nat :=
  if cls = 0 then (s.unperformed key scope).map (fun a => a.id)
  else if cls = 4 then s.contributionsOf (coreOf key)
  else ((s.commandsOf (coreOf key) (enginesOf cls)).filter (fun c => c.src = .elem key)).map (fun c => c.id)

/-- What is not yet performed or complete in a core: accesses, commands, contributions, by number. -/
def State.unfinished (s : State) (core : Nat) : List Nat :=
  s.pending.map (fun a => a.id) ++ (s.commandsOf core [0, 1, 2, 3]).map (fun c => c.id) ++ s.contributionsOf core

/-- A firing that lasts until everything it began to watch is done. -/
def Fire.watches (fr : Fire) (s : State) (start : List Nat) : Outc :=
  let l := (if fr.e.busy = some fr.n then fr.e.watch else start).filter (fun i => (s.unfinished fr.core).contains i)
  if l = [] then .done { fr.plain with e := { fr.e with watch := [] } } else .wait { fr.e with watch := l } []

/-- XFENCE (spec 09 R205, 15 R355). -/
def execXfence (f : Slot) (s : State) : Host.Outcome State Fault Refusal :=
  fire f (fun fr s => fr.watches s (s.firstClass fr.key fr.scope (fr.imm 0 3))) s

end Sys2Proof.Machine
end

