-- ==== Sys2Proof/Machine/Matrix.lean ====
section
/-! DEFINITION. The matrix element: banks, descriptors, row buffers, the pass and the partial link (spec 13 R290 to R315). -/

namespace Sys2Proof.Machine

/-- Logical columns of a bank mode (spec 13 R293). -/
def modeCols (mode : BitVec 2) : Nat := match mode.toNat with | 0 => 64 | 3 => 32 | _ => 128

/-- Items of a bank (spec 13 R293): a cell with its poison in bit 8, the mode, the descriptors of a column and half. -/
def MeState.cell (m : MeState) (b k p : Nat) : BitVec 9 := Map.get 0 m.cells (4096 * b + 64 * k + p)
def MeState.modeOf (m : MeState) (b : Nat) : BitVec 2 := Map.get 0 m.mode b
def MeState.cols (m : MeState) (b : Nat) : Nat := modeCols (m.modeOf b)
def MeState.svOf (m : MeState) (b : Nat) : Bool := Map.get false m.sv b
def MeState.xbOf (m : MeState) (b j : Nat) : Int := ((Map.get 0 m.xb (128 * b + j) : BitVec 8)).toInt
def halfKey (b j h : Nat) : Nat := 2 * (128 * b + j) + h
def MeState.sbOf (m : MeState) (b j h : Nat) : BitVec 16 := Map.get 0x3C00 m.sb (halfKey b j h)
def MeState.zbOf (m : MeState) (b j h : Nat) : Int := ((Map.get 0 m.zb (halfKey b j h) : BitVec 8)).toInt
def MeState.pdOf (m : MeState) (b j h : Nat) : Bool := Map.get false m.pd (halfKey b j h)
def MeState.crOf (m : MeState) (j : Nat) : ColReg := Map.get ColReg.zero m.cr j

/-- 2 × the value of an E2M1 nibble (spec 13 R293). -/
def e2m1Twice (x : Nat) : Int := sgn (maskBit x 3) ([0, 1, 2, 3, 4, 6, 8, 12].getD (x % 8) 0)

/-- The integer b_kj that logical column j presents in row k, and the poison of its cells (spec 13 R293). -/
def MeState.weight (m : MeState) (b k j : Nat) : Int × Bool :=
  match (m.modeOf b).toNat with
  | 0 => let c := m.cell b k j; (signExt 8 (c.toNat % 256), c.getLsbD 8)
  | 3 =>
    let lo := m.cell b k (2 * j)
    let hi := m.cell b k (2 * j + 1)
    (signExt 16 (lo.toNat % 256 + hi.toNat % 256 * 256), lo.getLsbD 8 || hi.getLsbD 8)
  | mode =>
    let c := m.cell b k (j / 2)
    let x := if j % 2 = 0 then c.toNat % 16 else c.toNat / 16 % 16
    (if mode = 1 then signExt 4 x else e2m1Twice x, c.getLsbD 8)

/-- Writes the cells of logical column j in row k under a mode. -/
def MeState.setWeight (m : MeState) (mode b k j bits' : Nat) (pois : Bool) : MeState :=
  let put (m : MeState) (p v : Nat) : MeState :=
    { m with cells := Map.set 0 m.cells (4096 * b + 64 * k + p) (BitVec.ofNat 9 (v % 256 + bit01 pois * 256)) }
  match mode with
  | 0 => put m j bits'
  | 3 => put (put m (2 * j) bits') (2 * j + 1) (bits' / 256)
  | _ =>
    let old := (m.cell b k (j / 2)).toNat % 256
    put m (j / 2) (if j % 2 = 0 then old / 16 * 16 + bits' % 16 else old % 16 + bits' % 16 * 16)

/-- The scale of a weight column and half: SB × 2^XB (spec 13 R293). -/
def MeState.colScale (m : MeState) (b j h : Nat) : Val := Val.scale (m.xbOf b j) (floatVal 10 (m.sbOf b j h).toNat)

/-- Whether a finite value is a multiple of 2^q. -/
def onGrid (q : Int) : Val → Bool
  | .fin _ m e => m = 0 || decide (q ≤ e) || (decide ((q - e).toNat ≤ Nat.log2 m) && m % 2 ^ (q - e).toNat = 0)
  | _ => true

/-- A column add (spec 13 R297) under exponent xc; `sticky` are the sticky bits that come with the contribution. -/
def colAdd (xc : Int) (r : ColReg) (c : Val) (sticky : BitVec 5) : ColReg :=
  let f := r.flags ||| sticky
  match c with
  | .nan => { r with flags := f ||| 0b01000 }
  | .inf neg => { r with flags := f ||| (if neg then 0b00100 else 0b00010) }
  | .fin n m e =>
    let t := Val.add .rne (Val.ofInt r.v.toInt xc) (.fin n m e)
    let v : Int := match t with | .fin neg k q => sgn neg (roundMag .rne 0 neg k q xc) | _ => 0
    let f := if onGrid xc t then f else f ||| 0b00001
    if 2 ^ 47 ≤ v.natAbs then { v := 0, flags := f ||| (if v < 0 then 0b00100 else 0b00010) }
    else { v := BitVec.ofInt 48 v, flags := f }

/-- The poison sticky bit. -/
def poisBit (p : Bool) : BitVec 5 := if p then 0b10000 else 0

/-- The signed value of a 9-bit exponent. -/
def xcInt (x : BitVec 9) : Int := x.toInt

/-- Adds contributions into column registers 0 up, in order. -/
def MeState.addColumns (m : MeState) (l : List (Val × BitVec 5)) : MeState :=
  { m with cr := (l.zipIdx).foldl (fun cr x => Map.set ColReg.zero cr x.2 (colAdd (xcInt m.xc) (Map.get ColReg.zero cr x.2) x.1.1 x.1.2)) m.cr }

/-- The column registers all zero (spec 13 R308, R309). -/
def MeState.clearColumns (m : MeState) : MeState := { m with cr := [], rv := false }

/-- Row buffer by number, and its replacement. -/
def MeState.buf (m : MeState) (i : Nat) : RowBuf := if i = 0 then m.rb0 else m.rb1
def MeState.setBuf (m : MeState) (i : Nat) (b : RowBuf) : MeState := if i = 0 then { m with rb0 := b } else { m with rb1 := b }

/-- The number of the buffer in a state, if any. -/
def MeState.bufIn (m : MeState) (st : BufState) : Option Nat := [0, 1].find? (fun i => (m.buf i).state = st)

/-- Makes a buffer ready, the youngest of the two (spec 13 R296, R305). -/
def MeState.close (m : MeState) (i : Nat) : MeState :=
  m.setBuf i { m.buf i with state := .ready, seq := Nat.max m.rb0.seq m.rb1.seq + 1 }

/-- Where a packet of n rows goes (spec 13 R295 steps 2 to 4): the buffer, and the filling buffer it closes first. -/
def MeState.place (m : MeState) (n : Nat) : Option (Nat × Option Nat) :=
  match m.bufIn .filling with
  | some i =>
    if (m.buf i).rows.length + n ≤ 64 then some (i, none)
    else if (m.buf i).rows ≠ [] then (m.bufIn .empty).map (fun j => (j, some i)) else none
  | none => (m.bufIn .empty).map (fun j => (j, none))

/-- The state with rows appended, and the buffer that took them (spec 13 R295, R296: 64 rows make it ready). -/
def MeState.take (m : MeState) (rows : List ARow) : Option (MeState × Nat) :=
  (m.place rows.length).map (fun p =>
    let m := match p.2 with | some i => m.close i | none => m
    let b := m.buf p.1
    let m := m.setBuf p.1 { b with state := .filling, rows := b.rows ++ rows }
    (if 64 ≤ (m.buf p.1).rows.length then m.close p.1 else m, p.1))

/-- Closes the filling buffer, if any. -/
def MeState.closeFilling (m : MeState) : MeState := match m.bufIn .filling with | some i => m.close i | none => m

/-- The rows that a packet's elements make under a header (spec 13 R295). -/
def rowsOf (fmt : Nat) (o : Opnd) (h : HReg) : List ARow :=
  (o.elements fmt).map (fun x => { bits := BitVec.ofNat 16 x.1, pois := x.2 || h.pois, hdr := h })

/-- Value and zero point of a row (spec 13 R294). -/
def ARow.val (r : ARow) (fmt : Nat) : Val := headerVal r.hdr.pay (elemVal fmt r.bits.toNat)
def ARow.zero (r : ARow) : Int := if r.hdr.pay.extractLsb' 0 3 = 1#3 then (r.hdr.pay.extractLsb' 19 8).toInt else 0

/-- The outcome of a matrix cause (spec 13 R300): the trap, or the fallback with one error counted. -/
def Fire.matrixErr (fr : Fire) (cause : Nat) (detail : BitVec 128) (fallback : Done) : Outc :=
  if fr.epol then .trap cause detail else .done { fallback with errs := 1 }

/-- A firing that leaves the matrix element's own state so. -/
def Fire.matrix (fr : Fire) (m : MeState) : Done := { fr.plain with e := { fr.e with me := m } }

/-- Weight formats of MWLD by MOD (spec 13 R298, R301): FMT code, MODE, lane width. -/
def weightFmt (md : Nat) : Nat := match md with | 0 => 0 | 1 => 14 | 2 => 13 | 3 => 11 | 4 => 12 | 5 => 9 | _ => 10
def weightMode (md : Nat) : Nat := match md with | 1 => 1 | 2 => 2 | 5 => 3 | 6 => 3 | _ => 0
def weightBits (md : Nat) : Nat := if 5 ≤ md then 16 else 8

/-- The exponent that an 8-bit XB holds; one that does not fit is left open by the spec, a free value (log 4). -/
def xbValue (x : Int) (n : Nat) : BitVec 8 :=
  if -128 ≤ x ∧ x ≤ 127 then BitVec.ofInt 8 x else (Config.freeValue n).extractLsb' 0 8

/-- One cell that MWLD writes: column, bits, poison, exponent. -/
structure CellWrite where
  col : Nat
  val : Nat
  pois : Bool
  xb : Int
  deriving DecidableEq, Repr

/-- A float weight under the exponent e: none where it is out of range, which a poisoned lane of an operand is not (`exempt`; spec 13 R301). -/
def floatCell (md col : Nat) (x : Val) (e : Int) (pois exempt : Bool) : Option CellWrite :=
  let w := weightBits md
  match x with
  | .fin n m q =>
    if m = 0 then some ⟨col, 0, pois, e - w + 1⟩
    else if e < expoOf m q then (if exempt then some ⟨col, 0, true, e - w + 1⟩ else none)
    else some ⟨col, lowBits w (alignInt (.fin n m q) e w), pois, e - w + 1⟩
  | _ => some ⟨col, 0, true, e - w + 1⟩

/-- The header that MWLD reads: latched on A's input when SA is 4 and HLE is 1 (spec 13 R301). -/
def Fire.weightHeader (fr : Fire) (a : Opnd) : Option HReg := if fr.f.sa = 4 && hdrHle fr.hdr then some a.hdr else none

/-- The cells that MWLD writes, one for each element; none where an element is out of range. -/
def Fire.weightCells (fr : Fire) (a : Opnd) (b : Option Opnd) : List (Option CellWrite) :=
  let md := fr.f.md.toNat
  let h := fr.weightHeader a
  ((a.elements (weightFmt md)).zipIdx).map (fun x =>
    let col := fr.imm 8 7 + x.2
    match b with
    | none =>
      let sc : Int := match h with
        | some h => if h.pay.extractLsb' 0 3 = 0#3 then ((h.pay.extractLsb' 3 8).toNat : Int) - 127 else 0
        | none => 0
      some ⟨col, x.1.1, x.1.2, sc - (if md = 2 then 1 else 0)⟩
    | some b =>
      let v := elemVal (weightFmt md) x.1.1
      floatCell md col (match h with | some h => headerVal h.pay v | none => v) (b.int x.2) (x.1.2 || b.bp x.2)
        (a.pkt.laneP (if a.pkt.crd then 2 * x.2 + 1 else x.2) || b.pkt.laneP (b.index x.2)))

/-- The state after MWLD wrote its cells (spec 13 R301). -/
def Fire.loadWeights (fr : Fire) (a : Opnd) (isInt : Bool) (l : List CellWrite) (free : Nat) : MeState :=
  let md := fr.f.md.toNat
  let mode := weightMode md
  let b := fr.imm 0 2
  let k := fr.imm 2 6
  let m := { fr.e.me with mode := Map.set 0 fr.e.me.mode b (BitVec.ofNat 2 mode), sv := Map.set false fr.e.me.sv b false }
  (l.zipIdx).foldl (fun m x =>
    let w := x.1
    let m := m.setWeight mode b k w.col w.val w.pois
    let m := { m with xb := Map.set 0 m.xb (128 * b + w.col) (xbValue w.xb (free + x.2)) }
    match fr.weightHeader a with
    | some h =>
      if isInt ∧ h.pay.extractLsb' 0 3 = 1#3 then
        let key := halfKey b w.col (k / 32)
        { m with sb := Map.set 0x3C00 m.sb key (h.pay.extractLsb' 3 16), zb := Map.set 0 m.zb key (h.pay.extractLsb' 19 8)
                 pd := Map.set false m.pd key h.pois }
      else m
    | none => m) m

/-- MWLD (spec 13 R301). -/
def execMwld (f : Slot) (s : State) : Host.Outcome State Fault Refusal :=
  fire f (fun fr s => s.withA fr (fun a =>
    let md := fr.f.md.toNat
    let isInt := decide (md < 3)
    let b := if isInt then none else s.opB fr
    match badWidth (lwCode (weightBits md)) [{ a with fixed := false }] with
    | some p => .err 0x22 (widthDetail (lwCode (weightBits md)) p.lw)
    | none =>
      let lensOk := match b with | none => true | some b => a.count = b.count || a.count = 1 || b.count = 1
      if !lensOk then .err 0x20 ((match b with | some b => b.count % 16 * 16 | none => 0) + a.count % 16)
      else if !isInt && b.isNone then .nothing
      else
        let cells := fr.weightCells a b
        let last := fr.imm 8 7 + cells.length - 1
        if modeCols (BitVec.ofNat 2 (weightMode md)) ≤ last then rangeErr 0 last
        else if cells.any (fun c => c.isNone) then
          rangeErr (packFields (cells.map (fun c => (1, bit01 c.isNone))))
            ((((a.elements (weightFmt md)).zip cells).find? (fun x => x.2.isNone)).map (fun x => x.1.1) |>.getD 0)
        else
          let l := cells.filterMap id
          .done { fr.matrix (fr.loadWeights a isInt l s.free) with
                  pre := if l.all (fun c => decide (-128 ≤ c.xb) && decide (c.xb ≤ 127)) then [] else [.free (s.free + l.length)] })) s

/-- MWSEL (spec 13 R302). -/
def execMwsel (f : Slot) (s : State) : Host.Outcome State Fault Refusal :=
  fire f (fun fr _ => .done (fr.matrix { fr.e.me with ab := BitVec.ofNat 2 (fr.imm 0 2) })) s

/-- Writes one column's descriptor for the halves of a mask (spec 13 R303). -/
def MeState.describe (m : MeState) (b j halves lane : Nat) (pois : Bool) : MeState :=
  let m := { m with xb := Map.set 0 m.xb (128 * b + j) (BitVec.ofNat 8 (lane / 2 ^ 24)) }
  [0, 1].foldl (fun m h =>
    if maskBit halves h then
      { m with sb := Map.set 0x3C00 m.sb (halfKey b j h) (BitVec.ofNat 16 lane), zb := Map.set 0 m.zb (halfKey b j h) (BitVec.ofNat 8 (lane / 2 ^ 16))
               pd := Map.set false m.pd (halfKey b j h) pois }
    else m) m

/-- MSCL (spec 13 R303). -/
def execMscl (f : Slot) (s : State) : Host.Outcome State Fault Refusal :=
  fire f (fun fr s => s.withA fr (fun a =>
    if a.pkt.lw ≠ 2 then .err 0x22 (widthDetail 2 a.pkt.lw)
    else
      let b := fr.imm 0 2
      let c0 := fr.imm 8 7
      let cols := fr.e.me.cols b
      let l := a.raws
      if cols < c0 + l.length then
        rangeErr (packFields ((List.range l.length).map (fun i => (1, bit01 (decide (cols ≤ c0 + i)))))) (Nat.max cols c0)
      else .done (fr.matrix ((l.zipIdx).foldl (fun m x => m.describe b (c0 + x.2) (fr.imm 2 2) x.1.1 x.1.2) fr.e.me)))) s

/-- MSUMW (spec 13 R304). -/
def execMsumw (f : Slot) (s : State) : Host.Outcome State Fault Refusal :=
  fire f (fun fr _ =>
    let m := fr.e.me
    let b := fr.imm 0 2
    let total (j h : Nat) : Int := ((List.range 32).map (fun k => (m.weight b (32 * h + k) j).1)).foldl (· + ·) 0
    .done (fr.matrix { m with
      sum := (List.range (m.cols b)).foldl (fun t j => [0, 1].foldl (fun t h => Map.set 0 t (halfKey b j h) (total j h)) t) m.sum
      sv := Map.set false m.sv b true })) s

/-- The older ready buffer (spec 13 R305). -/
def MeState.older (m : MeState) : Option Nat :=
  match decide (m.rb0.state = .ready), decide (m.rb1.state = .ready) with
  | true, true => some (if m.rb0.seq ≤ m.rb1.seq then 0 else 1)
  | true, false => some 0
  | false, true => some 1
  | false, false => none

/-- Present rows of a half, with their numbers. -/
def halfRows (rows : List ARow) (h : Nat) : List (ARow × Nat) := rows.zipIdx.filter (fun x => x.2 / 32 = h)

/-- A half whose present rows hold two zero points, with the two (spec 13 R305). -/
def mixedZero (rows : List ARow) : Option (Nat × Int × Int) :=
  [0, 1].findSome? (fun h =>
    match halfRows rows h with
    | [] => none
    | x :: l => (l.find? (fun y => y.1.zero ≠ x.1.zero)).map (fun y => (h, x.1.zero, y.1.zero)))

/-- The exact sum of column j over present rows, and its poison (spec 13 R305). A finite term with a zero weight adds nothing. -/
def MeState.columnSum (m : MeState) (b j : Nat) (vals : List Val) (rows : List ARow) : Val × Bool :=
  let sc (h : Nat) : Val := m.colScale b j h
  let terms := ((vals.zip rows).zipIdx).filterMap (fun x =>
    let w := (m.weight b x.2 j).1
    let k := sc (x.2 / 32)
    if w = 0 && x.1.1.isFinite && k.isFinite then none else some (Val.mul x.1.1 (Val.mul k (Val.ofInt w 0))))
  (if terms = [] then .fin false 0 0 else Val.sum .rne terms,
   rows.zipIdx.any (fun x => x.1.pois || (m.weight b x.2 j).2 || m.pdOf b j (x.2 / 32)))

/-- Row sum of a half (spec 13 R305, RA_h). -/
def rowSum (vals : List Val) (rows : List ARow) (h : Nat) : RowSum :=
  let l := ((vals.zip rows).zipIdx).filter (fun x => x.2 / 32 = h)
  { val := Val.sum .rne (l.map (fun x => x.1.1)), pois := l.any (fun x => x.1.2.pois) }

/-- The pass over the older ready buffer (spec 13 R305). -/
def Fire.pass (fr : Fire) : Outc :=
  let m := fr.e.me
  match m.older with
  | none => .nothing
  | some i =>
    let rows := (m.buf i).rows
    let b := m.ab.toNat
    let cols := m.cols b
    let emptied := m.setBuf i RowBuf.none
    let fallback := fr.matrix { emptied with
      rv := false
      cr := (List.range cols).foldl (fun cr j => let r := Map.get ColReg.zero cr j; Map.set ColReg.zero cr j { r with flags := r.flags ||| poisBit true }) m.cr }
    match mixedZero rows with
    | some (h, z0, z1) => fr.matrixErr 0x40 (detailOf [(1, h), (8, lowBits 8 z0), (8, lowBits 8 z1)]) fallback
    | none =>
      if rows.any (fun r => r.zero ≠ 0) && !m.svOf b then fr.matrixErr 0x41 (detailOf [(2, b)]) fallback
      else
        let vals := rows.map (fun r => r.val fr.fmt)
        let sums := (List.range cols).map (fun j => let q := m.columnSum b j vals rows; (q.1, poisBit q.2))
        .done (fr.matrix { emptied.addColumns sums with
          lb := m.ab, ra0 := rowSum vals rows 0, ra1 := rowSum vals rows 1, rv := true
          ab := if fr.md 1 then m.ab + 1 else m.ab })

/-- When the slot is ready to fire, beyond the guard (spec 07 R154). -/
def Fire.readyMpass (fr : Fire) (_ : State) : Bool :=
  fr.e.me.older.isSome

/-- MPASS on intake rows, and on fed rows (spec 13 R305). -/
def execMpass (f : Slot) (s : State) : Host.Outcome State Fault Refusal :=
  fireWhen f Fire.readyMpass (fun fr _ => fr.pass) s
/-- When the slot is ready to fire, beyond the guard (spec 07 R154). -/
def Fire.readyMpassFeed (fr : Fire) (_ : State) : Bool :=
  fr.e.me.older.isSome

def execMpassFeed (f : Slot) (s : State) : Host.Outcome State Fault Refusal :=
  fireWhen f Fire.readyMpassFeed (fun fr _ => fr.pass) s

/-- When the slot is ready to fire, beyond the guard (spec 07 R154): only when the rows find a place (13 R306). -/
def Fire.readyMfeed (fr : Fire) (s : State) : Bool :=
  match s.opA fr with
      | some a => (fr.e.me.place (a.elements fr.fmt).length).isSome
      | none => false

/-- MFEED (spec 13 R306). -/
def execMfeed (f : Slot) (s : State) : Host.Outcome State Fault Refusal :=
  fireWhen f Fire.readyMfeed
    (fun fr s => s.withA fr (fun a => fr.widthOk [a] (
      let h := if (fr.f.sa = 4 || fr.f.sa = 5) && hdrHle fr.hdr then a.hdr else HReg.neutral
      match fr.e.me.take (rowsOf fr.fmt a h) with
      | none => .nothing
      | some (m, i) => .done (fr.matrix (if fr.md 0 && (m.buf i).state = .filling then m.close i else m))))) s

/-- MZPC (spec 13 R307). -/
def execMzpc (f : Slot) (s : State) : Host.Outcome State Fault Refusal :=
  fire f (fun fr _ =>
    let m := fr.e.me
    if !m.rv then fr.matrixErr 0x42 0 fr.plain
    else
      let b := m.lb.toNat
      let ra (h : Nat) : RowSum := if h = 0 then m.ra0 else m.ra1
      let adds := (List.range (m.cols b)).map (fun j =>
        let term (h : Nat) : Val := Val.mul (Val.mul (Val.ofInt (m.zbOf b j h) 0) (m.colScale b j h)) (ra h).val
        ((Val.add .rne (term 0) (term 1)).negate, poisBit ((ra 0).pois || (ra 1).pois || m.pdOf b j 0 || m.pdOf b j 1)))
      .done (fr.matrix { m.addColumns adds with rv := false })) s

/-- The code under which an arrival in a partial input buffer is kept from sight for its cycle (spec 13 R291). -/
def pinFresh (key : Nat) : Nat := 400000 + key
/-- The partial row that an element can use. -/
def State.pinOf (s : State) (key : Nat) : Option PartialRow := if s.fresh.contains (pinFresh key) then none else (s.elem key).pin

/-- Whether a wave that the element pushed on os is not yet acted on by its south neighbour (spec 13 R291). -/
def State.waveBelow (s : State) (fr : Fire) : Bool :=
  let south := s.elem (fr.key + 16)
  maskBit (hdrWout fr.hdr) 2
    && ((match fr.e.out 2 with | some p => p.kind = kWave | none => false)
        || (south.queue 0).any (fun p => p.kind = kWave) || south.commitCount 0 ≠ 0)

/-- The row of a partial link: XC, n and the first n columns (spec 13 R308). -/
def MeState.row (m : MeState) (n : Nat) (extra : BitVec 5) : PartialRow :=
  { xc := m.xc, n := n, cols := (List.range n).foldl (fun c j => Map.set ColReg.zero c j { m.crOf j with flags := (m.crOf j).flags ||| extra }) [] }

/-- A partial row's column as a contribution (spec 13 R297, R291). -/
def PartialRow.col (p : PartialRow) (j : Nat) : ColReg := Map.get ColReg.zero p.cols j
def PartialRow.value (p : PartialRow) (j : Nat) : Val := Val.ofInt (p.col j).v.toInt (xcInt p.xc)

/-- When the slot is ready to fire, beyond the guard (spec 07 R154). -/
def Fire.readyMout (fr : Fire) (s : State) : Bool :=
  (s.elem (fr.key + 16)).pin.isNone && !s.waveBelow fr && (!fr.md 0 || (s.pinOf fr.key).isSome)

/-- MOUT (spec 13 R308): the row lands in the south PIN at the end of the firing. -/
def execMout (f : Slot) (s : State) : Host.Outcome State Fault Refusal :=
  fireWhen f Fire.readyMout
    (fun fr s =>
      let m := fr.e.me
      let n := m.cols m.ab.toNat
      let south := s.elem (fr.key + 16)
      let send (m : MeState) (extra : BitVec 5) : Done :=
        { fr.plain with
          e := { fr.e with me := m.clearColumns, pin := if fr.md 0 then none else fr.e.pin }
          pre := [.elem (fr.key + 16) { south with pin := some (m.row n extra) }, .fresh (pinFresh (fr.key + 16))] }
      if fr.md 0 then
        match s.pinOf fr.key with
        | none => .nothing
        | some p =>
          if p.n ≠ n then fr.matrixErr 0x43 (detailOf [(8, n), (8, p.n)]) (send m (poisBit true))
          else .done (send (m.addColumns ((List.range n).map (fun j => (p.value j, (p.col j).flags)))) 0)
      else .done (send m 0)) s

/-- MCLR (spec 13 R309). -/
def execMclr (f : Slot) (s : State) : Host.Outcome State Fault Refusal :=
  fire f (fun fr _ =>
    let m := { fr.e.me.clearColumns with xc := BitVec.ofNat 9 (fr.imm 0 9) }
    let m := if fr.md 0 then { m with rb0 := RowBuf.none, rb1 := RowBuf.none } else m
    let d := fr.matrix m
    .done { d with e := { d.e with pin := if fr.md 1 then none else d.e.pin } }) s

/-- The status of a matrix element (spec 13 R310). -/
def MeState.status (m : MeState) (pinFull : Bool) : Nat :=
  let stk := (m.cr.foldl (fun (a : BitVec 5) x => a ||| x.2.flags) 0).toNat
  let fill := match m.bufIn .filling with | some i => (m.buf i).rows.length | none => 0
  let rdy := bit01 (m.rb0.state = .ready) + bit01 (m.rb1.state = .ready)
  packFields [(2, m.ab.toNat), (2, (m.modeOf m.ab.toNat).toNat), (1, bit01 (m.svOf 0)), (1, bit01 (m.svOf 1)), (1, bit01 (m.svOf 2)),
    (1, bit01 (m.svOf 3)), (1, bit01 m.rv), (2, m.lb.toNat), (2, rdy), (7, fill), (1, bit01 pinFull), (5, stk)]

/-- MSTAT (spec 13 R310). -/
def execMstat (f : Slot) (s : State) : Host.Outcome State Fault Refusal :=
  fire f (fun fr s =>
    .done (fr.result (dataPacket 2 fr.f.ot false [(fr.e.me.status (s.pinOf fr.key).isSome, false), (fr.e.me.xc.toNat, false)]))) s

end Sys2Proof.Machine
end

