-- ==== Sys2Proof/Machine/Accum.lean ====
section
/-! DEFINITION. Accumulate elements, ranges and the words of the accumulate network (spec 14 R316 to R342, 04 R95 to R97). -/

namespace Sys2Proof.Machine

/-- The firing of a slot of an element in its current context, from the image (spec 08 R166). -/
def State.firingOf (s : State) (key n : Nat) : Fire :=
  let e := s.elem key
  let ctx := e.ctx.toNat
  { key := key, ctx := ctx, n := n, f := (slotOf (s.slotBitsAt key ctx n)).2, e := e, hdr := s.header key ctx, rt := s.routing key ctx }

/-- The live range that holds an entry of a core, and the one that begins at an entry (spec 14 R319). -/
def RangeDesc.holds (r : RangeDesc) (n : Nat) : Bool := r.live && decide (r.first ≤ n) && decide (n < r.first + r.count)
def State.rangeAt (s : State) (core n : Nat) : Option Nat := (List.range 64).find? (fun i => (s.range core i).holds n)
def State.rangeFrom (s : State) (core first : Nat) : Option Nat :=
  (List.range 64).find? (fun i => (s.range core i).live && (s.range core i).first = first)

/-- The live range that a new one would meet. -/
def State.rangeMeets (s : State) (core first count : Nat) : Option Nat :=
  (List.range 64).find? (fun i => (s.range core i).live && overlaps (s.range core i).first (s.range core i).count first count)

/-- The lowest descriptor that is free and outside its quarantine (spec 14 R319, R328). -/
def State.freeRange (s : State) (core : Nat) : Option Nat :=
  (List.range 64).find? (fun i => !(s.range core i).live && decide ((s.range core i).freeAt ≤ s.cycle.toNat))

/-- Makes a descriptor live (spec 14 R319, R328): a new generation, counts zero. -/
def State.reserve (s : State) (core dix first count exp : Nat) (x : BitVec 9) (rid : BitVec 16) (tcid : Nat) : Effect :=
  .range (64 * core + dix)
    { rid := rid, tcid := tcid, mrk := 0, bnds := 0, arr := 0, exp := exp, gen := (s.range core dix).gen + 1, live := true, err := false
      cause := 0, x := x, count := count, first := first, freeAt := (s.range core dix).freeAt }

/-- Clears LIVE; the descriptor is free again 65,536 cycles later (spec 14 R319, R335). -/
def State.releaseRange (s : State) (core dix : Nat) : Effect :=
  .range (64 * core + dix) { s.range core dix with live := false, freeAt := s.cycle.toNat + 65536 }

/-- Sets ERR of a range if it was clear. -/
def RangeDesc.setErr (r : RangeDesc) (cause : Nat) : RangeDesc := if r.err then r else { r with err := true, cause := cause }

/-- A contribution added to an entry of a live range (spec 14 R320). -/
def State.addTo (s : State) (core dix n : Nat) (w : BitVec 128) : List Effect :=
  let r := s.range core dix
  let arr := Nat.min (r.arr + 1) (2 ^ 32 - 1)
  let r := { r with arr := arr }
  s.amFix core [n] ++ [.am (32768 * core + n) (waAdd (s.amEntry core n) w), .range (64 * core + dix) (if r.exp < r.arr then r.setErr 0x49 else r)]

/-- Adds of several contributions in order. -/
def State.addAll (s : State) (core : Nat) : List (Nat × Nat × BitVec 128) → List Effect
  | [] => []
  | (dix, n, w) :: l =>
    let now := s.addTo core dix n w
    now ++ (s.apply now).addAll core l

/-- The bits of a WA128 word (spec 03 R72): bits [127:109] of a word that data lanes carry are dropped (log 50). -/
def waMask (x : Nat) : BitVec 128 := BitVec.ofNat 128 (x % 2 ^ 109)

/-- Sticky bits of a column as those of a word (spec 14 R327, 03 R72). -/
def colSticky (f : BitVec 5) : BitVec 128 :=
  BitVec.ofNat 128 (packFields [(104, 0), (1, bit01 (f.getLsbD 0)), (1, bit01 (f.getLsbD 4)), (1, bit01 (f.getLsbD 1)), (1, bit01 (f.getLsbD 2)),
    (1, bit01 (f.getLsbD 3))])

/-- A contribution before it is aligned: a value of a data lane, a whole word, or a column of a partial row (spec 14 R327). -/
inductive Item where
  | val (v : Val) (pois : Bool)
  | word (w : BitVec 128)
  | col (v : Val) (flags : BitVec 5)
  deriving DecidableEq, Repr

/-- The word that joins a range of exponent x (spec 14 R327, 03 R73). -/
def Item.join (it : Item) (x : Int) : BitVec 128 :=
  match it with
  | .val v p => waContribution v p x
  | .word w => w
  | .col v f => waContribution v false x ||| colSticky f

/-- The items of a data operand, or that its length in lanes is odd with FMT 0x10 (spec 14 R326). -/
def Fire.items (fr : Fire) (a : Opnd) : Option (List Item) :=
  if fr.fmt = 16 then
    if a.pkt.lanes % 2 = 1 then none
    else some ((List.range (a.pkt.lanes / 2)).map (fun i =>
      let w := waMask ((a.raw (2 * i)).1 + (a.raw (2 * i + 1)).1 * 2 ^ 64)
      .word (if (a.raw (2 * i)).2 || (a.raw (2 * i + 1)).2 then w ||| 1#128 <<< 105 else w)))
  else some (a.values.map (fun x => .val (a.value fr.fmt x.1) x.2))

/-- The items of a partial row. -/
def PartialRow.items (p : PartialRow) : List Item := (List.range p.n).map (fun j => .col (p.value j) (p.col j).flags)

/-- The common length of items and entry lanes (spec 06 R126, 14 R326). -/
def itemLength (a : Opnd) (n : Nat) (b : Opnd) : Option Nat :=
  let ns := ((if a.isConst then [] else [n]) ++ (if b.isConst then [] else [b.count])).filter (fun k => k ≠ 1)
  match ns with
  | [] => some (if a.isConst then n else if b.isConst then b.count else 1)
  | k :: l => if l.all (fun j => j = k) then some k else none

/-- Item i of a list; one item alone is broadcast. -/
def itemAt (l : List Item) (i : Nat) : Item := l.getD (if l.length = 1 then 0 else i) (.val (.fin false 0 0) false)

/-- The least number of 32-bit lanes that a descriptor operand has, read from A (spec 14 R325). -/
def State.descLanes (s : State) (fr : Fire) (need : Nat) : Except Outc (List Nat) :=
  let packet : Option (Packet × Bool) :=
    if fr.f.sa = 6 then some ((fr.e.kReg (fr.imm 0 2)).packet 32 0, true)
    else (s.opA fr).map (fun a => ({ a.pkt with pois := BitVec.ofNat 8 (packFields (a.raws.map (fun x => (1, bit01 x.2)))) }, false))
  match packet with
  | none => .error .nothing
  | some (p, isK) =>
    if !isK && p.lw ≠ 2 then .error (.err 0x22 (widthDetail 2 p.lw))
    else if p.lanes < need then .error (lengthErr need p.lanes)
    else if (List.range p.lanes).any p.laneP then .error (.err 0x32 0)
    else .ok ((List.range need).map p.lane)

/-- Runs on with the lanes of a descriptor operand. -/
def State.withDesc (s : State) (fr : Fire) (need : Nat) (k : List Nat → Outc) : Outc :=
  match s.descLanes fr need with
  | .error o => o
  | .ok l => k l

/-- Runs on if a descriptor's values are within their limits; else the first that is not (spec 14 R325). -/
def limited (l : List (Bool × Nat)) (k : Outc) : Outc :=
  match l.find? (fun x => !x.1) with
  | some x => rangeErr 0 x.2
  | none => k

/-- FIRST and X of a descriptor lane (spec 14 R325). -/
def firstOf (v : Nat) : Nat := v % 2 ^ 15
def xOf (v : Nat) : BitVec 9 := BitVec.ofNat 9 (v / 2 ^ 16)
def firstXOk (v : Nat) : Bool := bits v 15 1 = 0 && bits v 25 7 = 0

/-- A chain register of an element, and the firing's own (IMM[4]). -/
def Elem.chain (e : Elem) (i : Nat) : Chain := Map.get Chain.reset e.chains i
def Elem.setChain (e : Elem) (i : Nat) (c : Chain) : Elem := { e with chains := Map.set Chain.reset e.chains i c }
def Fire.chainNo (fr : Fire) : Nat := fr.imm 4 1
def Fire.chain (fr : Fire) : Chain := fr.e.chain fr.chainNo

/-- The physical package and core of a logical core of a logical package in the launch that holds an element (spec 14 R329, R341, 16 R363). -/
def State.resolve (s : State) (key lpkg lcore : Nat) : Option (Nat × Nat) :=
  match s.regionOf key with
  | none => none
  | some b => match s.launch? (s.region b).launch with
    | none => none
    | some l =>
      if lcore < l.ncores then (l.place[lpkg * l.ncores + lcore]?).map (fun p => if p < 512 then (s.pkgNum, p) else (p / 512 - 1, p % 512)) else none

/-- Where a chain's words go. -/
def State.chainSite (s : State) (key : Nat) (c : Chain) : Nat × Nat := (s.resolve key c.pkg c.lcore).getD (s.pkgNum, c.core)

/-- Whether a package is this one or has a valid route (spec 18 R427). -/
def State.inDomain (s : State) (pkg : Nat) : Bool := pkg = s.pkgNum || (Map.get 0 s.routes pkg).getLsbD 6

/-- The address of an AM entry in a core's window (spec 01 R21). -/
def amAddr (core n : Nat) : Nat := winBase core + 0x280000 + 16 * n

/-- The words that a chain's contributions make, in order, numbered from the next number. -/
def State.chainWords (s : State) (key ci : Nat) (c : Chain) (l : List (Nat × BitVec 128)) : List AccWord :=
  let q := s.chainSite key c
  (l.zipIdx).map (fun x => .contrib (s.nextId + x.2) q.1 q.2 (c.first + x.1.1) x.1.2 c.dix c.gen key ci)

/-- The unbind and the marker of a chain register (spec 14 R316, R329, R340). -/
def State.unbindWord (s : State) (key : Nat) (c : Chain) : AccWord :=
  .unbind (s.chainSite key c).1 (s.chainSite key c).2 c.first c.dix c.gen key
def State.markerWord (s : State) (key : Nat) (c : Chain) : AccWord :=
  .marker (s.chainSite key c).1 (s.chainSite key c).2 c.first c.dix c.gen key

/-- The values of ACHAIN's descriptor within their limits (spec 14 R325). -/
def chainOk (l : List Nat) : List (Bool × Nat) :=
  let v (i : Nat) : Nat := l.getD i 0
  [(decide (v 0 < 2 ^ 15), v 0), (firstXOk (v 1), v 1), (decide (v 2 < 2 ^ 15), v 2), (decide (v 3 ≤ 32768), v 3), (decide (1 ≤ v 4), v 4)]

/-- The bind request of an ACHAIN whose descriptor is l, to its resolved package and core (spec 14 R329). -/
def State.bindWord (s : State) (fr : Fire) (l : List Nat) (q : Nat × Nat) : AccWord :=
  .bindReq q.1 q.2 (firstOf (l.getD 1 0)) (xOf (l.getD 1 0)) (s.tcidOf fr.key) fr.key fr.chainNo

/-- The bind state of a chain register. -/
def Elem.bindOf (e : Elem) (i : Nat) : BindState := Map.get .idle e.binds i
def Elem.setBind (e : Elem) (i : Nat) (b : BindState) : Elem := { e with binds := Map.set .idle e.binds i b }

/-- ACHAIN (spec 14 R329): steps 1 to 3; BIND_ANSWER loads the register and ends the firing. The package of its operand is a logical one of the
launch (16 R363, log 48). -/
def execAchain (f : Slot) (s : State) : Host.Outcome State Fault Refusal :=
  fire f (fun fr s => s.withDesc fr 5 (fun l => limited (chainOk l) (
    if fr.e.bindOf fr.chainNo ≠ .idle then .wait fr.e []
    else
      let c := fr.chain
      let e1 := if c.bound then { fr.e.setChain fr.chainNo { c with bound := false } with inj := fr.e.inj ++ [s.unbindWord fr.key c] } else fr.e
      match (s.resolve fr.key (bits (l.getD 0 0) 9 6) (l.getD 0 0 % 512)).filter (fun q => s.inDomain q.1) with
      | some q =>
        if s.cutOff q.1 then trapOf (linkFail q.1 (amAddr q.2 (firstOf (l.getD 1 0))))
        else .wait (e1.setBind fr.chainNo .asked) [.accNet (s.accNet ++ [s.bindWord fr l q])]
      | none => (match rangeErr 0 (l.getD 0 0) with
          | .err c det => if fr.epol then .err c det else .done { fr.errDone c det with e := e1 }
          | o => o)))) s

/-- The traps of a range conflict, a full table, unequal exponents (spec 14 R342). -/
def conflictTrap (first : Nat) : Outc := .trap 0x45 (detailOf [(15, first)])
def exponentTrap (a b : BitVec 9) : Outc := .trap 0x47 (detailOf [(9, a.toNat), (9, b.toNat)])

/-- The RID of an element's region. -/
def State.ridOf (s : State) (key : Nat) : BitVec 16 := match s.regionOf key with | some b => (s.region b).rid | none => 0

/-- ARSV (spec 14 R328). -/
def execArsv (f : Slot) (s : State) : Host.Outcome State Fault Refusal :=
  fire f (fun fr s => s.withDesc fr 3 (fun l =>
    let first := firstOf (l.getD 0 0)
    let count := l.getD 1 0
    let exp := l.getD 2 0
    limited [(firstXOk (l.getD 0 0), l.getD 0 0), (decide (1 ≤ count) && decide (first + count ≤ 32768), count), (decide (1 ≤ exp), exp)] (
      match s.rangeMeets fr.core first count with
      | some d => conflictTrap (s.range fr.core d).first
      | none =>
        match s.freeRange fr.core with
        | none => .trap 0x46 0
        | some d => .done { fr.plain with pre := [s.reserve fr.core d first count exp (xOf (l.getD 0 0)) (s.ridOf fr.key) (s.tcidOf fr.key)] }))) s

/-- A firing that has words to put into the injection buffer, one a cycle while it has room for eight (spec 14 R318, R322): in progress until
the last has entered it. `d` ends the firing, `pre` are the changes of its first cycle. -/
def Fire.feeds (fr : Fire) (words : List AccWord) (pre : List Effect) (d : Done) : Outc :=
  match fr.e.feed.getD words with
  | [] => .done d
  | w :: rest =>
    if 8 ≤ fr.e.inj.length then .wait { fr.e with feed := some (w :: rest) } (if fr.e.feed.isSome then [] else pre)
    else if rest = [] then
      .done { d with e := { d.e with inj := fr.e.inj ++ [w], feed := none }, pre := if fr.e.feed.isSome then [] else pre }
    else .wait { fr.e with inj := fr.e.inj ++ [w], feed := some rest } (if fr.e.feed.isSome then [] else pre)

/-- Sends items on the chain register to offsets (spec 14 R330): checks of the bound and of NSEND, poisoned entry lanes skipped. `detail` is the
index that a lane out of range records; `clear` are the changes that come with reading the items. -/
def Fire.sendsOn (fr : Fire) (s : State) (its : List (Item × (Int × Bool))) (detail : Nat → Nat) (k : Chain → Chain) (pin : Option PartialRow)
    (clear : List Effect) : Outc :=
  let c := fr.chain
  let out (x : Item × (Int × Bool)) : Bool := !x.2.2 && decide ((c.count : Int) ≤ x.2.1)
  if fr.e.feed.isNone && its.any out then
    rangeErr (packFields (its.map (fun x => (1, bit01 (out x))))) (detail ((its.findIdx? out).getD 0) % 2 ^ 24)
  else if fr.e.feed.isNone && decide (c.nsend < c.sent + its.length) then rangeErr 0 (c.sent + its.length)
  else
    let go := its.filter (fun x => !x.2.2)
    let w := s.chainWords fr.key fr.chainNo c (go.map (fun x => (x.2.1.toNat, x.1.join c.x.toInt)))
    fr.feeds w (.nextId (s.nextId + w.length) :: clear)
      { fr.plain with
        e := { fr.e.setChain fr.chainNo { k c with sent := c.sent + go.length } with pin := pin }
        errs := its.length - go.length }

/-- Runs on if the chain register is bound (spec 14 R330: cause 0x48). -/
def Fire.bound (fr : Fire) (k : Outc) : Outc := if fr.chain.bound then k else .trap 0x48 (detailOf [(1, fr.chainNo)])

/-- Runs on with the items of a data operand of the slot's width (spec 14 R326). -/
def Fire.withItems (fr : Fire) (a : Opnd) (bLen : Nat) (k : List Item → Outc) : Outc :=
  fr.widthOk [a] (match fr.items a with | none => .err 0x20 (bLen % 16 * 16 + a.pkt.lanes % 16) | some l => k l)

/-- ASEND from a packet (spec 14 R330). -/
def execAsend (f : Slot) (s : State) : Host.Outcome State Fault Refusal :=
  fire f (fun fr s => fr.bound (s.withA fr (fun a => fr.withItems a 0 (fun its =>
    let c := fr.chain
    fr.sendsOn s ((its.zipIdx).map (fun x => (x.1, (((c.base + c.cur + x.2 : Nat) : Int), false)))) (fun i => c.base + c.cur + i)
      (fun c => { c with cur := c.cur + its.length }) fr.e.pin [])))) s

/-- ASEND to indexed entries (spec 14 R330). -/
def execAsendIdx (f : Slot) (s : State) : Host.Outcome State Fault Refusal :=
  fire f (fun fr s => fr.bound (s.withAB fr (fun a b => fr.withItems a b.count (fun its =>
    match itemLength a its.length b with
    | none => .err 0x20 (b.count % 16 * 16 + a.count % 16)
    | some k =>
      fr.sendsOn s ((List.range k).map (fun i => (itemAt its i, (((fr.chain.base + b.bl i : Nat) : Int), b.bp i)))) b.bl (fun c => c) fr.e.pin [])))) s

/-- When the slot is ready to fire, beyond the guard (spec 07 R154). -/
def Fire.readyAsendPin (fr : Fire) (s : State) : Bool :=
  (s.pinOf fr.key).isSome

/-- ASEND from the partial row (spec 14 R330): eligible only while the PIN is full. -/
def execAsendPin (f : Slot) (s : State) : Host.Outcome State Fault Refusal :=
  fireWhen f Fire.readyAsendPin (fun fr s => fr.bound (
    match s.pinOf fr.key with
    | none => .nothing
    | some p =>
      let c := fr.chain
      fr.sendsOn s ((p.items.zipIdx).map (fun x => (x.1, (((c.base + c.cur + x.2 : Nat) : Int), false)))) (fun i => c.base + c.cur + i)
        (fun c => { c with cur := c.cur + c.rstr }) none [])) s

/-- The outcome of an entry outside every live range (spec 14 R326, R342): a trap that records core, package, entry and chain (0 where the firing
names none), or the ERR token of R189. -/
def Fire.notReserved (fr : Fire) (s : State) (mask entry chain : Nat) : Outc :=
  if fr.epol then .trap 0x44 (detailOf [(9, fr.core), (6, s.pkgNum), (15, entry), (1, chain)]) else .err 0x44 (mask % 256 * 2 ^ 24 + entry % 2 ^ 24)

/-- Runs on with the ranges of unpoisoned entries of this core (spec 14 R326). -/
def Fire.inRanges (fr : Fire) (s : State) (l : List (Nat × Bool)) (k : List (Option Nat) → Outc) : Outc :=
  ranged 32767 l (
    let ds := l.map (fun x => if x.2 then none else s.rangeAt fr.core x.1)
    let bad (x : (Nat × Bool) × Option Nat) : Bool := !x.1.2 && x.2.isNone
    let z := l.zip ds
    if z.any bad then fr.notReserved s (packFields (z.map (fun x => (1, bit01 (bad x))))) (((z.find? bad).map (fun x => x.1.1)).getD 0) 0
    else k ds)

/-- Adds items to entries of this core (spec 14 R331), each aligned to the range that holds it. -/
def Fire.adds (fr : Fire) (s : State) (its : List (Item × (Nat × Bool))) (pin : Option PartialRow) : Outc :=
  fr.inRanges s (its.map (fun x => x.2)) (fun ds =>
    let go := (its.zip ds).filterMap (fun x => match x.2 with
      | some d => some (d, x.1.2.1, x.1.1.join (s.range fr.core d).x.toInt)
      | none => none)
    .done { fr.plain with e := { fr.e with pin := pin }, errs := poisonedCount (its.map (fun x => x.2)), pre := s.addAll fr.core go })

/-- AADD of data lanes (spec 14 R331). -/
def execAadd (f : Slot) (s : State) : Host.Outcome State Fault Refusal :=
  fire f (fun fr s => s.withAB fr (fun a b => fr.withItems a b.count (fun its =>
    match itemLength a its.length b with
    | none => .err 0x20 (b.count % 16 * 16 + a.count % 16)
    | some k => fr.adds s ((List.range k).map (fun i => (itemAt its i, (b.bl i, b.bp i)))) fr.e.pin))) s

/-- When the slot is ready to fire, beyond the guard (spec 07 R154). -/
def Fire.readyAaddPin (fr : Fire) (s : State) : Bool :=
  (s.pinOf fr.key).isSome

/-- AADD of the partial row (spec 14 R331). -/
def execAaddPin (f : Slot) (s : State) : Host.Outcome State Fault Refusal :=
  fireWhen f Fire.readyAaddPin (fun fr s => s.withB fr (fun b =>
    match s.pinOf fr.key with
    | none => .nothing
    | some p =>
      if b.bp 0 then .done { fr.plain with e := { fr.e with pin := none }, errs := 1 }
      else fr.adds s ((p.items.zipIdx).map (fun x => (x.1, (b.nat 0 + x.2, false)))) none)) s

/-- AWR (spec 14 R333). -/
def execAwr (f : Slot) (s : State) : Host.Outcome State Fault Refusal :=
  fire f (fun fr s => s.withAB fr (fun a b => fr.withItems a b.count (fun its =>
    match itemLength a its.length b with
    | none => .err 0x20 (b.count % 16 * 16 + a.count % 16)
    | some k =>
      let l := (List.range k).map (fun i => (b.bl i, b.bp i))
      ranged 32767 l (
        .done { fr.plain with errs := poisonedCount l
                              pre := (l.zipIdx).flatMap (fun x =>
                                if x.1.2 then [] else [.am (32768 * fr.core + x.1.1) ((itemAt its x.2).join (signExt 9 (fr.imm 4 9)))]) })))) s

/-- The limits of a first entry and a count (spec 14 R325). -/
def spanOk (first count most : Nat) : List (Bool × Nat) :=
  [(decide (first ≤ 32767), first), (decide (1 ≤ count) && decide (count ≤ most), count)]

/-- ACLR (spec 14 R333): an entry beyond the last is out of range (09 R189). -/
def execAclr (f : Slot) (s : State) : Host.Outcome State Fault Refusal :=
  fire f (fun fr s => s.withDesc fr 2 (fun l => limited (spanOk (l.getD 0 0) (l.getD 1 0) 2048) (
    limited [(decide (l.getD 0 0 + l.getD 1 0 ≤ 32768), 32768)] (
      .done { fr.plain with pre := [.amClear (32768 * fr.core + l.getD 0 0) (32768 * fr.core + l.getD 0 0 + l.getD 1 0)] })))) s

/-- Entries per result packet (spec 14 R334). -/
def Fire.readCap (fr : Fire) : Nat := if fr.fmt = 16 then 2 else Nat.min 8 (256 / fr.w)

/-- The result lanes of entries, each read and rounded under its range, in order (spec 14 R334, 03 R76), and the generator after. -/
def Fire.readout (fr : Fire) (s : State) (l : List ((Nat × Bool) × Option Nat)) : List (Nat × Bool) × BitVec 32 :=
  if fr.fmt = 16 then
    (l.flatMap (fun x =>
      if x.1.2 then [(0, true), (0, true)]
      else
        let w := s.amEntry fr.core x.1.1
        [(w.toNat % 2 ^ 64, w.getLsbD 105), (w.toNat / 2 ^ 64, w.getLsbD 105)]), fr.e.rng)
  else
    let d := draws fr.rm l.length fr.e.rng
    ((l.zip d.1).map (fun x =>
      if x.1.1.2 then (0, true)
      else
        let w := s.amEntry fr.core x.1.1.1
        (waRead w (s.range fr.core (x.1.2.getD 0)).x.toInt fr.fmt fr.rm x.2 (fr.md 1), w.getLsbD 105)), d.2)

/-- What reading the entries of lanes does to those with errors (spec 04 R83); a poisoned lane reads none. -/
def State.amRead (s : State) (core : Nat) (l : List (Nat × Bool)) : List Effect :=
  s.amFix core ((l.filter (fun x => !x.2)).map (fun x => x.1))

/-- Runs on with the ranges of entries to read: a raw read needs none (spec 14 R334). -/
def Fire.readRanges (fr : Fire) (s : State) (l : List (Nat × Bool)) (k : List (Option Nat) → Outc) : Outc :=
  if fr.fmt = 16 then ranged 32767 l (k (l.map (fun _ => none))) else fr.inRanges s l k

/-- ARD (spec 14 R334). -/
def execArd (f : Slot) (s : State) : Host.Outcome State Fault Refusal :=
  fire f (fun fr s => s.withA fr (fun a =>
    let l := a.raws
    if fr.readCap < l.length then lengthErr fr.readCap l.length
    else fr.readRanges s l (fun ds =>
      let q := fr.readout s (l.zip ds)
      .done { fr.lanesRng q.1 q.2 with pre := s.amRead fr.core l }))) s

/-- AFLSH (spec 14 R334). -/
def execAflsh (f : Slot) (s : State) : Host.Outcome State Fault Refusal :=
  fire f (fun fr s => s.withDesc fr 2 (fun l => limited (spanOk (l.getD 0 0) (l.getD 1 0) 32768 ++ [(decide (l.getD 0 0 + l.getD 1 0 ≤ 32768), l.getD 1 0)]) (
    let first := l.getD 0 0
    let c := l.getD 1 0
    let fc := if c ≤ fr.e.fc then 0 else fr.e.fc
    let n := Nat.min fr.readCap (c - fc)
    let es := (List.range n).map (fun i => (first + fc + i, false))
    fr.readRanges s es (fun ds =>
      let q := fr.readout s (es.zip ds)
      let d := fr.lanesRng q.1 q.2
      let wrap := fc + n = c
      .done { d with e := { d.e with fc := if wrap then 0 else fc + n }
                     stBit := if fr.md 2 then some (fr.imm 10 3, decide wrap) else none
                     pre := s.amRead fr.core es
                       ++ (if fr.md 0 then [.amClear (32768 * fr.core + first + fc) (32768 * fr.core + first + fc + n)] else []) })))) s

/-- AREL (spec 14 R335). -/
def execArel (f : Slot) (s : State) : Host.Outcome State Fault Refusal :=
  fire f (fun fr s => s.withDesc fr 1 (fun l => limited [(decide (l.getD 0 0 ≤ 32767), l.getD 0 0)] (
    match s.rangeFrom fr.core (l.getD 0 0) with
    | none => fr.notReserved s 1 (l.getD 0 0) 0
    | some d => .done { fr.plain with pre := [s.releaseRange fr.core d] }))) s

/-- Whether AWAIT's range lets it fire (spec 14 R336): not live, complete, or in error. -/
def State.awaitReady (s : State) (fr : Fire) : Bool :=
  match s.descLanes fr 1 with
  | .error _ => true
  | .ok l =>
    match s.rangeFrom fr.core (l.getD 0 0) with
    | none => true
    | some d => decide ((s.range fr.core d).exp ≤ (s.range fr.core d).arr) || (s.range fr.core d).err

/-- When the slot is ready to fire, beyond the guard (spec 07 R154). -/
def Fire.readyAwait (fr : Fire) (s : State) : Bool :=
  s.awaitReady fr

/-- AWAIT (spec 14 R336). -/
def execAwait (f : Slot) (s : State) : Host.Outcome State Fault Refusal :=
  fireWhen f Fire.readyAwait (fun fr s => s.withDesc fr 1 (fun l => limited [(decide (l.getD 0 0 ≤ 32767), l.getD 0 0)] (
    match s.rangeFrom fr.core (l.getD 0 0) with
    | none => fr.notReserved s 1 (l.getD 0 0) 0
    | some d =>
      let r := s.range fr.core d
      .done { fr.result (dataPacket 2 fr.f.ot false [(r.arr, false), (bit01 r.err + 2 * r.cause, false)])
              with stBit := if fr.md 2 then some (fr.imm 10 3, r.err) else none }))) s

/-- AXS (spec 14 R332). -/
def execAxs (f : Slot) (s : State) : Host.Outcome State Fault Refusal :=
  fire f (fun fr s => fr.bound (s.withDesc fr 2 (fun l => limited (spanOk (l.getD 0 0) (l.getD 1 0) 256) (
    let first := l.getD 0 0
    let k := l.getD 1 0
    let c := fr.chain
    let its := (List.range k).map (fun i => (Item.word (waMask (s.amEntry fr.core (first + i)).toNat), (((c.base + c.cur + i : Nat) : Int), false)))
    let go := fr.sendsOn s its (fun i => c.base + c.cur + i) (fun c => { c with cur := c.cur + k }) fr.e.pin
      (s.amFix fr.core ((List.range k).map (fun i => first + i))
        ++ (if fr.md 0 then [.amClear (32768 * fr.core + first) (32768 * fr.core + first + k)] else []))
    if fr.e.feed.isSome then go
    else
      match s.rangeAt fr.core first with
      | none => fr.notReserved s 1 first fr.chainNo
      | some d =>
        let r := s.range fr.core d
        if !r.holds (first + k - 1) then fr.notReserved s 1 (r.first + r.count) fr.chainNo
        else if r.x ≠ c.x then exponentTrap c.x r.x
        else go)))) s

/-- The path of a word: its virtual channel, the package and core that it comes from, those that it goes to (spec 14 R316). -/
structure Path where
  vc : Nat
  fromPkg : Nat
  fromCore : Nat
  toPkg : Nat
  toCore : Nat
  deriving DecidableEq, Repr

/-- The path of a word in package `own`. -/
def AccWord.path (own : Nat) : AccWord → Path
  | .contrib _ pkg core _ _ _ _ src _ => ⟨0, own, coreOf src, pkg, core⟩
  | .marker pkg core _ _ _ src => ⟨0, own, coreOf src, pkg, core⟩
  | .unbind pkg core _ _ _ src => ⟨0, own, coreOf src, pkg, core⟩
  | .refusal pkg core _ _ _ _ src _ => ⟨1, pkg, core, own, coreOf src⟩
  | .bindReq pkg core _ _ _ src _ => ⟨2, own, coreOf src, pkg, core⟩
  | .bindAns pkg core _ _ _ _ _ src _ => ⟨3, pkg, core, own, coreOf src⟩

/-- The 128 bits of a word on VC 0 or VC 1: the chain tag above the WA128 word or a refusal's payload (spec 14 R317). Bind words have no format. -/
def AccWord.word128 (w : AccWord) : BitVec 128 :=
  let tag (dix : Nat) (gen : BitVec 13) : Nat := gen.toNat * 2 ^ 109 + dix % 64 * 2 ^ 122
  match w with
  | .contrib _ _ _ _ word dix gen _ _ => BitVec.ofNat 128 (word.toNat % 2 ^ 109 + tag dix gen)
  | .marker _ _ _ dix gen _ => BitVec.ofNat 128 (tag dix gen)
  | .unbind _ _ _ dix gen _ => BitVec.ofNat 128 (tag dix gen)
  | .refusal pkg core ent dix gen cause _ _ => BitVec.ofNat 128 (packFields [(15, ent), (1, 0), (7, cause), (9, core), (6, pkg)] + tag dix gen)
  | _ => 0

/-- Its route word: type, package, core, and the entry, the sender or the range's first entry (spec 14 R316). -/
def AccWord.route (own : Nat) : AccWord → Nat
  | .contrib _ pkg core ent _ _ _ _ _ => packFields [(15, ent), (9, core), (6, pkg), (2, 0)]
  | .marker pkg core first _ _ _ => packFields [(15, first), (9, core), (6, pkg), (2, 2)]
  | .unbind pkg core first _ _ _ => packFields [(15, first), (9, core), (6, pkg), (2, 3)]
  | .refusal _ _ _ _ _ _ src chain => packFields [(7, elemIx src), (1, chain), (7, 0), (9, coreOf src), (6, own), (2, 1)]
  | _ => 0

/-- The word of the network at place n, if no earlier one of its channel runs between the same cores (spec 14 R316). -/
def State.wordAt (s : State) (n : Nat) : Option AccWord :=
  match s.accNet[n]? with
  | none => none
  | some w => if (s.accNet.take n).any (fun v => v.path s.pkgNum = w.path s.pkgNum) then none else some w

/-- The request that carries a word to another package (spec 14 R316, R339, 18 R429): its chain tag, or the exponent and chain of a bind. -/
def State.wordReq (s : State) (tag : Nat) (w : AccWord) : Option PeerReq :=
  let req (src pkg core first size : Nat) (op : PeerOp) (arg : Nat) (data : List (Byte × Bool)) : PeerReq :=
    s.peerReq (s.elemRole src) pkg (amAddr core first) (s.tcidOf src) tag size op arg data
  match w with
  | .contrib _ pkg core ent word dix gen src _ =>
    some (req src pkg core ent 16 .contribution (dix * 8192 + gen.toNat) ((leBytes 16 word.toNat).map (fun b => (b, word.getLsbD 105))))
  | .marker pkg core first dix gen src => some (req src pkg core first 0 .marker (dix * 8192 + gen.toNat) [])
  | .unbind pkg core first dix gen src => some (req src pkg core first 0 .unbind (dix * 8192 + gen.toNat) [])
  | .bindReq pkg core first x tcid src _ => some { req src pkg core first 0 .bind x.toNat [] with tcid := tcid }
  | .refusal _ _ _ _ _ _ _ _ => none
  | .bindAns _ _ _ _ _ _ _ _ _ => none

/-- A word that goes to another package leaves through its peer port (spec 14 R339): a contribution and a bind are answered. -/
def sendWord (w : AccWord) : Prog := fun s =>
  match s.wordReq s.nextId w with
  | none => []
  | some r =>
    [.nextId (s.nextId + 1), .send (.peer r)]
      ++ (match r.op with | .contribution => [.asked (s.asked ++ [(s.nextId, w)])] | .bind => [.asked (s.asked ++ [(s.nextId, w)])] | _ => [])

/-- The stop of the region that issued something that a failed wake or link ends, with core and package (spec 17 R401). -/
def wakeStop (src core pkg : Nat) : Prog := fun s =>
  match s.regionOf src with
  | none => []
  | some b => s.asyncStop b 0x51 5 (elemIx src) (detailOf [(9, core), (6, pkg)])

/-- The ACHAIN firing in progress on a chain register, if any. -/
def State.bindFiring (s : State) (key chain : Nat) : Option Fire :=
  match (s.elem key).busy with
  | none => none
  | some n =>
    let fr := s.firingOf key n
    if s.slotOp key fr.ctx n = some 0xD0 && fr.chainNo = chain && fr.e.bindOf chain ≠ .idle then some fr else none

/-- A word of the accumulate network whose destination does not wake or cannot be reached: a contribution is refused (spec 14 R337), a bind
request traps its ACHAIN, a marker or an unbind stops the region. -/
def wordLost (w : AccWord) : Prog := fun s =>
  match w with
  | .contrib _ pkg c ent _ dix gen src chain => [.accNet (s.accNet ++ [.refusal pkg c ent dix gen 0x51 src chain])]
  | .marker pkg c _ _ _ src => wakeStop src c pkg s
  | .unbind pkg c _ _ _ src => wakeStop src c pkg s
  | .bindReq pkg c _ _ _ src chain =>
    (match s.bindFiring src chain with
     | some fr => { fr with e := fr.e.setBind chain .idle }.settle s (.trap 0x51 (detailOf [(9, c), (6, pkg)]))
     | none => [])
  | .refusal _ _ _ _ _ _ _ _ => []
  | .bindAns _ _ _ _ _ _ _ _ _ => []

/-- A word leaves the network: to its core, or held at the boundary of a gated one (spec 01 R32, 14 R321), or to its package (R339). -/
def arrival (n : Nat) (g : AccWord → Option Prog) : Prog := fun s =>
  match s.wordAt n with
  | none => []
  | some w =>
    match g w with
    | none => []
    | some p =>
      let out : Effect := .accNet (listDrop s.accNet n)
      let q := w.path s.pkgNum
      if q.toPkg ≠ s.pkgNum then out :: (if s.cutOff q.toPkg then wordLost w else sendWord w) (s.perform out)
      else if s.powerOf q.toCore ≠ .on then out :: s.holdAt q.toCore (.word w)
      else out :: p (s.perform out)

/-- Whether a descriptor is live under a tag (spec 14 R320). -/
def RangeDesc.tagged (r : RangeDesc) (gen : BitVec 13) : Bool := r.live && r.gen = gen

/-- A contribution is added or refused (spec 14 R320). -/
def contributionProg (w : AccWord) : Option Prog :=
  match w with
  | .contrib _ pkg core ent word dix gen src chain => some (fun s =>
      if (s.range core dix).tagged gen && (s.range core dix).holds ent then s.addTo core dix ent word
      else [.accNet (s.accNet ++ [.refusal pkg core ent dix gen 0x44 src chain])])
  | _ => none

/-- CONTRIBUTION_ARRIVAL (spec 14 R320). -/
def execContributionArrival (n : Nat) (s : State) : Host.Outcome State Fault Refusal := complete (arrival n contributionProg) s

/-- A marker increments MRK, an unbind decrements BNDS, if the tag matches a live range (spec 14 R320). -/
def markerProg (w : AccWord) : Option Prog :=
  match w with
  | .marker _ core _ dix gen _ => some (fun s =>
      let r := s.range core dix
      if r.tagged gen then [.range (64 * core + dix) { r with mrk := Nat.min (r.mrk + 1) 65535 }] else [])
  | _ => none
def unbindProg (w : AccWord) : Option Prog :=
  match w with
  | .unbind _ core _ dix gen _ => some (fun s =>
      let r := s.range core dix
      if r.tagged gen then [.range (64 * core + dix) { r with bnds := r.bnds - 1 }] else [])
  | _ => none

/-- MARKER_ARRIVAL (spec 14 R320). -/
def execMarkerArrival (n : Nat) (s : State) : Host.Outcome State Fault Refusal := complete (arrival n markerProg) s
/-- UNBIND_ARRIVAL (spec 14 R320). -/
def execUnbindArrival (n : Nat) (s : State) : Host.Outcome State Fault Refusal := complete (arrival n unbindProg) s

/-- The answer of a region controller (spec 14 R329): 0 not yet, 1 violation, 2 mismatch, 3 full, 4 bound. -/
def State.bindAnswerTo (s : State) (core first : Nat) (x : BitVec 9) (tcid src chain : Nat) : List Effect :=
  let ans (a count dix : Nat) (gen : BitVec 13) (rx : BitVec 9) : AccWord := .bindAns s.pkgNum core a count dix gen rx src chain
  match s.rangeFrom core first with
  | none => [.accNet (s.accNet ++ [ans 0 0 0 0 0])]
  | some d =>
    let r := s.range core d
    if r.tcid ≠ tcid then [.accNet (s.accNet ++ [ans 1 0 d r.gen r.x])]
    else if r.x ≠ x then [.accNet (s.accNet ++ [ans 2 0 d r.gen r.x])]
    else if r.bnds = 65535 then [.accNet (s.accNet ++ [ans 3 0 d r.gen r.x])]
    else [.accNet (s.accNet ++ [ans 4 r.count d r.gen r.x]), .range (64 * core + d) { r with bnds := r.bnds + 1 }]

/-- BIND_REQUEST (spec 14 R329 step 4). -/
def execBindRequest (n : Nat) (s : State) : Host.Outcome State Fault Refusal :=
  complete (arrival n (fun w => match w with
    | .bindReq _ core first x tcid src chain => some (fun s => s.bindAnswerTo core first x tcid src chain)
    | _ => none)) s

/-- What an answer does at the AE (spec 14 R329 steps 4 and 5). A binding that no firing waits for any more is given back. -/
def State.answered (s : State) (pkg core answer count dix : Nat) (gen : BitVec 13) (x : BitVec 9) (src chain : Nat) : List Effect :=
  match s.bindFiring src chain with
  | none =>
    if answer = 4 then
      let e := s.elem src
      [.elem src { e with inj := e.inj ++ [.unbind pkg core 0 dix gen src] }]
    else []
  | some fr =>
    match s.descLanes fr 5 with
    | .error _ => []
    | .ok l =>
      let first := firstOf (l.getD 1 0)
      let idle := { fr with e := fr.e.setBind chain .idle }
      match answer with
      | 0 => [.elem src (fr.e.setBind chain (.again (s.cycle.toNat + 64)))]
      | 1 => idle.settle s (.trap 0x52 (detailOf [(48, amAddr core first), (26, (s.elemRole src).toNat)]))
      | 2 => idle.settle s (exponentTrap (xOf (l.getD 1 0)) x)
      | 3 => idle.settle s (conflictTrap first)
      | _ =>
        let c : Chain :=
          { bound := true, pkg := bits (l.getD 0 0) 9 6, lcore := l.getD 0 0 % 512, core := core, first := first, count := count
            x := xOf (l.getD 1 0), base := l.getD 2 0, rstr := l.getD 3 0, nsend := l.getD 4 0, cur := 0, sent := 0, dix := dix, gen := gen }
        idle.settle s (.done { idle.plain with e := idle.e.setChain chain c })

/-- BIND_ANSWER (spec 14 R329). -/
def execBindAnswer (n : Nat) (s : State) : Host.Outcome State Fault Refusal :=
  complete (arrival n (fun w => match w with
    | .bindAns pkg core answer count dix gen x src chain => some (fun s => s.answered pkg core answer count dix gen x src chain)
    | _ => none)) s

/-- BIND_RETRY (spec 14 R329): the request is sent again, 64 cycles after the answer. -/
def execBindRetry (key chain : Nat) (s : State) : Host.Outcome State Fault Refusal :=
  complete (fun s =>
    match s.bindFiring key chain with
    | none => []
    | some fr =>
      match fr.e.bindOf chain, s.descLanes fr 5 with
      | .again c, .ok l =>
        if c ≤ s.cycle.toNat then
          (match s.resolve key (bits (l.getD 0 0) 9 6) (l.getD 0 0 % 512) with
          | some q => [.elem key (fr.e.setBind chain .reasked), .accNet (s.accNet ++ [s.bindWord fr l q])]
          | none => [])
        else []
      | _, _ => []) s

/-- Whether an element belongs to an active invocation (spec 01 R24). -/
def State.isMember (s : State) (key : Nat) : Bool := (s.elem key).active

/-- REFUSAL_ARRIVAL (spec 14 R337): the first is recorded, every one counted; one for an idle AE is a core fault. -/
def execRefusalArrival (n : Nat) (s : State) : Host.Outcome State Fault Refusal :=
  complete (arrival n (fun w => match w with
    | .refusal pkg core ent dix gen cause src chain => some (fun s =>
        let e := s.elem src
        if !s.isMember src then [.reply (.report 1 cause (detailOf [(9, core), (6, pkg), (15, ent), (1, chain)]))]
        else
          let rec' := match e.refRec with | some r => r | none => { dix := dix, gen := gen, ent := ent, cause := cause, core := core, pkg := pkg, chain := chain }
          [.elem src { e with refRec := some rec', refCount := Nat.min (e.refCount + 1) 65535 }])
    | _ => none)) s

/-- REFUSAL_TRAP (spec 14 R337, ORIG 4): in its first free cycle the AE traps with the record's items; the record is then empty. A
refusal for a failed wake is an asynchronous stop (17 R401). -/
def execRefusalTrap (key : Nat) (s : State) : Host.Outcome State Fault Refusal :=
  complete (fun s =>
    let e := s.elem key
    match e.refRec with
    | none => []
    | some r =>
      if s.isFree key then
        let d := detailOf [(9, r.core), (6, r.pkg), (15, r.ent), (1, r.chain)]
        let clean : Effect := .elem key { e with refRec := none, refCount := 0 }
        if r.cause = 0x44 then
          clean :: (s.perform clean).trapEffects key { cause := 0x44, orig := 4, slot := 0, ctx := e.ctx.toNat, detail := d }
        else
          (match s.regionOf key with
          | some b => clean :: (s.perform clean).asyncStop b r.cause 5 (elemIx key) (detailOf [(9, r.core), (6, r.pkg)])
          | none => [clean])
      else []) s

end Sys2Proof.Machine
end

