-- ==== Sys2Proof/Machine/Report.lean ====
section
/-! DEFINITION. Accesses that engines and Foreveder make in pieces, and the fault ring in which Foreveder reports to a process
(spec 18 R420, R438). -/

namespace Sys2Proof.Machine

/-- Foreveder as a master, on its own behalf (spec 01 R27), and as the CPY master that acts for a process (16 R370). -/
def State.foreWho (s : State) (tcid : Nat) : Who :=
  { master := .fw, core := 0x1FF, scope := 6, role := roleOf 8 s.pkgNum 0x1FF 0, tcid := tcid }
def State.behalf (s : State) (tcid : Nat) : Who := { s.foreWho tcid with master := .cpy }

/-- Performs the writes of pieces in order; a piece in another package is sent to it under the next number (spec 18 R429), one for a gated core is
held there (01 R32). -/
def State.writePieces (s : State) (role : BitVec 26) (tcid : Nat) : List (MemOp × Piece) → List Effect
  | [] => []
  | (op, p) :: l =>
    let now : List Effect :=
      match op with
      | .store data marks =>
        s.reach (bits role.toNat 7 9) tcid true p
          ++ (if p.x.pkg = s.pkgNum then
                (match s.gatedFor p.x.pkg p.x.pa with
                 | some c => s.holdAt c (.store role p.x.kid p.x.pa data marks)
                 | none => s.store p.x.kid p.x.pa data marks)
              else [.nextId (s.nextId + 1), .send (.peer (s.peerReq role p.x.pkg p.x.pa tcid s.nextId p.size .write 0 (data.zip marks)))])
      | _ => []
    now ++ (s.apply now).writePieces role tcid l

/-- What reading pieces changes: translation buffers, cache lines, and for bytes of another package the counter of free values. -/
def State.fetchEffects (s : State) (role : BitVec 26) (tcid : Nat) (ps : List Piece) : List Effect :=
  s.reachAll (bits role.toNat 7 9) tcid false ps
    ++ (if ps.any (fun p => p.x.pkg ≠ s.pkgNum) then [.free (s.free + 3 * ps.length)] else [])

/-- The stand-in for a cause where an access waits for the wake of a core (spec 01 R32), and the core that it names. No cause code is so large. -/
def wakeCause (core : Nat) : Nat := 1024 + core
def causeCore (c : Nat) : Option Nat := if 1024 ≤ c then some (c - 1024) else none

/-- Checks an access and reads it: bytes, marks, and the changes of reading; it waits for the wake of a gated core (spec 01 R32). -/
def State.readChecked (s : State) (w : Who) (va : Int) (n : Nat) : Except Fail (List (Byte × Bool) × List Effect) :=
  match s.checkAccess w .read va n with
  | .error f => .error f
  | .ok ps =>
    match s.gateOf ps with
    | some c => .error ⟨wakeCause c, 0⟩
    | none => .ok (s.fetchFrom [] s.free ps, s.fetchEffects w.role w.tcid ps)

/-- Checks an access and gives the changes of writing unmarked bytes. -/
def State.writeChecked (s : State) (w : Who) (va : Int) (data : List Byte) : Except Fail (List Effect) :=
  match s.checkAccess w .write va data.length with
  | .error f => .error f
  | .ok ps =>
    .ok (s.writePieces w.role w.tcid
      ((ps.foldl (fun (acc : List (MemOp × Piece) × List Byte) p =>
        (acc.1 ++ [(.store (acc.2.take p.size) (List.replicate p.size false), p)], acc.2.drop p.size)) ([], data)).1))

/-- A write that Foreveder makes to a process's memory, dropped if it fails. -/
def foreWrite (tcid va : Nat) (data : List Byte) : Prog := fun s =>
  match s.writeChecked (s.foreWho tcid) (va : Int) data with
  | .error _ => []
  | .ok l => l

/-- Bytes of little-endian words. -/
def wordBytes (l : List Nat) : List Byte := l.flatMap (fun w => leBytes 8 w)

/-- The fault word (spec 18 R420). -/
def faultWord (cause src queue index : Nat) : Nat :=
  2 ^ 63 + cause % 128 * 2 ^ 56 + src % 16 * 2 ^ 52 + queue % 32 * 2 ^ 47 + index % 2 ^ 32

/-- An entry that could not be written is counted in LOST (spec 18 R420, R423). -/
def lostEntry (tcid : Nat) : Prog := Prog.seq
  [fun s => [.proc tcid { s.proc tcid with lost := (s.proc tcid).lost + 1 }],
   fun s => foreWrite tcid ((s.proc tcid).ringVa + 16) (leBytes 8 (s.proc tcid).lost) s]

/-- FOREVEDER'S REPORT (spec 18 R420): an entry of the process's fault ring, WIX advanced after it; `vec` is the iteration vector
of a trap. Without a live process, a message to the operator. A ring in the window of a gated core waits for its wake (01 R32). -/
def faultEntry (tcid cause src queue index : Nat) (rest : List Nat) (vec : Option (List Byte)) : Prog := fun s =>
  let p := s.proc tcid
  if !p.live then [.reply (.report src cause (BitVec.ofNat 128 (rest.getD 0 0)))]
  else
    match s.readChecked (s.foreWho tcid) ((p.ringVa + 8 : Nat) : Int) 8, s.checkAccess (s.foreWho tcid) .write ((p.ringVa + 64 + 64 * (p.wix % 2 ^ p.ringLog) : Nat) : Int) 64 with
    | .ok rix, .ok _ =>
      if 2 ^ p.ringLog ≤ p.wix - leNat (rix.1.map (fun b => b.1)) then lostEntry tcid s
      else
        Prog.seq
          [fun _ => rix.2,
           foreWrite tcid (p.ringVa + 64 + 64 * (p.wix % 2 ^ p.ringLog)) (wordBytes (faultWord cause src queue index :: (rest ++ List.replicate (7 - rest.length) 0))),
           (match vec with | some v => foreWrite tcid (p.trapVa + 512 * (p.wix % 2 ^ p.ringLog)) v | none => Prog.skip),
           foreWrite tcid (p.ringVa + 16) (leBytes 8 p.lost),
           fun s => [.proc tcid { s.proc tcid with wix := p.wix + 1 }],
           foreWrite tcid p.ringVa (leBytes 8 (p.wix + 1))] s
    | .error f, _ =>
      (match causeCore f.cause with
       | some c => s.holdAt c (.report tcid cause src queue index rest vec)
       | none => lostEntry tcid s)
    | _, _ => lostEntry tcid s

/-- The report of a frozen master (spec 18 R420, R438): its role, the address, the kind of the access. -/
def freezeEntry (tcid : Nat) (role : BitVec 26) (pa : Nat) (k : Kind) : Prog :=
  faultEntry tcid 0x52 2 0 0 [role.toNat, pa, k.code] none

/-- The iteration vector as bytes (spec 17 R397). -/
def vectorBytes (m : Map (BitVec 128)) : List Byte := (List.range 32).flatMap (fun i => leBytes 16 (Map.get 0 m i).toNat)

/-- The kind of access that a slot with this opcode makes (spec 09 R192 to R202). -/
def kindOfOp (op : Nat) : Kind := if op = 0xA1 then .atomic else if op = 0x9C ∨ op = 0x9E ∨ op = 0xA0 ∨ op = 0xA2 then .write else .read

/-- The report of a trap (spec 17 R399, 18 R420), and of the freeze that a firing's trap of cause 0x52 is (18 R438). -/
def trapEntry (blk : Nat) : Prog := fun s =>
  let r := s.region blk
  Prog.seq
    [fun s => [.region blk { s.region blk with told := true }],
     faultEntry r.tcid r.cause 1 0 r.hnd.toNat [r.word 4, r.word 5, r.word 6, r.word 7, blk / 16 + blk % 16 * 2 ^ 9] (some (vectorBytes r.iter)),
     (if r.cause = 0x52 ∧ r.orig = 0 then
        freezeEntry r.tcid (BitVec.ofNat 26 (r.detail.toNat / 2 ^ 48)) (r.detail.toNat % 2 ^ 48)
          (kindOfOp ((s.slotOp (ekey (blk / 16) r.elem) r.tctx r.slot).getD 0))
      else Prog.skip)] s

end Sys2Proof.Machine
end

