-- ==== Sys2Proof/Machine/Engines.lean ====
section
/-! DEFINITION. The engines of a core (spec 05 R102 to R118, 09 R212 to R219): acceptance, the checks of a command, its start, its
chunks, its completion; the copy family, FILL, CKSM and LNCH. A chunk is performed at one instant (log 5). -/

namespace Sys2Proof

/-- Word i of a command as a number. -/
def Command.word (c : Command) (i : Nat) : Nat :=
  (match i with | 0 => c.w0 | 1 => c.w1 | 2 => c.w2 | 3 => c.w3 | 4 => c.w4 | 5 => c.w5 | 6 => c.w6 | _ => c.w7).toNat
/-- A field of a word of a command. -/
def Command.fld (c : Command) (i lo n : Nat) : Nat := Machine.bits (c.word i) lo n
def Command.op (c : Command) : Nat := c.fld 0 0 8
def Command.ben (c : Command) : Bool := c.fld 7 16 1 = 1
def Command.bar (c : Command) : Nat := c.fld 7 17 11
def Command.dmask (c : Command) : Nat := c.fld 7 0 16
def Command.sfmt (c : Command) : Nat := if c.op < 16 then c.fld 7 32 5 else c.fld 1 48 5
def Command.dfmt (c : Command) : Nat := if c.op < 16 then c.fld 7 37 5 else c.fld 1 53 5
/-- CRM: 00 RNE, 01 RTZ, 10 RDN (spec 09 R214, R218). -/
def Command.crm (c : Command) : Nat := if c.op < 16 then c.fld 7 42 2 else c.fld 1 58 2
def Machine.crmMode (n : Nat) : RMode := match n with | 0 => .rne | 1 => .rtz | _ => .rdn

/-- Whether a copy-family command is bad (spec 09 R214 to R216, 05 R117). -/
def Command.badCopy (c : Command) : Bool :=
  let op := c.op
  (if op = 2 then c.dmask = 0 || decide (16 ≤ c.dmask) else c.dmask ≠ 0)
    || c.fld 7 28 2 = 3 || c.fld 7 30 2 = 3
    || (if op = 3 then c.crm = 3 else c.fld 7 32 21 ≠ 0)
    || (if op = 4 then c.fld 7 28 2 ≠ 0 else c.fld 1 48 16 ≠ 0)
    || (if op = 2 then c.fld 2 24 40 ≠ 0 else c.fld 2 48 16 ≠ 0)
    || (if op = 4 ∨ op = 5 then
          c.fld 3 32 32 ≠ 0 || c.fld 3 0 32 = 0 || decide (65536 < c.fld 3 0 32) || c.word 4 ≠ 0 || c.word 5 ≠ 0
            || (op = 5 && c.fld 2 0 2 ≠ 0)
        else c.fld 3 0 32 = 0)
    || (op = 3 &&
         (decide (15 ≤ c.sfmt) || decide (15 ≤ c.dfmt) || c.fld 3 0 32 * 8 % elemBits c.sfmt ≠ 0
          || (if c.fld 7 44 1 = 1 then !([11, 12, 13].contains c.dfmt) || c.fld 5 48 16 ≠ 0 || c.fld 3 48 16 ≠ 0 else c.fld 7 45 8 ≠ 0)))

/-- Whether a binning command is bad (spec 09 R217). -/
def Command.badBin (c : Command) : Bool :=
  c.dmask ≠ 0 || c.fld 7 28 25 ≠ 0 || c.fld 1 48 16 ≠ 0 || c.fld 2 48 16 ≠ 0 || c.word 5 ≠ 0
    || (if c.op = 0x10 then c.fld 3 37 11 ≠ 0 || c.word 4 ≠ 0
        else c.fld 3 21 43 ≠ 0 || c.fld 3 0 2 ≠ 0 || c.fld 4 40 24 ≠ 0 || decide (4 < c.fld 4 37 3)
          || decide (2 ^ 21 < c.fld 3 0 21 + 4 * 2 ^ c.fld 4 32 5))

/-- Whether a collective command is bad (spec 09 R218, 05 R117). -/
def Command.badColl (c : Command) : Bool :=
  let sums : Bool := c.op = 0x20 || c.op = 0x21
  let cluster : Bool := c.op = 0x23 && c.fld 4 0 48 = 0
  let fmtBad (f : Nat) : Bool := decide (16 < f) || f = 13 || f = 14 || f = 15
  c.fld 7 28 25 ≠ 0 || c.fld 1 61 3 ≠ 0 || c.fld 5 25 39 ≠ 0 || fmtBad c.sfmt
    || (if sums then
          fmtBad c.dfmt || c.crm = 3 || c.fld 3 0 32 = 0 || decide (32768 < c.fld 3 0 32) || decide (32768 < c.fld 5 0 15 + c.fld 3 0 32)
            || c.fld 5 24 1 = 1
        else c.sfmt = 16 || c.fld 1 53 8 ≠ 0 || c.fld 5 0 24 ≠ 0 || (c.op = 0x22 && (c.fld 5 24 1 = 1 || c.fld 3 48 16 ≠ 0)))
    || (if cluster then
          c.dmask = 0 || decide (16 ≤ c.dmask) || c.fld 2 24 40 ≠ 0 || c.fld 3 32 32 ≠ 0 || c.fld 4 48 16 ≠ 0
        else c.dmask ≠ 0 || c.fld 2 48 16 ≠ 0 || c.fld 4 0 48 = 0 || decide (c.fld 4 48 16 < c.fld 3 32 16)
          || decide (c.fld 4 48 16 < c.fld 3 48 16))

/-- Whether a launch command is bad (spec 09 R219). -/
def Command.badLnch (c : Command) : Bool :=
  c.fld 1 53 11 ≠ 0 || decide (c.fld 1 48 5 < 3) || c.fld 1 0 3 ≠ 0 || c.fld 2 56 8 ≠ 0
    || (c.fld 2 48 8 = 0 && c.fld 2 0 48 ≠ 0) || c.fld 3 10 54 ≠ 0 || (c.fld 3 9 1 = 1 && c.fld 3 0 9 ≠ 0)
    || c.word 4 ≠ 0 || c.word 5 ≠ 0 || c.word 7 ≠ 0

/-- The opcodes and the class of an engine (spec 05 R102, R105). -/
def Machine.engineOps (eng : Nat) : List Nat :=
  match eng with | 0 => [1, 2, 3, 4, 5] | 1 => [0x10, 0x11] | 2 => [0x20, 0x21, 0x22, 0x23] | _ => [0x30]
def Machine.enginePath (eng : Nat) : Nat := match eng with | 1 => 2 | 2 => 3 | _ => 1

/-- Whether an engine rejects a command as bad (spec 05 R105). -/
def Command.bad (c : Command) (eng : Nat) : Bool :=
  !(Machine.engineOps eng).contains c.op || c.fld 0 8 3 ≠ Machine.enginePath eng || c.fld 0 62 2 ≠ 0 || c.fld 7 53 11 ≠ 0 || (!c.ben && c.bar ≠ 0)
    || (match eng with | 0 => c.badCopy | 1 => c.badBin | 2 => c.badColl | _ => c.badLnch)

end Sys2Proof

namespace Sys2Proof.Machine

/-- An engine as a master (spec 01 R27). -/
def State.engWho (s : State) (core eng tcid : Nat) : Who :=
  { master := (match eng with | 1 => .bin | 2 => .col | _ => .cpy), core := core, scope := 6, role := s.engineRole core eng, tcid := tcid }

/-- The check of a reply address (spec 05 R105): where the record goes, if there is one. -/
def State.replyCheck (s : State) (w : Who) (va : Nat) : Except Fail (Option Xlat) :=
  if va = 0 then .ok none
  else
    match s.translate w.core w.tcid (va : Int) .write with
    | .error f => .error f
    | .ok x =>
      if va % 8 ≠ 0 then .error (failOf w x.pa 8 0x11)
      else match s.checkAt w .write x va 8 with
        | .error f => .error f
        | .ok _ => .ok (some x)

/-- Status of a failed check (spec 05 R105, R109). -/
def statusOf (cause : Nat) : Nat := if 0x13 ≤ cause ∧ cause ≤ 0x16 then 2 else if cause = 0x51 then 6 else 3

/-- A command that has stopped (spec 05 R109). -/
def Cmd.stop (c : Cmd) (status cause : Nat) (role : BitVec 26) : Cmd := { c with finished := true, status := status, cause := cause, role := role }

/-- A command that moves nothing more after every byte is performed (spec 05 R109). -/
def Cmd.doneOk (c : Cmd) (role : BitVec 26) : Cmd := if c.pois then c.stop 5 0x32 role else c.stop 0 0 role

/-- The copy geometry: addresses by byte of the source and of the destination in destination order (spec 09 R215, 04 R89). -/
structure Geo where
  src : Int
  dst : Int
  sstr1 : Int
  dstr1 : Int
  sstr2 : Int
  dstr2 : Int
  c1 : Nat
  runs : Nat
  run : Nat
  es : Nat
  ed : Nat
  slay : Nat
  dlay : Nat
  deriving DecidableEq, Repr

/-- The geometry of a copy-family command, and of the cluster form of CBCS, which is one run (spec 09 R215, R216, R218). -/
def geoOf (c : Command) : Geo :=
  let one := c.op = 4 ∨ c.op = 5 ∨ c.op = 0x23
  let mx : Bool := c.op = 3 && c.fld 7 44 1 = 1
  { src := (c.fld 1 0 48 : Int), dst := (c.fld 2 0 48 : Int)
    sstr1 := if one then 0 else signExt 32 (c.fld 4 0 32), dstr1 := if one then 0 else signExt 32 (c.fld 4 32 32)
    sstr2 := if one ∨ mx then 0 else signExt 32 (c.fld 5 0 32), dstr2 := if one ∨ mx then 0 else signExt 32 (c.fld 5 32 32)
    c1 := if one then 1 else c.fld 3 32 16 + 1
    runs := if one then 1 else (c.fld 3 32 16 + 1) * (c.fld 3 48 16 + 1)
    run := if c.op = 0x23 then c.fld 3 0 32 * (fmtWidth c.sfmt / 8) else c.fld 3 0 32
    es := if c.op = 3 then elemBits c.sfmt else 8, ed := if c.op = 3 then elemBits c.dfmt else 8
    slay := if c.op < 16 then c.fld 7 28 2 else 0, dlay := if c.op < 16 then c.fld 7 30 2 else 0 }

/-- Elements of a run; bytes of a destination run, an odd last half byte rounded up (log 4); bytes of the whole command. -/
def Geo.elems (g : Geo) : Nat := g.run * 8 / g.es
def Geo.drun (g : Geo) : Nat := (g.elems * g.ed + 7) / 8
def Geo.total (g : Geo) : Nat := g.drun * g.runs
/-- The stored address of source byte u and of destination byte t, counted in destination order. -/
def Geo.srcAt (g : Geo) (u : Nat) : Int :=
  swizzle g.slay (g.src + ((u / g.run % g.c1 : Nat) : Int) * g.sstr1 + ((u / g.run / g.c1 : Nat) : Int) * g.sstr2 + ((u % g.run : Nat) : Int))
def Geo.dstLogical (g : Geo) (t : Nat) : Int :=
  g.dst + ((t / g.drun % g.c1 : Nat) : Int) * g.dstr1 + ((t / g.drun / g.c1 : Nat) : Int) * g.dstr2 + ((t % g.drun : Nat) : Int)
def Geo.dstAt (g : Geo) (t : Nat) : Int := swizzle g.dlay (g.dstLogical t)
/-- Addresses of n bytes from a place on. -/
def itemsFrom (f : Nat → Int) (lo n : Nat) : List (Int × Nat) := (List.range n).map (fun i => (f (lo + i), i))

/-- Checks an access of n bytes at an offset of a core's window, in its pieces (spec 05 R117). -/
def State.checkWindow (s : State) (w : Who) (k : Kind) (core : Nat) (off : Int) (n : Nat) : Except Fail (List Piece) :=
  (granules off n).foldl (fun (acc : Except Fail (List Piece)) (g : Int × Nat) =>
    match acc with
    | .error f => .error f
    | .ok l =>
      if g.1 < 0 ∨ 0x1000000 < g.1 + (g.2 : Int) then .error (failOf w (lowBits 48 ((winBase core : Int) + g.1)) g.2 0x10)
      else match s.checkAt w k ⟨s.pkgNum, 0, true, winBase core + g.1.toNat⟩ (winBase core + g.1.toNat) g.2 with
        | .error f => .error f
        | .ok m => .ok (l ++ m)) (.ok [])

/-- The pieces of bytes at offsets of a core's window, each with the index of its first byte. -/
def State.locatedIn (s : State) (w : Who) (k : Kind) (core : Nat) (items : List (Int × Nat)) : Except Fail (List (Nat × Piece)) :=
  (runsOf items).foldl (fun acc r =>
    match acc with
    | .error f => .error f
    | .ok l =>
      match s.checkWindow w k core r.1 r.2.length with
      | .error f => .error f
      | .ok ps => .ok (l ++ (ps.foldl (fun (a : List (Nat × Piece) × Nat) p => (a.1 ++ [(a.2, p)], a.2 + p.size)) ([], r.2.headD 0)).1)) (.ok [])

/-- The cores that a COPYM or a CBCS within a cluster names (spec 05 R117). -/
def memberCores (core mask : Nat) : List Nat := ((List.range 4).filter (fun m => maskBit mask m)).map (fun m => clusterCore core m)

/-- The destination pieces of bytes lo to lo + n − 1 of a copy-family command: one list for each destination (spec 05 R117). -/
def State.destPieces (s : State) (w : Who) (c : Command) (lo n : Nat) : Except Fail (List (List (Nat × Piece))) :=
  let items := itemsFrom (geoOf c).dstAt lo n
  if c.op = 2 ∨ c.op = 0x23 then
    (memberCores w.core c.dmask).foldr (fun m acc =>
      match s.locatedIn w .write m items with
      | .error f => .error f
      | .ok ps => (match acc with | .error f => .error f | .ok l => .ok (ps :: l))) (.ok [])
  else if c.op = 5 then
    match s.located w .write ((List.range 4).map (fun (i : Nat) => (swizzle (geoOf c).dlay ((geoOf c).dst + (i : Int)), i))) with
    | .error f => .error f
    | .ok ps => .ok [ps]
  else
    match s.located w .write items with
    | .error f => .error f
    | .ok ps => .ok [ps]

/-- The scratchpad lines that pieces of this package lie in: element key and line (spec 04 R91). -/
def State.linesOf (s : State) (ps : List Piece) : List (Nat × Nat) :=
  ps.flatMap (fun p =>
    let q := placeOf p.x.pa
    if p.x.pkg = s.pkgNum ∧ q.block = .spad then [(ekey q.core (spadElem (q.off / 0x8000)), q.off % 0x8000 / 64)] else [])

/-- What passes a check, none where it fails. -/
def passedPieces (r : Except Fail (List Piece)) : List Piece := match r with | .ok l => l | .error _ => []

/-- The pieces of bytes lo up to the end of a copy-family command's destination; parts that fail a check give none. -/
def State.destFrom (s : State) (w : Who) (c : Command) (lo : Nat) : List Piece :=
  let g := geoOf c
  let total := if c.op = 5 then 4 else g.total
  let runs := runsOf (itemsFrom (if c.op = 5 then (fun (i : Nat) => swizzle g.dlay (g.dst + (i : Int))) else g.dstAt) lo (total - lo))
  let parts := runs.flatMap (fun r => granules r.1 r.2.length)
  parts.flatMap (fun p =>
    if c.op = 2 ∨ c.op = 0x23 then (memberCores w.core c.dmask).flatMap (fun m => passedPieces (s.checkWindow w .write m p.1 p.2))
    else passedPieces (s.checkPart w .write p.1 p.2))

/-- The scratchpad lines that bytes lo up to the end of a copy-family command lie in (spec 04 R91); a COPYV's scale bytes mark none (log 51). -/
def State.linesFrom (s : State) (w : Who) (c : Command) (lo : Nat) : List (Nat × Nat) := s.linesOf (s.destFrom w c lo)

/-- Marks lines as pending for a command (spec 04 R91), and clears the marks of a command on all lines but those it still writes. -/
def State.markLines (s : State) (id : Nat) : List (Nat × Nat) → List Effect
  | [] => []
  | (k, line) :: l =>
    let e := s.elem k
    let now : List Effect := if e.pend.any (fun p => p.1 = line && p.2.1 = id) then [] else [.elem k { e with pend := e.pend ++ [(line, id, 0)] }]
    now ++ (s.apply now).markLines id l
def State.clearLines (s : State) (id : Nat) (keep : List (Nat × Nat)) : List Effect :=
  s.elems.flatMap (fun x =>
    if x.2.pend.any (fun p => p.2.1 = id && !keep.contains (x.1, p.1)) then
      [.elem x.1 { x.2 with pend := x.2.pend.filter (fun p => !(p.2.1 = id && !keep.contains (x.1, p.1))) }]
    else [])

/-- Replaces the running command with this id. -/
def Engine.update (g : Engine) (id : Nat) (f : Cmd → Cmd) : Engine :=
  { g with running := g.running.map (fun c => if c.id = id then f c else c) }

/-- What an engine does with a command before anything else (spec 05 R105): the reply address, then whether the command is bad. The
answer is the command, and the failure that freezes the engine. -/
def State.examine (s : State) (core eng : Nat) (c : Cmd) : Cmd × Option Fail :=
  let w := s.engWho core eng c.tcid
  let role := s.engineRole core eng
  let c := { c with bad := c.c.bad eng, replyAt := none }
  match s.replyCheck w (c.c.word 6) with
  | .error x =>
    if x.cause = 0x52 then ({ c with recheck := true }, some x)
    else ({ (if c.bad then c.stop 1 0x30 role else c.stop (statusOf x.cause) x.cause role) with recheck := false }, none)
  | .ok x => ({ (if c.bad then c.stop 1 0x30 role else c) with recheck := false, replyAt := x }, none)

/-- Puts an examined command where it belongs: among the running if it has stopped, else at the end of the queue; a freeze is
reported (spec 05 R103, R105, 18 R438). -/
def placeCommand (core eng : Nat) (c : Cmd) (f : Option Fail) : Prog := Prog.seq
  [fun s =>
     let g := s.engine core eng
     let g := if c.finished then { g with running := g.running ++ [c] } else { g with queue := g.queue ++ [c] }
     [.engine (4 * core + eng) { g with frozen := g.frozen || f.isSome, frozenAt := if f.isSome then c.id else g.frozenAt }],
   fun s => if eng = 0 && !c.finished && !c.bad then s.markLines c.id (s.linesFrom (s.engWho core eng c.tcid) c.c 0) else [],
   (match f with | some x => freezeEntry c.tcid (BitVec.ofNat 26 (x.detail.toNat / 2 ^ 48)) (x.detail.toNat % 2 ^ 48) .write | none => Prog.skip)]

/-- The command that an offer becomes once accepted (spec 05 R103). -/
def Offer.accepted (o : Offer) (id : Nat) (role : BitVec 26) : Cmd :=
  { id := id, c := o.c, src := o.src, tcid := o.tcid, replyAt := none, bad := false, started := false, prog := 0, finished := false
    status := 0, cause := 0, role := role, pois := false, paused := false, recheck := true, gate := none, sent := false
    asks := [], owes := [], landing := none, coll := none }

/-- The ECMD firing whose offer is accepted completes; a tracked command enters the list (spec 09 R212, R213). -/
def commitEcmd (o : Offer) (id : Nat) : Prog := fun s =>
  match o.src with
  | .elem key =>
    let fr := s.firingOf key o.slot
    if fr.e.busy = some o.slot then
      fr.finish { fr.plain with e := if fr.md 0 then { fr.e with tracked := fr.e.tracked ++ [{ cmd := id, done := none }] } else fr.e } s
    else []
  | .thread _ _ => []

/-- The place of a source in an engine's round: the stream elements of rows 0 to 7, then Foreveder (spec 05 R103). -/
def CmdSrc.place : CmdSrc → Nat
  | .elem key => elemIx key / 16
  | .thread _ _ => 8

/-- The offer that an engine accepts next: round-robin over the sources, from the one after the last (spec 05 R103). -/
def Engine.nextOffer (g : Engine) : Option Offer :=
  (List.range 9).findSome? (fun i => g.offers.find? (fun o => o.src.place = (g.lastSrc + 1 + i) % 9))

/-- ENGINE_COMMAND_ACCEPT (spec 05 R103): the next offer, while the queue holds fewer than 32; saved commands have left it (R110). -/
def execEngineCommandAccept (core eng : Nat) (s : State) : Host.Outcome State Fault Refusal :=
  complete (fun s =>
    let g := s.engine core eng
    match g.nextOffer with
    | none => []
    | some o =>
      if g.frozen || decide (32 ≤ (g.queue.filter (fun c => !c.paused)).length) then []
      else
        let id := s.nextId
        let x := s.examine core eng (o.accepted id (s.engineRole core eng))
        Prog.seq
          [fun _ => [.nextId (id + 1), .engine (4 * core + eng) { g with offers := g.offers.erase o, lastSrc := o.src.place }],
           commitEcmd o id,
           placeCommand core eng x.1 x.2] s) s

/-- The commands that run: of those that have started and not stopped, the first four (spec 05 R103). -/
def Engine.active (g : Engine) : List Cmd := (g.running.filter (fun c => !c.finished && !c.paused)).take 4

/-- ENGINE_COMMAND_START (spec 05 R103, R106): the head of the queue starts once its WAIT holds, up to four at a time. The commands that are
saved with a region have left it (R110). -/
def execEngineCommandStart (core eng : Nat) (s : State) : Host.Outcome State Fault Refusal :=
  complete (fun s =>
    let g := s.engine core eng
    match g.queue.find? (fun d => !d.paused) with
    | none => []
    | some c =>
      let rest := g.queue.filter (fun d => d.id ≠ c.id)
      if g.frozen then []
      else if c.recheck then
        let x := s.examine core eng c
        Prog.seq [fun _ => [.engine (4 * core + eng) { g with queue := rest }],
          fun s => if x.1.finished then placeCommand core eng x.1 x.2 s
            else Prog.seq [placeCommand core eng x.1 x.2, fun s =>
              let h := s.engine core eng
              [.engine (4 * core + eng) { h with queue := g.queue.map (fun d => if d.id = c.id then x.1 else d) }]] s] s
      else
        let w := s.sem core (c.c.fld 0 13 8)
        let wen : Bool := c.c.fld 0 11 1 = 1
        if wen && semErr w then
          [.engine (4 * core + eng) { g with queue := rest, running := g.running ++ [{ c with status := 4, cause := semCause w, role := semRole w, finished := true }] }]
        else if wen && !semCond w (c.c.fld 0 12 1 = 1) (c.c.fld 0 21 16) then []
        else if 4 ≤ g.active.length then []
        else [.engine (4 * core + eng) { g with queue := rest, running := g.running ++ [{ c with started := true }] }]) s

/-- How a turn of one chunk ends: a failed check; nothing yet; bytes asked of other packages first; the chunk, with what its end leaves. -/
inductive Chunk where
  | fail (f : Fail) (k : Kind)
  | wait (gate : Option Nat) (l : List Effect)
  | ask (ps : List Piece)
  | land (d : Landing) (l : List Effect)
  deriving DecidableEq, Repr

/-- Whether accesses that the core's router accepted earlier, to bytes outside the core's window, must be performed before a chunk
that touches pieces (spec 15 R347). -/
def State.chunkWaits (s : State) (core : Nat) (ps : List Piece) : Bool :=
  ps.any (fun p => !s.inWindow p.x.pkg p.x.pa core
    && s.pending.any (fun a => coreOf a.key = core && a.pkg = p.x.pkg && sameUnit a.pa a.size p.x.pa p.size && !a.op.isCopies && !a.sent))

/-- Runs on once nothing that touches these pieces is left to wait for; a gated core starts its wake (spec 01 R32, 15 R347). -/
def State.clearTo (s : State) (core : Nat) (ps : List Piece) (k : Unit → Chunk) : Chunk :=
  match s.gateOf ps, s.cutPiece ps with
  | some g, _ => .wait (some g) [.gate g .waking]
  | none, some f => .fail f .write
  | none, none => if s.chunkWaits core ps then .wait none [] else k ()

/-- Runs on with the bytes that a command reads, once other packages have answered for theirs (spec 18 R429). -/
def State.fetched (s : State) (m : Cmd) (ps : List Piece) (k : List (Byte × Bool) → Chunk) : Chunk :=
  let l := s.lacking m.asks ps
  if l = [] then k (s.fetchFrom m.asks s.free ps)
  else match s.cutPiece l with
    | some f => .fail f .read
    | none => .ask l

/-- The byte arrivals of a chunk (spec 05 R116): core, bytes, mark; bytes outside every core are counted at the issuing core. -/
def State.arrivalsOf (s : State) (core : Nat) (ben : Bool) (l : List (MemOp × Piece)) : List (Nat × Nat × Bool) :=
  let at_ (p : Piece) : Nat := (s.targetCore p.x.pkg p.x.pa).getD core
  let marked (op : MemOp) : Bool := match op with | .store _ m => m.any (fun x => x) | _ => false
  if !ben then []
  else (l.foldl (fun acc x => Nats.add acc (at_ x.2)) []).map (fun k =>
    let mine := l.filter (fun x => at_ x.2 = k)
    (k, mine.foldl (fun n x => n + x.2.size) 0, mine.any (fun x => marked x.1)))

/-- The end of a chunk once its bytes are performed (spec 05 R107 to R109, R116): byte arrivals, progress, status. -/
def landChunk (core eng id : Nat) : Prog := fun s =>
  match (s.engine core eng).running.find? (fun c => c.id = id) with
  | none => []
  | some c =>
    match c.landing with
    | none => []
    | some d =>
      Prog.seq
        [Prog.forEach d.arrive (fun a s =>
           [.bar (2048 * a.1 + c.c.bar) (barBytes (s.bar a.1 c.c.bar) a.2.1 a.2.2 (s.engineRole core eng))]),
         fun s => [.engine (4 * core + eng) ((s.engine core eng).update id (fun c =>
           let c := { c with prog := d.prog, pois := c.pois || d.pois, landing := none, sent := c.sent || eng = 3 }
           match d.stop with
           | some x => c.stop x.1 x.2 (s.engineRole core eng)
           | none => if d.last then c.doneOk (s.engineRole core eng) else c))]] s

/-- The elements that bytes hold: low half first where an element has four bits (spec 03 R60). -/
def elemsOf (es : Nat) (l : List (Byte × Bool)) : List (Nat × Bool) :=
  if es = 4 then l.flatMap (fun b => [(b.1.toNat % 16, b.2), (b.1.toNat / 16, b.2)])
  else (chunksOf (es / 8) l.length l).map (fun g => (leNat (g.map (fun b => b.1)), g.any (fun b => b.2)))

/-- The bytes of elements numbered from i in destination order; an odd last half byte of a run is a free value (log 4). -/
def packHalves (run free : Nat) : Nat → List (Nat × Bool) → List (Byte × Bool)
  | _, [] => []
  | i, [x] => [(BitVec.ofNat 8 (x.1 + 16 * ((Config.freeValue (free + i)).toNat % 16)), x.2)]
  | i, x :: y :: l =>
    if (i + 1) % run = 0 then (BitVec.ofNat 8 (x.1 + 16 * ((Config.freeValue (free + i)).toNat % 16)), x.2) :: packHalves run free (i + 1) (y :: l)
    else (BitVec.ofNat 8 (x.1 + 16 * y.1), x.2 || y.2) :: packHalves run free (i + 2) l
def packElems (ed run free i : Nat) (l : List (Nat × Bool)) : List (Byte × Bool) :=
  if ed = 4 then packHalves run free i l else markedBytes (ed / 8) l

/-- The scale of an MX block (spec 09 R215). -/
def mxScale (df : Nat) (l : List Val) : Nat :=
  if l.any Val.isNan then 255
  else
    match (l.filterMap (fun v => match v with | .fin _ m e => if m = 0 then none else some (expoOf m e) | _ => none)).max? with
    | none => 127
    | some x => Int.toNat (min (max (x - (if df = 11 then 8 else if df = 12 then 15 else 2) + 126) 0) 254)

/-- An element of an MX block under scale e (spec 09 R215). -/
def mxElem (df : Nat) (rm : RMode) (e : Nat) (v : Val) : Nat :=
  if e = 255 then 0
  else
    match v with
    | .inf neg => encodeMax df neg
    | .nan => 0
    | .fin neg m x =>
      let r := roundFloat df rm 0 (.fin neg m (x + 127 - e))
      if r.2 then encodeMax df neg else r.1

/-- Converts the elements from i0 on, whose number is a multiple of the block length when blocks are formed: converted elements, and
for each block its number, scale and mark (spec 09 R215). -/
def convert (c : Command) (i0 : Nat) (l : List (Nat × Bool)) : List (Nat × Bool) × List (Nat × (Nat × Bool)) :=
  let rm := crmMode c.crm
  if c.fld 7 44 1 = 1 then
    let n := c.fld 7 45 8 + 1
    let blocks := chunksOf n l.length l
    let done := blocks.map (fun b => let e := mxScale c.dfmt (b.map (fun x => elemVal c.sfmt x.1)); (e, b))
    (done.flatMap (fun b => b.2.map (fun x => (mxElem c.dfmt rm b.1 (elemVal c.sfmt x.1), x.2))),
     (done.zipIdx).map (fun b => (i0 / n + b.2, (b.1.1, b.1.2.any (fun x => x.2)))))
  else (l.map (fun x => (roundElem c.dfmt rm 0 (elemVal c.sfmt x.1), x.2)), [])

/-- One step of CRC-32C over a byte, reflected (spec 09 R216). -/
def crcBit (x : Nat) : Nat := if x % 2 = 1 then (x / 2) ^^^ 0x82F63B78 else x / 2
def crcByte (x : Nat) (b : Byte) : Nat := crcBit (crcBit (crcBit (crcBit (crcBit (crcBit (crcBit (crcBit (x ^^^ b.toNat))))))))
def crc32c (l : List Byte) : Nat := l.foldl crcByte 0xFFFFFFFF ^^^ 0xFFFFFFFF

/-- Runs on with what a check answers, or stops the chunk. -/
def chunkChecked {α : Type} (k : Kind) (r : Except Fail α) (f : α → Chunk) : Chunk :=
  match r with
  | .error x => .fail x k
  | .ok a => f a

/-- The elements and source bytes that destination bytes lo to hi − 1 of a copy come from: first element, last element, widened to
whole MX blocks; first source byte, last source byte. -/
def spanOf (c : Command) (lo hi : Nat) : Nat × Nat × Nat × Nat × Nat :=
  let g := geoOf c
  let at_ (t : Nat) : Nat := t / g.drun * g.elems + t % g.drun * 8 / g.ed
  let e0 := at_ lo
  let e1 := if hi % g.drun = 0 then hi / g.drun * g.elems else at_ hi
  let n := if c.op = 3 ∧ c.fld 7 44 1 = 1 then c.fld 7 45 8 + 1 else 1
  let b0 := e0 / n * n
  let b1 := Nat.min (g.elems * g.runs) ((e1 + n - 1) / n * n)
  (e0, e1, b0, b1, b0 * g.es / 8)

/-- COPY, COPYM, COPYV, FILL, CKSM and the cluster form of CBCS: the chunk of a command that begins at its progress (spec 05 R108,
R116, R117, 09 R215, R216, R218). -/
def State.copyChunk (s : State) (core eng : Nat) (m : Cmd) : Chunk :=
  let c := m.c
  let g := geoOf c
  let w := s.engWho core eng m.tcid
  let total := if c.op = 5 then 4 else g.total
  let lo := m.prog
  let hi := Nat.min total (lo + 65536)
  let (e0, e1, b0, b1, u0) := spanOf c lo hi
  let srcs : List (Int × Nat) :=
    if c.op = 4 then []
    else if c.op = 5 then itemsFrom g.srcAt 0 g.run
    else if c.op = 3 then itemsFrom g.srcAt u0 ((b1 * g.es + 7) / 8 - u0)
    else itemsFrom g.srcAt lo (hi - lo)
  chunkChecked .read (s.located w .read srcs) (fun sp =>
    let scatter : Bool := c.op = 0x23 && c.fld 5 24 1 = 1
    let more := if scatter then ((memberCores core c.dmask).zipIdx.drop 1).map (fun x => itemsFrom (fun u => g.srcAt u + ((x.2 * g.run : Nat) : Int)) lo (hi - lo)) else []
    chunkChecked .read (s.locatedAll w .read more) (fun sp2 =>
      chunkChecked .write (s.destPieces w c lo (hi - lo)) (fun dps =>
        let from_ := (sp ++ sp2).map (fun x => x.2)
        let ps := from_ ++ dps.flatMap (fun l => l.map (fun x => x.2))
        s.fetched m from_ (fun all =>
        let n := sp.foldl (fun a x => a + x.2.size) 0
        let src := all.take n
        let src2 := all.drop n
        let elems := ((elemsOf g.es src).drop (if g.es = 4 then b0 % 2 else 0)).take (b1 - b0)
        let conv := convert c b0 elems
        let data : List (Byte × Bool) :=
          if c.op = 4 then (List.range (hi - lo)).map (fun i => (byteOf (c.word 1) ((g.dstLogical (lo + i)) % 8).toNat, false))
          else if c.op = 5 then (leBytes 4 (crc32c (src.map (fun b => b.1)))).map (fun b => (b, src.any (fun x => x.2)))
          else if c.op = 3 then packElems g.ed g.elems s.free e0 ((conv.1.drop (e0 - b0)).take (e1 - e0))
          else src
        let scales := conv.2.filter (fun b => c.op = 3 && decide (e0 ≤ b.1 * (c.fld 7 45 8 + 1)) && decide (b.1 * (c.fld 7 45 8 + 1) < e1))
        chunkChecked .write (s.locatedAll w .write (scales.map (fun b => [(((c.fld 5 0 48 + b.1 : Nat) : Int), 0)]))) (fun scp =>
          let datas := data :: (if scatter then chunksOf (hi - lo) 4 src2 else [])
          let stores : Except Fail (List (MemOp × Piece)) :=
            (dps.zipIdx).foldr (fun x acc =>
              match storesAt w (datas.getD (if scatter then x.2 else 0) []) x.1 with
              | .error f => .error f
              | .ok l => (match acc with | .error f => .error f | .ok r => .ok (l ++ r))) (.ok [])
          chunkChecked .write stores (fun st =>
            let sst : List (MemOp × Piece) := (scales.zip scp).map (fun x => (.store [BitVec.ofNat 8 x.1.2.1] [x.1.2.2], x.2.2))
            s.clearTo core (ps ++ scp.map (fun x => x.2)) (fun _ =>
              let pre : List Effect := s.reachAll core m.tcid false from_
                ++ (if g.ed = 4 ∧ g.elems % 2 = 1 then [.free (s.free + e1)] else [])
              let acts : Prog := Prog.seq
                [fun _ => pre, fun s => s.writePieces w.role m.tcid (st ++ sst),
                 fun s => if eng = 0 then s.clearLines m.id (if hi = total then [] else s.linesFrom w c hi) else []]
              .land { prog := hi, last := hi = total, stop := none, pois := all.any (fun b => b.2), arrive := s.arrivalsOf core c.ben (st ++ sst) }
                (acts s))))))))

/-- LNCH (spec 09 R219, 16 R385, R386): the packet and the list are read, the packet is sent, and the command waits for its answer. -/
def State.lnchChunk (s : State) (core eng : Nat) (m : Cmd) : Chunk :=
  let c := m.c
  let w := s.engWho core eng m.tcid
  if m.sent then .wait none []
  else
    let n := 8 * (c.fld 1 48 5 + 1)
    let k := 8 * c.fld 2 48 8
    chunkChecked .read (s.checkAccess w .read (c.fld 1 0 48 : Int) n) (fun p =>
      chunkChecked .read (s.checkAccess w .read (c.fld 2 0 48 : Int) k) (fun q =>
        s.clearTo core (p ++ q) (fun _ => s.fetched m (p ++ q) (fun all =>
          let b := all.map (fun x => x.1)
          let words (l : List Byte) : List Word := (chunksOf 8 l.length l).map (fun x => BitVec.ofNat 64 (leNat x))
          .land { prog := 0, last := false, stop := none, pois := all.any (fun x => x.2), arrive := [] }
            (s.reachAll core m.tcid false (p ++ q) ++
              [.taskNet (s.taskNet ++ [.child core (words (b.take n)) (words (b.drop n)) m.tcid core m.id none])])))))

end Sys2Proof.Machine
end

