-- ==== Sys2Proof/Machine/Bins.lean ====
section
/-! DEFINITION. The binning engine: one chunk of BINAP and BINPL (spec 09 R217), performed at one instant (log 5); and what the members of a collective
agree on, send and sum (09 R218). -/

namespace Sys2Proof.Machine

/-- A bushel table entry: FILL, CAP, BASE (spec 09 R217). -/
structure Bushel where
  fill : Nat
  cap : Nat
  base : Nat
  deriving DecidableEq, Repr

/-- The pieces of an entry of a bushel table as read, and those of its FILL as written. -/
def State.bushelPieces (s : State) (w : Who) (btab b : Nat) : Except Fail (List Piece × List Piece) :=
  match s.checkAccess w .read ((btab + 16 * b : Nat) : Int) 16, s.checkAccess w .write ((btab + 16 * b + 12 : Nat) : Int) 4 with
  | .error f, _ => .error f
  | _, .error f => .error f
  | .ok r, .ok ps => .ok (r, ps)

/-- An entry of a bushel table, from the bytes of its pieces. -/
def State.bushelAt (s : State) (asks : List Ask) (r : List Piece) : Bushel :=
  let x := leNat ((s.fetchFrom asks s.free r).map (fun y => y.1))
  { fill := bits x 96 32, cap := bits x 64 32, base := bits x 0 48 }

/-- The store of bytes with marks over pieces, in order. -/
def cutPieces (data : List (Byte × Bool)) (ps : List Piece) : List (MemOp × Piece) :=
  (ps.foldl (fun (acc : List (MemOp × Piece) × List (Byte × Bool)) p =>
    (acc.1 ++ [(.store ((acc.2.take p.size).map (fun b => b.1)) ((acc.2.take p.size).map (fun b => b.2)), p)], acc.2.drop p.size)) ([], data)).1

/-- Bytes without marks. -/
def clean (l : List Byte) : List (Byte × Bool) := l.map (fun b => (b, false))

/-- What appending records of one chunk answers: how many were appended, whether one did not fit, the writes, the pieces touched, all changes;
what must first be asked of other packages; whether it stops after a record whose bushel another package holds. -/
structure Appended where
  count : Nat
  full : Bool
  writes : List (MemOp × Piece)
  touched : List Piece
  effects : List Effect
  need : List Piece
  cut : Bool
  deriving DecidableEq, Repr

/-- Nothing appended. -/
def Appended.none : Appended := { count := 0, full := false, writes := [], touched := [], effects := [], need := [], cut := false }

/-- Appends records in order until one does not fit (spec 09 R217). -/
def State.appendRecords (s : State) (w : Who) (asks : List Ask) (btab shift nbm : Nat) : List (List (Byte × Bool)) → Except Fail Appended
  | [] => .ok Appended.none
  | r :: l =>
    let b := leNat ((r.take 4).map (fun x => x.1)) / 2 ^ shift
    if nbm < b then .ok { Appended.none with full := true }
    else
      match s.bushelPieces w btab b with
      | .error f => .error f
      | .ok e =>
        if s.lacking asks e.1 ≠ [] then .ok { Appended.none with need := s.lacking asks e.1 }
        else
          let x := s.bushelAt asks e.1
          if x.cap ≤ x.fill then .ok { Appended.none with full := true }
          else
            match s.checkAccess w .write ((x.base + 8 * x.fill : Nat) : Int) 8 with
            | .error f => .error f
            | .ok ps =>
              let st := cutPieces r ps ++ cutPieces (clean (leBytes 4 (x.fill + 1))) e.2
              let now := s.reachAll w.core w.tcid false e.1 ++ (s.apply (s.reachAll w.core w.tcid false e.1)).writePieces w.role w.tcid st
              let one : Appended := { count := 1, full := false, writes := st, touched := ps ++ e.1, effects := now, need := [], cut := true }
              if e.1.any (fun p => p.x.pkg ≠ s.pkgNum) then .ok one
              else
                match (s.apply now).appendRecords w asks btab shift nbm l with
                | .error f => .error f
                | .ok a => .ok { a with count := a.count + 1, writes := st ++ a.writes, touched := one.touched ++ a.touched, effects := now ++ a.effects }

/-- BINAP: a chunk of at most 8,192 records from the command's progress (spec 09 R217, 05 R108). -/
def State.binapChunk (s : State) (core eng : Nat) (m : Cmd) : Chunk :=
  let c := m.c
  let w := s.engWho core eng m.tcid
  let total := 8 * c.fld 3 0 32
  let hi := Nat.min total (m.prog + 65536)
  chunkChecked .read (s.checkAccess w .read ((c.fld 1 0 48 + m.prog : Nat) : Int) (hi - m.prog)) (fun src => s.fetched m src (fun recs =>
    let got := s.reachAll core m.tcid false src
    let s' := s.apply got
    chunkChecked .write (s'.appendRecords w m.asks (c.fld 2 0 48) (c.fld 3 32 5) (c.fld 3 48 16) (chunksOf 8 (hi - m.prog) recs)) (fun a =>
      if a.need ≠ [] ∧ a.count = 0 then .ask a.need
      else s.clearTo core (src ++ a.touched) (fun _ =>
        let whole : Bool := a.need = [] && !a.cut
        let at_ := if a.full || !whole then m.prog + 8 * a.count else hi
        .land { prog := at_, last := at_ = total, stop := if a.full then some (7, 0x33) else none
                pois := (recs.take (8 * a.count)).any (fun b => b.2), arrive := s.arrivalsOf core c.ben a.writes } (got ++ a.effects)))))

/-- The 32-bit word that an update makes (spec 09 R217): add, FP32 add, signed minimum, signed maximum, OR. -/
def updateWord (uop old v : Nat) : Nat :=
  match uop with
  | 0 => (old + v) % 2 ^ 32
  | 1 => roundElem 8 .rne 0 (Val.add .rne (elemVal 8 old) (elemVal 8 v))
  | 2 => if signExt 32 v < signExt 32 old then v else old
  | 3 => if signExt 32 old < signExt 32 v then v else old
  | _ => old ||| v

/-- A region of words with records applied in order: each word with its mark (spec 09 R217). -/
def applyRecords (uop shift : Nat) (words : Map (Nat × Bool)) (l : List (List (Byte × Bool))) : Map (Nat × Bool) :=
  l.foldl (fun m r =>
    let k := leNat ((r.take 4).map (fun x => x.1)) % 2 ^ shift
    let old := Map.get (0, false) m k
    Map.set (0, false) m k (updateWord uop old.1 (leNat ((r.drop 4).map (fun x => x.1))), old.2 || r.any (fun x => x.2))) words

/-- BINPL: one bushel a chunk (spec 09 R217): region to the staging area, records applied, region back, FILL cleared. -/
def State.binplChunk (s : State) (core eng : Nat) (m : Cmd) : Chunk :=
  let c := m.c
  let w := s.engWho core eng m.tcid
  let n := 4 * 2 ^ c.fld 4 32 5
  let b := c.fld 4 0 16 + m.prog / n
  let last : Bool := m.prog / n = c.fld 4 16 16
  chunkChecked .read (s.bushelPieces w (c.fld 1 0 48) b) (fun e => s.fetched m e.1 (fun _ =>
    let x := s.bushelAt m.asks e.1
    chunkChecked .read (s.checkAccess w .read (x.base : Int) (8 * x.fill)) (fun rs =>
      chunkChecked .read (s.checkAccess w .read ((c.fld 2 0 48 + b * n : Nat) : Int) n) (fun src =>
        chunkChecked .write (s.checkAccess w .write ((c.fld 2 0 48 + b * n : Nat) : Int) n) (fun dst =>
          chunkChecked .write (s.checkWindow w .write core (c.fld 3 0 21 : Int) n) (fun stage =>
            s.clearTo core (rs ++ src ++ dst ++ stage ++ e.2) (fun _ => s.fetched m (rs ++ src) (fun all =>
              let recs := all.take (8 * x.fill)
              let region := all.drop (8 * x.fill)
              let words : Map (Nat × Bool) := ((elemsOf 32 region).zipIdx).map (fun x => (x.2, x.1))
              let new := applyRecords (c.fld 4 37 3) (c.fld 4 32 5) words (chunksOf 8 (8 * x.fill) recs)
              let data := markedBytes 4 ((List.range (n / 4)).map (fun i => Map.get (0, false) new i))
              let st := cutPieces data stage ++ cutPieces data dst ++ cutPieces (clean (leBytes 4 0)) e.2
              let got := s.reachAll core m.tcid false (e.1 ++ rs ++ src)
              .land { prog := m.prog + n, last := last, stop := none, pois := all.any (fun x => x.2), arrive := s.arrivalsOf core c.ben st }
                (got ++ (s.apply got).writePieces w.role m.tcid st)))))))))

/-- A member of a collective: its core, its place among the running commands, the command (spec 09 R218). -/
structure Member where
  core : Nat
  cmd : Cmd
  deriving DecidableEq, Repr

/-- The oldest collective command naming a group table that a core's engine has started and that has joined no collective: the n-th of its core,
since members join in order (spec 09 R218). -/
def State.collOf (s : State) (core tcid gtab : Nat) : Option Cmd :=
  (s.engine core 2).running.find? (fun m => m.started && !m.finished && m.coll.isNone && m.tcid = tcid && decide (0x20 ≤ m.c.op) && m.c.fld 4 0 48 = gtab)

/-- Whether every entry names a core, here or in another package; package and core of an entry (spec 09 R218). -/
def entryOk (e : Nat) : Bool := bits e 15 17 = 0 && decide (bits e 0 9 < 384)
def entryPkg (e : Nat) : Nat := bits e 9 6
def entryCore (e : Nat) : Nat := bits e 0 9

/-- The messages by which the packages of a group tell one another of a collective (log 47): 1 a member has issued it (its command, its source
with marks), 2 the sums (status, bytes with marks), 3 a member's command is complete. -/
def State.heard (s : State) (kind tcid gtab e : Nat) : Option PeerReq :=
  s.collPeers.find? (fun r => r.size = kind && r.tcid = tcid && r.pa = gtab && r.srcPkg = entryPkg e && r.srcCore = entryCore e)

/-- Bytes with marks as a message carries them, and back. -/
def markBytes (l : List (Byte × Bool)) : List Byte := l.map (fun b => b.1) ++ l.map (fun b => BitVec.ofNat 8 (bit01 b.2))
def bytesMarked (l : List Byte) : List (Byte × Bool) := (l.take (l.length / 2)).zip ((l.drop (l.length / 2)).map (fun b => b.getLsbD 0))

/-- The words of a command as bytes, and back. -/
def commandBytes (c : Command) : List Byte := (List.range 8).flatMap (fun i => leBytes 8 (c.word i))
def commandIn (r : PeerReq) : Command := Sys2Proof.commandOf (leNat (r.data.take 64))

/-- What all members must agree on (spec 09 R218). -/
def collAgrees (c d : Command) : Bool :=
  c.op = d.op && c.fld 4 0 64 = d.fld 4 0 64 && c.fld 3 48 16 = d.fld 3 48 16 && c.fld 3 0 32 = d.fld 3 0 32
    && c.fld 1 48 16 = d.fld 1 48 16 && c.fld 5 15 9 = d.fld 5 15 9

end Sys2Proof.Machine
end

