-- ==== Sys2Proof/Machine/Collective.lean ====
section
/-! DEFINITION. How a chunk ends its command (spec 05 R107 to R109), and the collective engine (09 R218): the members find one another, sources
join, destinations are written chunk by chunk, the root ends last. Packages of one group tell one another what they need (log 47). -/

namespace Sys2Proof.Machine

/-- A failed check stops the command; one that meets "—" freezes the engine (spec 05 R105, R109, 01 R28, 18 R438). -/
def failCommand (core eng : Nat) (m : Cmd) (f : Fail) (k : Kind) : Prog := fun s =>
  let g := s.engine core eng
  if f.cause = 0x52 then
    Prog.seq [fun _ => [.engine (4 * core + eng) { g with frozen := true, frozenAt := m.id }],
      freezeEntry m.tcid (s.engineRole core eng) (f.detail.toNat % 2 ^ 48) k] s
  else [.engine (4 * core + eng) (g.update m.id (fun c => c.stop (statusOf f.cause) f.cause (s.engineRole core eng)))]

/-- What a turn of a chunk leaves of its command (spec 05 R107 to R109). Writes to other packages are numbered from the next number on: the chunk
lands when all are answered. -/
def settleChunk (core eng : Nat) (m : Cmd) (x : Chunk) : Prog := fun s =>
  let put (f : Cmd → Cmd) : Prog := fun s => [.engine (4 * core + eng) ((s.engine core eng).update m.id f)]
  match x with
  | .fail f k => failCommand core eng m f k s
  | .wait gate l => Prog.seq [fun _ => l, put (fun c => { c with gate := gate })] s
  | .ask ps =>
    let q := s.askFor (s.engineRole core eng) m.tcid .read 0 [] m.asks ps
    Prog.seq [fun _ => q.2, put (fun c => { c with asks := q.1, gate := none })] s
  | .land d l =>
    Prog.seq
      [fun _ => l,
       fun t => put (fun c => { c with asks := [], gate := none, landing := some d
                                       owes := (List.range (t.nextId - s.nextId)).map (fun i => s.nextId + i) }) t,
       fun t => if t.nextId = s.nextId then landChunk core eng m.id t else []] s

/-- Every member's command stops so. -/
def stopMembers (ms : List Member) (f : Member → Cmd → Cmd) : Prog :=
  Prog.forEach ms (fun x s => [.engine (4 * x.core + 2) ((s.engine x.core 2).update x.cmd.id (f x))])

/-- Collective mismatch (spec 05 R109). -/
def mismatch (s : State) (x : Member) (c : Cmd) : Cmd := c.stop 8 0x34 (s.engineRole x.core 2)

/-- A member whose group has a package that cannot be reached (spec 18 R425). -/
def unreached (s : State) (x : Member) (c : Cmd) : Cmd := c.stop 6 0x51 (s.engineRole x.core 2)

/-- Bytes of one element: WA128 words are 16 B (spec 03 R72). -/
def collBytes (f : Nat) : Nat := if f = 16 then 16 else fmtWidth f / 8

/-- Whether a collective sums (CRED, CARD), and its root's rank (spec 09 R218). -/
def collSums (c : Command) : Bool := c.op = 0x20 || c.op = 0x21
def collRoot (c : Command) : Nat := c.fld 3 48 16

/-- The source and destination lengths of a member (spec 09 R218). -/
def collLens (c : Command) (rank : Nat) : Nat × Nat :=
  let n := c.fld 3 0 32
  let es := n * collBytes c.sfmt
  let ds := n * collBytes c.dfmt
  let root : Bool := rank = collRoot c
  if c.op = 0x20 then (es, if root then ds else 0)
  else if c.op = 0x21 then (es, ds)
  else if c.op = 0x22 then (es, es * (c.fld 4 48 16 + 1))
  else (if root then (if c.fld 5 24 1 = 1 then es * (c.fld 4 48 16 + 1) else es) else 0, es)

/-- The words that a source's elements join a range as (spec 09 R218, 03 R73). -/
def collWords (c : Command) (l : List (Byte × Bool)) : List (BitVec 128) :=
  (elemsOf (8 * collBytes c.sfmt) l).map (fun x =>
    if c.sfmt = 16 then (if x.2 then waMask x.1 ||| 1#128 <<< 105 else waMask x.1)
    else waContribution (elemVal c.sfmt x.1) x.2 (signExt 9 (c.fld 5 15 9)))

/-- The bytes of an entry read out (spec 03 R76, 09 R218). -/
def collRead (c : Command) (w : BitVec 128) : List (Byte × Bool) :=
  let p := w.getLsbD 105
  if c.dfmt = 16 then (leBytes 16 w.toNat).map (fun b => (b, p))
  else (leBytes (collBytes c.dfmt) (waRead w (signExt 9 (c.fld 5 15 9)) c.dfmt (crmMode c.crm) 0 (c.fld 1 60 1 = 1))).map (fun b => (b, p))

/-- The pieces of a group table, and its entries once they can be read (spec 09 R218). -/
def State.groupTable (s : State) (w : Who) (c : Command) : Except Fail (List Piece) :=
  s.checkAccess w .read (c.fld 4 0 48 : Int) (4 * (c.fld 4 48 16 + 1))
def State.entriesOf (s : State) (m : Cmd) (ps : List Piece) : List Nat :=
  let l := s.fetchFrom m.asks s.free ps
  (chunksOf 4 l.length l).map (fun x => leNat (x.map (fun y => y.1)))

/-- The packages of a group other than this one. -/
def State.otherPackages (s : State) (tab : List Nat) : List Nat :=
  tab.foldl (fun acc e => if entryPkg e = s.pkgNum then acc else Nats.add acc (entryPkg e)) []

/-- Tells the other packages of a group (log 47). -/
def tellGroup (core tcid gtab kind rank : Nat) (tab : List Nat) (data : List Byte) : Prog := fun s =>
  if (s.otherPackages tab).isEmpty then [] else .nextId (s.nextId + 1) :: (s.otherPackages tab).map (fun p =>
    .send (.peer (s.peerReq (s.engineRole core 2) p gtab tcid s.nextId kind .collective rank (clean data))))

/-- The source of a member: its pieces (spec 09 R218). -/
def State.sourceOf (s : State) (core tcid : Nat) (c : Command) (lo n : Nat) : Except Fail (List Piece) :=
  s.checkAccess (s.engWho core 2 tcid) .read ((c.fld 1 0 48 + lo : Nat) : Int) n

/-- A member's announcement to the other packages: its command and its source (log 47). -/
def announceTurn (core : Nat) (m : Cmd) (tab : List Nat) : Prog := fun s =>
  let x := chunkChecked .read (s.sourceOf core m.tcid m.c 0 (collLens m.c (m.c.fld 3 32 16)).1) (fun ps =>
    s.clearTo core ps (fun _ => s.fetched m ps (fun l =>
      let go : Prog := Prog.seq
        [fun s => s.reachAll core m.tcid false ps,
         tellGroup core m.tcid (m.c.fld 4 0 48) 1 (m.c.fld 3 32 16) tab (commandBytes m.c ++ markBytes l),
         fun s => [.engine (4 * core + 2) ((s.engine core 2).update m.id (fun c => { c with sent := true, asks := [], gate := none }))]]
      .wait none (go s))))
  settleChunk core 2 m x s

/-- The member that an entry names, if it is of this package and has issued the collective; the command of any member that has. -/
def State.memberAt (s : State) (tcid gtab e : Nat) : Option Member :=
  if entryPkg e = s.pkgNum then (s.collOf (entryCore e) tcid gtab).map (fun d => { core := entryCore e, cmd := d }) else none
def State.rankCommand (s : State) (tcid gtab e : Nat) : Option Command :=
  if entryPkg e = s.pkgNum then (s.memberAt tcid gtab e).map (fun x => x.cmd.c) else (s.heard 1 tcid gtab e).map commandIn

/-- The region that a command's issuer belongs to: it owns the range of a collective (spec 09 R218, 14 R319). -/
def State.ridOfCmd (s : State) (m : Cmd) : BitVec 16 := match m.src with | .elem key => s.ridOf key | .thread _ _ => 0

/-- All members have issued the collective and agree (spec 09 R218): it begins. A root of this package that sums takes the lowest free range and
zeroes it; a range that meets a live one ends all as a mismatch; with no free descriptor it waits. -/
def formColl (core : Nat) (m : Cmd) (tab : List Nat) (coms : List Command) (ms : List (Option Member)) : Prog := fun s =>
  let c := m.c
  let gtab := c.fld 4 0 48
  let n := c.fld 3 0 32
  let peers := tab.map (fun e => if entryPkg e = s.pkgNum then none else s.heard 1 m.tcid gtab e)
  let begin_ (dix : Option Nat) : Prog := fun s =>
    .nextId (s.nextId + 1) ::
      .collPeers (s.collPeers.filter (fun r => !peers.contains (some r))) ::
      .colls (s.colls ++ [{ id := s.nextId, tab := tab, coms := coms, cmds := ms.map (fun x => x.map (fun y => y.cmd.id)), peers := peers
                            joined := [], told := false, dix := dix }]) ::
      (ms.filterMap id).map (fun x => .engine (4 * x.core + 2) ((s.engine x.core 2).update x.cmd.id (fun d => { d with coll := some s.nextId })))
  match (if collSums c then ms.getD (collRoot c) none else none) with
  | none => begin_ none s
  | some r =>
    let first := r.cmd.c.fld 5 0 15
    if (s.rangeMeets r.core first n).isSome then
      Prog.seq [stopMembers (ms.filterMap id) (mismatch s),
        tellGroup core m.tcid gtab 2 (collRoot c) tab [8],
        fun s => [.collPeers (s.collPeers.filter (fun q => !peers.contains (some q)))]] s
    else
      match s.freeRange r.core with
      | none => []
      | some dix =>
        Prog.seq
          [fun s => [s.reserve r.core dix first n (n * tab.length) (BitVec.ofNat 9 (c.fld 5 15 9)) (s.ridOfCmd r.cmd) m.tcid,
                     .amClear (32768 * r.core + first) (32768 * r.core + first + n)],
           begin_ (some dix)] s

/-- A turn of a collective command that has joined none: it waits until every member has issued one; members that disagree all end as a
mismatch (spec 09 R218). -/
def gatherTurn (core : Nat) (m : Cmd) : Prog := fun s =>
  let gtab := m.c.fld 4 0 48
  match s.groupTable (s.engWho core 2 m.tcid) m.c with
  | .error f => failCommand core 2 m f .read s
  | .ok ps =>
    if s.lacking m.asks ps ≠ [] then settleChunk core 2 m (s.fetched m ps (fun _ => .wait none [])) s
    else
      let tab := s.entriesOf m ps
      if !tab.all entryOk then stopMembers [{ core := core, cmd := m }] (mismatch s) s
      else if (s.collOf core m.tcid gtab).map (fun d => d.id) ≠ some m.id then []
      else if (s.otherPackages tab).any s.cutOff then stopMembers [{ core := core, cmd := m }] (unreached s) s
      else if (s.otherPackages tab).isEmpty = false ∧ m.sent = false then announceTurn core m tab s
      else
        match tab.mapM (s.rankCommand m.tcid gtab) with
        | none => []
        | some coms =>
          let ms := tab.map (s.memberAt m.tcid gtab)
          let here := ms.filterMap id
          if here.any (fun x => x.cmd.paused || (s.engine x.core 2).frozen) then []
          else if !((coms.zipIdx).all (fun x => collAgrees m.c x.1 && x.1.fld 3 32 16 = x.2)) || !(here.any (fun x => x.core = core)) then
            Prog.seq [stopMembers ({ core := core, cmd := m } :: here) (mismatch s),
              fun s => [.collPeers (s.collPeers.filter (fun q => !(tab.map (fun e => s.heard 1 m.tcid gtab e)).contains (some q)))]] s
          else formColl core m tab coms ms s

/-- The command of a rank of this package that is still held by its engine. -/
def State.rankCmd (s : State) (x : Coll) (rank : Nat) : Option Member :=
  match x.cmds.getD rank none with
  | none => none
  | some i => ((s.engine (entryCore (x.tab.getD rank 0)) 2).running.find? (fun c => c.id = i)).map (fun c => { core := entryCore (x.tab.getD rank 0), cmd := c })
def State.liveMembers (s : State) (x : Coll) : List (Member × Nat) :=
  (List.range x.tab.length).filterMap (fun r => match s.rankCmd x r with | some m => if m.cmd.finished then none else some (m, r) | none => none)

/-- The collective record replaced, and gone: its range is released, the messages about it are dropped. -/
def updateColl (id : Nat) (f : Coll → Coll) : Prog := fun s => [.colls (s.colls.map (fun x => if x.id = id then f x else x))]
def endColl (x : Coll) (m : Cmd) : Prog := fun s =>
  let gtab := m.c.fld 4 0 48
  let used := [2, 3].flatMap (fun k => x.tab.filterMap (fun e => s.heard k m.tcid gtab e))
  .colls (s.colls.filter (fun y => y.id ≠ x.id)) :: .collPeers (s.collPeers.filter (fun r => !used.contains r)) ::
    (match x.dix with | some d => [s.releaseRange (entryCore (x.tab.getD (collRoot m.c) 0)) d] | none => [])

/-- A member's source cannot be read: the others end as a mismatch (log 5), here and, told so, in other packages. -/
def abortColl (core : Nat) (x : Coll) (m : Cmd) (others : List Member) : Prog := fun s =>
  Prog.seq [stopMembers others (mismatch s),
    tellGroup core m.tcid (m.c.fld 4 0 48) 2 (m.c.fld 3 32 16) x.tab [8],
    endColl x m] s

/-- A rank's source joins the root's range (spec 09 R218): contributions with the range's tag, each counted in its ARR (14 R320). -/
def joinRank (x : Coll) (m : Cmd) (rank : Nat) (l : List (Byte × Bool)) : Prog := fun s =>
  match x.dix with
  | none => updateColl x.id (fun y => { y with joined := Nats.add y.joined rank }) s
  | some d =>
    let root := entryCore (x.tab.getD (collRoot m.c) 0)
    let first := (x.coms.getD (collRoot m.c) m.c).fld 5 0 15
    Prog.seq
      [fun s => s.addAll root ((collWords m.c l).zipIdx.map (fun w => (d, first + w.2, w.1))),
       updateColl x.id (fun y => { y with joined := Nats.add y.joined rank })] s

/-- The turn in which a rank joins: of this package when its source can be read, of another with what it announced. -/
def joinTurn (core : Nat) (x : Coll) (m : Cmd) (rank : Nat) : Prog := fun s =>
  let others := (s.liveMembers x).filter (fun y => y.2 ≠ rank)
  match x.peers.getD rank none with
  | some r => joinRank x m rank (bytesMarked (r.data.drop 64)) s
  | none =>
    match s.rankCmd x rank with
    | none => abortColl core x m (others.map (fun y => y.1)) s
    | some y =>
      if y.cmd.finished then abortColl core x m (others.map (fun y => y.1)) s
      else
        match s.sourceOf y.core m.tcid y.cmd.c 0 (collLens m.c rank).1 with
        | .error f =>
          Prog.seq [failCommand y.core 2 y.cmd f .read,
            if f.cause = 0x52 then Prog.skip else abortColl core x m (others.map (fun y => y.1))] s
        | .ok ps =>
          settleChunk y.core 2 y.cmd (s.clearTo y.core ps (fun _ => s.fetched y.cmd ps (fun l =>
            .land { prog := 0, last := false, stop := none, pois := collSums m.c && l.any (fun b => b.2), arrive := [] }
              ((s.reachAll y.core m.tcid false ps)
                ++ joinRank x m rank (if collSums m.c then l else []) (s.apply (s.reachAll y.core m.tcid false ps)))))) s

/-- The parts of the sources that bytes lo to hi − 1 of a rank's destination come from: rank, offset, length (spec 09 R218). -/
def collParts (c : Command) (size rank lo hi : Nat) : List (Nat × Nat × Nat) :=
  let n := c.fld 3 0 32 * collBytes c.sfmt
  if c.op = 0x22 then
    (List.range size).filterMap (fun i =>
      let a := Nat.max lo (i * n)
      let b := Nat.min hi ((i + 1) * n)
      if a < b then some (i, a - i * n, b - a) else none)
  else [(collRoot c, (if c.fld 5 24 1 = 1 then rank * n else 0) + lo, hi - lo)]

/-- Bytes lo to hi − 1 of what a rank receives: the pieces of this package to read for them, and the bytes once those are fetched. -/
def State.partPieces (s : State) (x : Coll) (m : Cmd) : List (Nat × Nat × Nat) → Except Fail (List Piece)
  | [] => .ok []
  | (i, lo, n) :: l =>
    match (if (x.peers.getD i none).isSome then .ok [] else s.sourceOf (entryCore (x.tab.getD i 0)) m.tcid (x.coms.getD i m.c) lo n), s.partPieces x m l with
    | .error f, _ => .error f
    | _, .error f => .error f
    | .ok p, .ok q => .ok (p ++ q)
def partBytes (x : Coll) : List (Nat × Nat × Nat) → List (Byte × Bool) → List (Byte × Bool)
  | [], _ => []
  | (i, lo, n) :: l, got =>
    match x.peers.getD i none with
    | some r => (((bytesMarked (r.data.drop 64)).drop lo).take n) ++ partBytes x l got
    | none => got.take n ++ partBytes x l (got.drop n)

/-- The sums of a collective, read out: bytes lo to hi − 1 (spec 09 R218). -/
def State.sumBytes (s : State) (x : Coll) (c : Command) (lo hi : Nat) : List (Byte × Bool) :=
  let z := collBytes c.dfmt
  let root := entryCore (x.tab.getD (collRoot c) 0)
  let first := (x.coms.getD (collRoot c) c).fld 5 0 15
  ((List.range ((hi + z - 1) / z - lo / z)).flatMap (fun i => collRead c (s.amEntry root (first + lo / z + i)))).drop (lo % z) |>.take (hi - lo)

/-- The next chunk of a member's destination (spec 05 R108, 09 R218). -/
def State.collChunk (s : State) (core : Nat) (x : Coll) (m : Cmd) (rank : Nat) (sums : List (Byte × Bool)) : Chunk :=
  let w := s.engWho core 2 m.tcid
  let total := (collLens m.c rank).2
  let lo := m.prog
  let hi := Nat.min total (lo + 65536)
  let parts := if collSums m.c then [] else collParts m.c x.tab.length rank lo hi
  chunkChecked .write (s.checkAccess w .write ((m.c.fld 2 0 48 + lo : Nat) : Int) (hi - lo)) (fun dst =>
    chunkChecked .read (s.partPieces x m parts) (fun src =>
      s.clearTo core (src ++ dst) (fun _ => s.fetched m src (fun got =>
        let data := if collSums m.c then (if x.dix.isSome then s.sumBytes x m.c lo hi else (sums.drop lo).take (hi - lo)) else partBytes x parts got
        let st := cutPieces data dst
        let pre := s.reachAll core m.tcid false src
        .land { prog := hi, last := false, stop := none, pois := data.any (fun b => b.2), arrive := s.arrivalsOf core m.c.ben st }
          (pre ++ (s.apply pre).writePieces w.role m.tcid st)))))

/-- The end of a member that has received everything, once every member of the package has; the root's once every member's command has ended
(spec 09 R218). The last one releases the range. -/
def finishTurn (core : Nat) (x : Coll) (m : Cmd) (rank : Nat) : Prog := fun s =>
  let live := s.liveMembers x
  let through (y : Member × Nat) : Bool := y.1.cmd.landing.isNone && decide ((collLens m.c y.2).2 ≤ y.1.cmd.prog)
  let others := live.filter (fun y => y.2 ≠ rank)
  let ended : Bool := others.isEmpty && x.tab.all (fun e => entryPkg e = s.pkgNum || (s.heard 3 m.tcid (m.c.fld 4 0 48) e).isSome)
    && (List.range x.tab.length).all (fun r => r = rank || (s.rankCmd x r).isNone)
  if !live.all through || (rank = collRoot m.c && !ended) then []
  else
    Prog.seq
      [fun s => [.engine (4 * core + 2) ((s.engine core 2).update m.id (fun c => { c.doneOk (s.engineRole core 2) with coll := none }))],
       tellGroup core m.tcid (m.c.fld 4 0 48) 3 rank [x.tab.getD (collRoot m.c) 0] [],
       if others.isEmpty then endColl x m else Prog.skip] s

/-- A turn of a collective that is under way, at one of its members: sources join, the sums are told, then the member's own bytes. -/
def collStep (core : Nat) (x : Coll) (m : Cmd) : Prog := fun s =>
  let rank := m.c.fld 3 32 16
  let gtab := m.c.fld 4 0 48
  let heardSums := (x.tab.filterMap (fun e => s.heard 2 m.tcid gtab e)).head?
  if (s.liveMembers x).any (fun y => y.1.cmd.paused || (s.engine y.1.core 2).frozen || y.1.cmd.landing.isSome) then []
  else if (s.otherPackages x.tab).any s.cutOff then
    Prog.seq [stopMembers ((s.liveMembers x).map (fun y => y.1)) (unreached s), endColl x m] s
  else if heardSums.any (fun r => (r.data.headD 0).toNat ≠ 0) then
    Prog.seq [stopMembers ((s.liveMembers x).map (fun y => y.1)) (mismatch s), endColl x m] s
  else
    match (List.range x.tab.length).find? (fun r => !x.joined.contains r) with
    | some r => joinTurn core x m r s
    | none =>
      if collSums m.c && x.dix.isNone && heardSums.isNone then []
      else if x.dix.isSome && !x.told && !(s.otherPackages x.tab).isEmpty then
        Prog.seq [tellGroup core m.tcid gtab 2 (collRoot m.c) x.tab (0 :: markBytes (s.sumBytes x m.c 0 (m.c.fld 3 0 32 * collBytes m.c.dfmt))),
          updateColl x.id (fun y => { y with told := true })] s
      else if m.prog < (collLens m.c rank).2 then
        settleChunk core 2 m (s.collChunk core x m rank (match heardSums with | some r => bytesMarked (r.data.drop 1) | none => [])) s
      else finishTurn core x m rank s

/-- A turn of a collective command (spec 09 R218). -/
def collectiveTurn (core : Nat) (m : Cmd) : Prog := fun s =>
  match m.coll with
  | none => gatherTurn core m s
  | some i => match s.colls.find? (fun x => x.id = i) with | some x => collStep core x m s | none => []

end Sys2Proof.Machine
end

