-- ==== Sys2Proof/Machine/Commands.lean ====
section
/-! DEFINITION. The meanings of the twelve engine commands, the chunk and the completion of a command (spec 05 R107 to R109, 09 R215
to R219), and DRAIN (09 R206). -/

namespace Sys2Proof.Machine

/-- A turn of the command that runs at a place of an engine: its next chunk. -/
def advance (core eng : Nat) (m : Cmd) : Prog := fun s =>
  let op := m.c.op
  if eng = 2 ∧ m.c.fld 4 0 48 ≠ 0 then collectiveTurn core m s
  else settleChunk core eng m
    (if op = 0x10 then s.binapChunk core eng m
     else if op = 0x11 then s.binplChunk core eng m
     else if op = 0x30 then s.lnchChunk core eng m
     else s.copyChunk core eng m) s

/-- Whether a command may begin a chunk (spec 05 R103, R109, R110): it is one of the four that run, and its last chunk has landed. -/
def Engine.mayRun (g : Engine) (c : Cmd) : Bool :=
  !g.frozen && c.started && !c.finished && !c.paused && c.landing.isNone && g.active.any (fun d => d.id = c.id)

/-- ENGINE_CHUNK (spec 05 R108): one chunk of the command at a place among those running. -/
def execEngineChunk (core eng idx : Nat) (s : State) : Host.Outcome State Fault Refusal :=
  complete (fun s =>
    let g := s.engine core eng
    match g.running[idx]? with
    | some m => if g.mayRun m then advance core eng m s else []
    | none => []) s

/-- The command that the focus names, if its words are these and it may run. -/
def State.commandOf (s : State) (c : Command) : Option (Nat × Nat × Cmd) :=
  match s.focus with
  | .command core eng idx =>
    match (s.engine core eng).running[idx]? with
    | some m => if m.c = c && (s.engine core eng).mayRun m then some (core, eng, m) else none
    | none => none
  | _ => none

/-- A turn of a command that the focus names. -/
def commandTurn (c : Command) (p : Nat → Nat → Cmd → Prog) : Prog := fun s =>
  match s.commandOf c with
  | some x => p x.1 x.2.1 x.2.2 s
  | none => []

/-- COPY (spec 09 R215). -/
def execCopy (c : Command) (s : State) : Host.Outcome State Fault Refusal :=
  complete (commandTurn c (fun core eng m s => settleChunk core eng m (s.copyChunk core eng m) s)) s

/-- COPYM (spec 05 R117). -/
def execCopym (c : Command) (s : State) : Host.Outcome State Fault Refusal :=
  complete (commandTurn c (fun core eng m s => settleChunk core eng m (s.copyChunk core eng m) s)) s

/-- COPYV (spec 09 R215). -/
def execCopyv (c : Command) (s : State) : Host.Outcome State Fault Refusal :=
  complete (commandTurn c (fun core eng m s => settleChunk core eng m (s.copyChunk core eng m) s)) s

/-- FILL (spec 09 R216). -/
def execFill (c : Command) (s : State) : Host.Outcome State Fault Refusal :=
  complete (commandTurn c (fun core eng m s => settleChunk core eng m (s.copyChunk core eng m) s)) s

/-- CKSM (spec 09 R216). -/
def execCksm (c : Command) (s : State) : Host.Outcome State Fault Refusal :=
  complete (commandTurn c (fun core eng m s => settleChunk core eng m (s.copyChunk core eng m) s)) s

/-- BINAP (spec 09 R217). -/
def execBinap (c : Command) (s : State) : Host.Outcome State Fault Refusal :=
  complete (commandTurn c (fun core eng m s => settleChunk core eng m (s.binapChunk core eng m) s)) s

/-- BINPL (spec 09 R217). -/
def execBinpl (c : Command) (s : State) : Host.Outcome State Fault Refusal :=
  complete (commandTurn c (fun core eng m s => settleChunk core eng m (s.binplChunk core eng m) s)) s

/-- CRED (spec 09 R218). -/
def execCred (c : Command) (s : State) : Host.Outcome State Fault Refusal :=
  complete (commandTurn c (fun core _ m => collectiveTurn core m)) s

/-- CARD (spec 09 R218). -/
def execCard (c : Command) (s : State) : Host.Outcome State Fault Refusal :=
  complete (commandTurn c (fun core _ m => collectiveTurn core m)) s

/-- CAGA (spec 09 R218). -/
def execCaga (c : Command) (s : State) : Host.Outcome State Fault Refusal :=
  complete (commandTurn c (fun core _ m => collectiveTurn core m)) s

/-- CBCS (spec 09 R218): the cluster form moves chunks as COPYM does. -/
def execCbcs (c : Command) (s : State) : Host.Outcome State Fault Refusal :=
  complete (commandTurn c (fun core eng m => advance core eng m)) s

/-- LNCH (spec 09 R219, 16 R385). -/
def execLnch (c : Command) (s : State) : Host.Outcome State Fault Refusal :=
  complete (commandTurn c (fun core eng m s => settleChunk core eng m (s.lnchChunk core eng m) s)) s

/-- The completion record (spec 05 R107). -/
def Cmd.record (c : Cmd) : Nat := c.prog % 2 ^ 40 * 2 ^ 24 + c.cause % 128 * 2 ^ 16 + c.status % 256

/-- The completion of a command after its record (spec 05 R107): the signal; a tracked command's record enters its list (09 R213); its pending
marks clear (04 R91); the last command of a collective takes its record with it. -/
def completeCommand (core : Nat) (m : Cmd) : Prog := Prog.seq
  [fun s =>
     if m.c.fld 0 37 1 = 1 then
       let n := m.c.fld 0 38 8
       [.sem (256 * core + n) (semSignal (s.sem core n) (signExt 16 (m.c.fld 0 46 16)) (if m.status = 0 then none else some (m.cause, m.role)))]
     else [],
   fun s =>
     match m.src with
     | .elem key =>
       let e := s.elem key
       if e.tracked.any (fun t => t.cmd = m.id) then
         [.elem key { e with tracked := e.tracked.map (fun t => if t.cmd = m.id then { t with done := some (BitVec.ofNat 64 m.record) } else t) }]
       else []
     | .thread t n => [.thread t { s.thread t with opened := (s.thread t).opened.filter (fun i => i ≠ n) }],
   fun s => s.clearLines m.id [],
   fun s =>
     match s.colls.find? (fun x => m.coll = some x.id) with
     | some x => if (s.liveMembers x).isEmpty then endColl x m s else []
     | none => []]

/-- The completion record goes to the address that was checked and translated at acceptance (spec 05 R105, R107), and is then no longer owed; a
gated core wakes first (01 R32). -/
def recordOut (core eng : Nat) (m : Cmd) (x : Xlat) : Prog := fun s =>
  let put (f : Cmd → Cmd) : Prog := fun s => [.engine (4 * core + eng) ((s.engine core eng).update m.id f)]
  match s.gatedFor x.pkg x.pa with
  | some g => Prog.seq [fun _ => [.gate g .waking], put (fun c => { c with gate := some g })] s
  | none =>
    Prog.seq
      [fun s => s.writePieces (s.engineRole core eng) m.tcid [(.store (leBytes 8 m.record) (List.replicate 8 false), ⟨x, m.c.word 6, 8⟩)],
       put (fun c => { c with replyAt := none, gate := none, owes := if x.pkg = s.pkgNum then [] else [s.nextId] })] s

/-- ENGINE_COMMAND_COMPLETE (spec 05 R107): the command at a place among those running, once it has stopped: first its record, then, when that is
performed, the rest. -/
def execEngineCommandComplete (core eng idx : Nat) (s : State) : Host.Outcome State Fault Refusal :=
  complete (fun s =>
    match (s.engine core eng).running[idx]? with
    | some m =>
      if !m.finished || (s.engine core eng).frozen then []
      else
        Prog.seq
          [fun s => match m.replyAt with | some x => recordOut core eng m x s | none => [],
           fun s =>
             let g := s.engine core eng
             match g.running.find? (fun c => c.id = m.id) with
             | some c =>
               if c.replyAt.isSome || c.owes ≠ [] then []
               else Prog.seq [fun _ => [.engine (4 * core + eng) { g with running := g.running.filter (fun d => d.id ≠ c.id) }], completeCommand core c] s
             | none => []] s
    | none => []) s

/-- The ranks whose destinations a collective command writes: its own, and for the root of CARD and of CBCS every member's (spec 09 R218, 05 R118). -/
def State.writesFor (s : State) (core : Nat) (m : Cmd) : List (Nat × Command × Nat) :=
  let own : Nat × Command × Nat := (core, m.c, m.c.fld 3 32 16)
  if m.c.fld 3 32 16 ≠ m.c.fld 3 48 16 ∨ (m.c.op ≠ 0x21 ∧ m.c.op ≠ 0x23) then [own]
  else
    match s.groupTable (s.engWho core 2 m.tcid) m.c with
    | .error _ => [own]
    | .ok ps =>
      ((s.entriesOf m ps).zipIdx).filterMap (fun x =>
        if entryPkg x.1 ≠ s.pkgNum then none
        else (((s.engine (entryCore x.1) 2).running.find? (fun d => d.tcid = m.tcid && d.c.fld 4 0 48 = m.c.fld 4 0 48 && (d.coll = m.coll || d.coll.isNone))).map
          (fun d => (entryCore x.1, d.c, x.2))))

/-- The pieces that a command writes, as far as they can be told now (spec 05 R118, 09 R206); its record counts. -/
def State.writtenBy (s : State) (core eng : Nat) (m : Cmd) : List Piece :=
  let c := m.c
  let w := s.engWho core eng m.tcid
  let at_ (va n : Nat) : List Piece := passedPieces (s.checkAccess w .write (va : Int) n)
  let shelf (b : Nat) : List Piece :=
    match s.bushelPieces w (if c.op = 0x10 then c.fld 2 0 48 else c.fld 1 0 48) b with
    | .error _ => []
    | .ok e => e.2 ++ (if c.op = 0x10 then at_ (s.bushelAt m.asks e.1).base (8 * (s.bushelAt m.asks e.1).cap) else [])
  (if c.op < 16 ∨ (c.op = 0x23 ∧ c.fld 4 0 48 = 0) then
     s.destFrom w c 0 ++ (if c.op = 3 ∧ c.fld 7 44 1 = 1 then at_ (c.fld 5 0 48) ((geoOf c).elems * (geoOf c).runs / (c.fld 7 45 8 + 1) + 1) else [])
   else if c.op = 0x10 then (List.range (c.fld 3 48 16 + 1)).flatMap shelf
   else if c.op = 0x11 then
     let n := 4 * 2 ^ c.fld 4 32 5
     passedPieces (s.checkWindow w .write core (c.fld 3 0 21 : Int) n)
       ++ (List.range (c.fld 4 16 16 + 1)).flatMap (fun i => shelf (c.fld 4 0 16 + i) ++ at_ (c.fld 2 0 48 + (c.fld 4 0 16 + i) * n) n)
   else if c.op = 0x30 then []
   else (s.writesFor core m).flatMap (fun x => passedPieces (s.checkAccess (s.engWho x.1 2 m.tcid) .write (x.2.1.fld 2 0 48 : Int) (collLens x.2.1 x.2.2).2))
     ++ (if c.op < 0x22 ∧ c.fld 3 32 16 = c.fld 3 48 16 then passedPieces (.ok [⟨⟨s.pkgNum, 0, true, amAddr core (c.fld 5 0 15)⟩, 0, 16⟩]) else []))
  ++ (match m.replyAt with | some x => [⟨x, c.word 6, 8⟩] | none => [])

/-- What a DRAIN waits for, when it begins (spec 09 R206): its own stores to the kind, or the core's commands that write it. -/
def State.drained (s : State) (key cls kind : Nat) : List Nat :=
  if cls = 0 then
    (s.pending.filter (fun a => a.key = key && !a.op.isLoad && !a.op.isCopies && s.memKind a.pkg a.pa = kind)).map (fun a => a.id)
  else
    (enginesOf cls).flatMap (fun eng =>
      ((s.commandsOf (coreOf key) [eng]).filter (fun m => (s.writtenBy (coreOf key) eng m).any (fun p => s.memKind p.x.pkg p.x.pa = kind))).map (fun m => m.id))

/-- DRAIN (spec 09 R206, 15 R356). -/
def execDrain (f : Slot) (s : State) : Host.Outcome State Fault Refusal :=
  fire f (fun fr s => fr.watches s (s.drained fr.key (fr.imm 0 3) (fr.imm 4 3))) s

end Sys2Proof.Machine
end

