-- ==== Sys2Proof/Machine/Links.lean ====
section
/-! DEFINITION. Packets on the move: links, taps and bypasses (spec 06 R125, R135, R137, R138, R141), header latching (R130, R131), the
join unit (R132, R133), the return buffer (09 R199), row intake (13 R295, R296), the local port and task packets (12 R279 to R281). -/

namespace Sys2Proof.Machine

/-- Outputs of an element whose source is an input (spec 06 R134, R135). -/
def outputsFrom (rt q : Nat) : List Nat := (List.range 6).filter (fun o => rtSource rt o = q + 1)

/-- The governing WIN and WOUT of an element (spec 06 R140): those of the current context, or of the target of an opening wave; an
element whose target is not loaded takes qy alone. -/
def State.governing (s : State) (key : Nat) : Nat × Nat :=
  let e := s.elem key
  match e.opening with
  | none => (hdrWin (s.header key e.ctx.toNat), hdrWout (s.header key e.ctx.toNat))
  | some t => if e.loaded.getLsbD t.toNat then (hdrWin (s.header key t.toNat), hdrWout (s.header key t.toNat)) else (32, 0)

/-- The type of a wave (spec 06 R122), and whether a packet is a closing wave (R138). -/
def Packet.waveType (p : Packet) : Nat := p.pay.toNat % 4
def Packet.isWave (p : Packet) : Bool := p.kind = kWave && !p.bad
def Packet.closing (p : Packet) : Bool := p.isWave && decide (p.waveType < 2)
/-- A wave packet: type, and target of a switch wave. -/
def wavePacket (type target : Nat) : Packet :=
  { pay := BitVec.ofNat 256 (type + target * 4), crd := false, pois := 0, tag := 0, kind := kWave, lw := 2, lenm := 0, perr := false }

/-- The WIN and WOUT of the current context. -/
def State.current (s : State) (key : Nat) : Nat × Nat :=
  (hdrWin (s.header key (s.elem key).ctx.toNat), hdrWout (s.header key (s.elem key).ctx.toNat))
/-- The WIN and WOUT that govern a wave of a type (spec 06 R140): the exception is for the opening wave; a commit wave meets those of
the current context. -/
def State.governingFor (s : State) (key type : Nat) : Nat × Nat := if type = 2 then s.current key else s.governing key

/-- Whether an element's input logic runs: in an active invocation, not after a withy, not stopped (spec 06 R143, 17 R394). -/
def Elem.runs (e : Elem) : Bool := e.active && e.opening.isNone && !e.acted && !e.stopped && e.trap.isNone

/-- A trap that names no firing (spec 17 R396): ORIG 1 an input queue, 2 a wave action. -/
def State.inputTrap (s : State) (key cause orig : Nat) (detail : BitVec 128) : List Effect :=
  s.trapEffects key { cause := cause, orig := orig, slot := 0, ctx := (s.elem key).ctx.toNat, detail := detail }

/-- The trap of an element whose queue q has received a packet with a bad kind or parity (spec 06 R120, R122): taken at once unless a
firing is in progress, else when it ends. -/
def State.parityTrap (s : State) (key q : Nat) : List Effect :=
  let e := s.elem key
  if e.runs && e.busy.isNone && (e.queue q).any Packet.bad then s.inputTrap key 0x03 1 (detailOf [(3, q)]) else []

/-- A packet arrives at input q of an element: none if the input stalls it (spec 06 R125, R135, R138, R141). -/
def State.arrive (s : State) (key q : Nat) (p : Packet) : Option (List Effect) :=
  let e := s.elem key
  let rt := s.routing key e.ctx.toNat
  let outs := outputsFrom rt q
  if rtBypass rt q then
    match outs with
    | [] => none
    | o :: _ => if (e.byp o).isNone then some [.elem key (e.setByp o (some p)), .move key] else none
  else if !(outs.all (fun o => (e.out o).isNone)) then none
  else
    let copied (e : Elem) : Elem := outs.foldl (fun e o => e.setOut o (some p)) e
    if p.isWave && !maskBit (s.governingFor key p.waveType).1 q then
      some [.elem key (copied { e with saveCh := if p.waveType = 1 then e.saveCh &&& ~~~(1#6 <<< q) else e.saveCh }), .move key]
    else if (e.queue q).length < 4 then
      let l : List Effect := [.elem key (copied (e.setQueue q (e.queue q ++ [p]))), .move key] ++ (if e.queue q = [] then [.fresh (8 * key + q)] else [])
      some (if p.bad then l ++ (s.apply l).parityTrap key q else l)
    else none

/-- Where an output leads (spec 01 R15, 06 R137): the receiver's key and input. -/
def linkEnd (key out : Nat) : Option (Nat × Nat) :=
  let row := elemIx key / 16
  let col := elemIx key % 16
  match out with
  | 0 => if 0 < row then some (key - 16, 2) else none
  | 1 => if col < 15 then some (key + 1, 3) else none
  | 2 => if row < 7 then some (key + 16, 0) else none
  | 3 => if 0 < col then some (key - 1, 1) else none
  | 4 => if col < 12 then some (key + 4, 4) else none
  | _ => none

/-- The packet that an output sends next: of its output and bypass registers, the one that its current source no longer feeds first. -/
def State.leaving (s : State) (key out : Nat) : Option (Packet × Bool) :=
  let e := s.elem key
  let rt := s.routing key e.ctx.toNat
  let src := rtSource rt out
  let fed : Bool := decide (1 ≤ src) && decide (src ≤ 6) && rtBypass rt (src - 1)
  match e.out out, e.byp out with
  | none, none => none
  | some p, none => some (p, false)
  | none, some p => some (p, true)
  | some p, some b => if fed then some (p, false) else some (b, true)

/-- The mark that a link has carried its packet of this cycle (spec 06 R125). -/
def linkMark (key out : Nat) : Nat := 1000000 + 8 * key + out

/-- The registers that an arrival at input q would fill and that hold a packet (spec 06 R135): the bypass register, or the taps. -/
def State.inTheWay (s : State) (key q : Nat) : List Nat :=
  let e := s.elem key
  let rt := s.routing key e.ctx.toNat
  let outs := outputsFrom rt q
  if rtBypass rt q then (outs.take 1).filter (fun o => (e.byp o).isSome) else outs.filter (fun o => (e.out o).isSome)

/-- One link moves its packet (spec 06 R125, R135), once a cycle: a register of a tap or a bypass in its way whose own packet moves in
this cycle has space, and moves first. None if the packet stays. -/
def transferLink : Nat → Nat → Nat → State → Option (List Effect)
  | 0, _, _, _ => none
  | fuel + 1, key, out, s =>
    if s.fresh.contains (linkMark key out) then none
    else
      match s.leaving key out, linkEnd key out with
      | some (p, byp), some (k, q) =>
        let e := s.elem key
        let gone : List Effect := [.elem key (if byp then e.setByp out none else e.setOut out none), .move key, .fresh (linkMark key out)]
        let t := s.apply gone
        (match t.arrive k q p with
         | some l => some (gone ++ l)
         | none =>
           (match (t.inTheWay k q).foldl (fun acc o => match acc with
               | none => none
               | some (l, u) => (match transferLink fuel k o u with | some m => some (l ++ m, u.apply m) | none => none)) (some (([] : List Effect), t)) with
            | none => none
            | some (l, u) => (match u.arrive k q p with | some m => some (gone ++ l ++ m) | none => none)))
      | _, _ => none

/-- LINK_TRANSFER (spec 06 R125). -/
def execLinkTransfer (key out : Nat) (s : State) : Host.Outcome State Fault Refusal :=
  complete (fun s => (transferLink 128 key out s).getD []) s

/-- HEADER_LATCH (spec 06 R130, R131): the HDR at the head of an input whose context latches headers. -/
def execHeaderLatch (key inp : Nat) (s : State) : Host.Outcome State Fault Refusal :=
  complete (fun s =>
    let e := s.elem key
    let h := s.header key e.ctx.toNat
    match e.queue inp with
    | [] => []
    | p :: rest =>
      if p.kind ≠ kHdr || p.bad || !hdrHle h || !e.runs || s.fresh.contains (8 * key + inp) || decide (5 < inp) then []
      else if headerBad (p.pay.extractLsb' 0 32) then
        (if hdrEpol h then s.inputTrap key 0x21 1 (detailOf [(32, p.pay.toNat % 2 ^ 32)])
         else [.elem key (e.setQueue inp (errToken key e.ctx.toNat inp 1 0x21 (p.pay.toNat % 2 ^ 32) p.tag :: rest)), .fresh (8 * key + inp), .move key])
      else
        let e := e.setQueue inp rest
        [.elem key { e with hregs := Map.set HReg.neutral e.hregs inp { pay := p.pay.extractLsb' 0 32, pois := p.pois.getLsbD 0 }
                            me := if inp = 3 then { e.me with sinceHdr := 0 } else e.me },
         .fresh (8 * key + inp), .move key]) s

/-- One entry of a side of the join unit: coordinate, its poison, value, its poison (spec 06 R132). -/
structure JEntry where
  c : Nat
  cp : Bool
  v : Nat
  vp : Bool
  deriving DecidableEq, Repr

def Packet.jentry (p : Packet) (i : Nat) : JEntry := ⟨p.lane (2 * i), p.laneP (2 * i), p.lane (2 * i + 1), p.laneP (2 * i + 1)⟩

/-- A joined packet with one more entry (spec 06 R133). -/
def Joined.add (j : Joined) (a b : JEntry) : Joined :=
  { j with a := dataPacket 2 j.a.tag true (j.a.laneList ++ [(a.c, a.cp), (a.v, a.vp)])
           b := dataPacket 2 j.a.tag true (j.b.laneList ++ [(b.c, b.cp), (b.v, b.vp)]) }
/-- A joined packet of one entry. -/
def Joined.first (tag : BitVec 3) (ha hb : HReg) (a b : JEntry) : Joined :=
  { a := dataPacket 2 tag true [(a.c, a.cp), (a.v, a.vp)], b := dataPacket 2 tag true [(b.c, b.cp), (b.v, b.vp)], ha := ha, hb := hb }
/-- A token in both views. -/
def Joined.token (p : Packet) (ha hb : HReg) : Joined := { a := p, b := p, ha := ha, hb := hb }

/-- The changes of a step of the join unit that leaves the element so: qj grew if its first packet is new. -/
def State.joinMove (s : State) (key : Nat) (e : Elem) : List Effect :=
  [.elem key e, .move key] ++ (if (s.elem key).qj = [] ∧ e.qj ≠ [] then [.fresh (8 * key + 6)] else [])

/-- Closes the open joined packet (spec 06 R132); none if qj cannot take it. -/
def Elem.closeJoin (e : Elem) : Option Elem :=
  match e.join with
  | none => some e
  | some j => if e.qj.length < 4 then some { e with qj := e.qj ++ [j], join := none } else none

/-- Consumes an entry of a side: the place in its head moves on, and the last entry pops the packet (spec 06 R132). -/
def Elem.consume (e : Elem) (isA : Bool) (q : Nat) : Elem × Bool :=
  let n := match e.queue q with | p :: _ => p.lanes / 2 | [] => 0
  let at_ := if isA then e.joinA else e.joinB
  if at_ + 1 < n then (if isA then { e with joinA := at_ + 1 } else { e with joinB := at_ + 1 }, false)
  else
    let e := e.pop q
    (if isA then { e with joinA := 0 } else { e with joinB := 0 }, true)

/-- The entry a side supplies next: none at an EOS. -/
def Elem.side (e : Elem) (isA : Bool) (p : Packet) : Option JEntry :=
  if p.kind = kData then some (p.jentry (if isA then e.joinA else e.joinB)) else none

/-- A step on two heads of DATA or EOS, not both EOS (spec 06 R132): what is output, and which sides are consumed. -/
def joinChoice (union : Bool) (a b : Option JEntry) : Option (JEntry × JEntry) × Bool × Bool :=
  match a, b with
  | some x, some y =>
    let p := x.cp || y.cp
    if x.c = y.c then (some ({ x with cp := p }, { y with cp := p }), true, true)
    else if x.c < y.c then (if union then some ({ x with cp := p }, ⟨x.c, p, 0, false⟩) else none, true, false)
    else (if union then some (⟨y.c, p, 0, false⟩, { y with cp := p }) else none, false, true)
  | some x, none => (if union then some (x, ⟨x.c, x.cp, 0, false⟩) else none, true, false)
  | none, some y => (if union then some (⟨y.c, y.cp, 0, false⟩, y) else none, false, true)
  | none, none => (none, false, false)

/-- Whether a head takes part in the pairing: DATA that has entries, or EOS (spec 06 R132). A DATA packet without coordinates has no entry
(log 46). -/
def Packet.pairs (p : Packet) : Bool := (p.kind = kData && p.crd) || p.kind = kEos

/-- A head that closes the packet and goes on to qj as it is: ERR, or an HDR that is not latched (spec 06 R132). -/
def joinToken (hle : Bool) (p : Packet) : Option Packet := if p.kind = kErr ∨ (p.kind = kHdr ∧ !hle) then some p else none
/-- The ERR token for a DATA head without coordinates (spec 06 R132). -/
def State.joinBad (s : State) (key : Nat) (p : Packet) : Option Packet :=
  if p.kind = kData ∧ !p.crd then some (errToken key (s.elem key).ctx.toNat 6 1 0x22 (widthDetail 2 p.lw) p.tag) else none

/-- The head of a join input that the unit may take: not new in this cycle, not corrupt. -/
def State.joinHead (s : State) (key q : Nat) : Option Packet :=
  match (s.elem key).queue q with
  | [] => none
  | p :: _ => if s.fresh.contains (8 * key + q) || p.bad then none else some p

/-- JOIN_STEP (spec 06 R132, R133, 07 R151). -/
def execJoinStep (key : Nat) (s : State) : Host.Outcome State Fault Refusal :=
  complete (fun s =>
    let e := s.elem key
    let h := s.header key e.ctx.toNat
    let (ja, jb) := (hdrJa h, hdrJb h)
    if (hdrJm h ≠ 1 ∧ hdrJm h ≠ 2) || !e.runs then []
    else
      let a := s.joinHead key ja
      let b := s.joinHead key jb
      let wave (p : Option Packet) : Bool := match p with | some p => p.closing | none => false
      if wave a || wave b then
        (match e.join, e.closeJoin with | some _, some e' => s.joinMove key e' | _, _ => [])
      else
        let token : Option (Packet × Bool) :=
          match a.bind (joinToken (hdrHle h)), b.bind (joinToken (hdrHle h)), a.bind (s.joinBad key), b.bind (s.joinBad key) with
          | some t, _, _, _ => some (t, true)
          | none, some t, _, _ => some (t, false)
          | none, none, some t, _ => some (t, true)
          | none, none, none, some t => some (t, false)
          | none, none, none, none => none
        let push (t : Packet) (pop : Elem → Elem) : List Effect :=
          match e.join with
          | some _ => (match e.closeJoin with | some e' => s.joinMove key e' | none => [])
          | none => if e.qj.length < 4 then s.joinMove key (pop { e with qj := e.qj ++ [Joined.token t (e.hreg ja) (e.hreg jb)] }) else []
        match token, a, b with
        | some (t, true), _, _ => push t (fun e => { e.pop ja with joinA := 0 })
        | some (t, false), _, _ => push t (fun e => { e.pop jb with joinB := 0 })
        | none, some p, some q =>
          if !p.pairs || !q.pairs then []
          else if p.kind = kEos ∧ q.kind = kEos then
            push (if p.tag = q.tag then p else errToken key e.ctx.toNat 6 1 0x20 (q.tag.toNat * 16 + p.tag.toNat) p.tag) (fun e => (e.pop ja).pop jb)
          else
            let ch := joinChoice (hdrJm h = 2) (e.side true p) (e.side false q)
            let x := if ch.2.1 then e.consume true ja else (e, false)
            let y := if ch.2.2 then x.1.consume false jb else (x.1, false)
            let e' := y.1
            let open' : Option Joined :=
              match ch.1 with
              | none => e.join
              | some (u, v) => some (match e.join with | none => Joined.first p.tag (e.hreg ja) (e.hreg jb) u v | some j => j.add u v)
            let full : Bool := match open' with | some j => j.a.lanes = 8 | none => false
            if full || x.2 || y.2 then
              (match { e' with join := open' }.closeJoin with
               | some e'' => s.joinMove key e''
               | none => [])
            else s.joinMove key { e' with join := open' }
        | _, _, _ => []) s

/-- RETURN_BUFFER_DRAIN (spec 09 R199): the filled head entry moves to the output registers of its mask. -/
def execReturnBufferDrain (key : Nat) (s : State) : Host.Outcome State Fault Refusal :=
  complete (fun s =>
    let e := s.elem key
    match e.ret with
    | [] => []
    | r :: rest =>
      let outs := (List.range 6).filter (fun o => r.mask.getLsbD o)
      if r.need ≠ 0 || !(outs.all (fun o => (e.out o).isNone)) || (r.mask.getLsbD 5 && decide (16 ≤ (Map.get [] s.lport (coreOf key)).length)) then []
      else
        let e := outs.foldl (fun e o => e.setOut o (some r.pkt)) { e with ret := rest }
        [.elem key (if r.mask.getLsbD 5 then { e with oyDest := r.dest } else e), .move key]) s

/-- A packet with bytes put into its payload from byte i on, and every lane that they touch poisoned if marked (spec 09 R199, 02 R40). -/
def Packet.fill (p : Packet) (i : Nat) (data : List Byte) (pois : Bool) : Packet :=
  let b := p.width / 8
  { p with pay := BitVec.ofNat 256 (patchNat p.pay.toNat i data)
           pois := if pois then p.pois ||| BitVec.ofNat 8 ((List.range 8).foldl (fun acc l => if i < (l + 1) * b ∧ l * b < i + data.length then acc + 2 ^ l else acc) 0)
                   else p.pois }

/-- LOAD_DATA_RETURN (spec 09 R199): data on its way back reaches its return-buffer entry. -/
def execLoadDataReturn (n : Nat) (s : State) : Host.Outcome State Fault Refusal :=
  complete (fun s =>
    match s.returned[n]? with
    | none => []
    | some r =>
      let e := s.elem r.key
      let put (x : RetEntry) : RetEntry :=
        if x.id = r.ret then { x with need := x.need - 1, pkt := if x.pkt.kind = kData then x.pkt.fill r.at_ r.data r.pois else x.pkt } else x
      [.returned (listDrop s.returned n), .elem r.key { e with ret := e.ret.map put }]) s

/-- Whether the current context holds an MPASS slot that takes rows from qw (spec 13 R295). -/
def State.intakeOn (s : State) (key : Nat) : Bool :=
  let ctx := (s.elem key).ctx.toNat
  (List.range 16).any (fun n => s.slotOp key ctx n = some 0xC2 && !(slotOf (s.slotBitsAt key ctx n)).2.md.getLsbD 0)

/-- Whether the elements counted since the header, from n0 to n, complete its block or group, which is marked LAST (spec 13 R296). -/
def blockDone (h : HReg) (n0 n : Nat) : Bool :=
  let p := h.pay.toNat
  let l := if p % 8 = 0 then bits p 11 8 + 1 else 32 * 2 ^ bits p 27 2
  (if p % 8 = 0 then bits p 19 1 = 1 else bits p 29 1 = 1) && decide (n0 < l) && decide (l ≤ n)

/-- ROW_INTAKE (spec 13 R295, R296): an EOS, an ERR or a closing wave closes the filling buffer in every context of a matrix element. -/
def execRowIntake (key : Nat) (s : State) : Host.Outcome State Fault Refusal :=
  complete (fun s =>
    let e := s.elem key
    let h := s.header key e.ctx.toNat
    match e.queue 3 with
    | [] => []
    | p :: rest =>
      if siteType (elemIx key) ≠ .me then []
      else if p.kind = kEos ∨ p.kind = kErr ∨ p.closing then
        (if (e.me.bufIn .filling).isSome then [.elem key { e with me := e.me.closeFilling }, .move key] else [])
      else if !s.intakeOn key || !e.runs || p.bad || s.fresh.contains (8 * key + 3) then []
      else if p.kind = kHdr ∧ hdrHle h then []
      else if p.kind ≠ kData ∧ p.kind ≠ kHdr then []
      else if p.lw ≠ fmtLw (hdrFmt h) then
        (if hdrEpol h then
           (if e.busy.isSome then [] else s.inputTrap key 0x22 1 (detailOf [(32, widthDetail (fmtLw (hdrFmt h)) p.lw), (3, 3)]))
         else [.elem key (e.setQueue 3 (errToken key e.ctx.toNat 3 1 0x22 (widthDetail (fmtLw (hdrFmt h)) p.lw) p.tag :: rest)), .fresh (8 * key + 3), .move key])
      else
        let o : Opnd := { pkt := p, hdr := e.hreg 3, isConst := false, fixed := false }
        let rows := rowsOf (hdrFmt h) o (e.hreg 3)
        match e.me.take rows with
        | none => []
        | some (m, i) =>
          let n := e.me.sinceHdr + rows.length
          let m := { m with sinceHdr := n }
          let m := if blockDone (e.hreg 3) e.me.sinceHdr n && (m.buf i).state = .filling then m.close i else m
          [.elem key { e.setQueue 3 rest with me := m }, .move key]) s

/-- LOCAL_PORT_ACCEPT (spec 12 R279): the region controller takes the packet of an oy register; a wave is discarded (06 R137). -/
def execLocalPortAccept (key : Nat) (s : State) : Host.Outcome State Fault Refusal :=
  complete (fun s =>
    let e := s.elem key
    let core := coreOf key
    let l := Map.get [] s.lport core
    match e.out 5 with
    | none => []
    | some p =>
      if 16 ≤ l.length then []
      else [.elem key { e.setOut 5 none with oyDest := .nowhere }, .move key, .portLast core (elemIx key)]
        ++ (if p.isWave then [] else [.lport core (l ++ [{ src := key, dest := e.oyDest, pkt := p }])])) s

/-- The mark that an element's qy has taken a packet in this cycle (spec 06 R124). -/
def qyMark (key : Nat) : Nat := 500000 + key

/-- A packet for an element's qy: behind the waves that its controller still has for it, one a cycle; none if it must wait. -/
def State.toQy (s : State) (key : Nat) (p : Packet) : Option (List Effect) :=
  if (s.elem key).inject ≠ [] ∨ s.fresh.contains (qyMark key) then none
  else (s.arrive key 5 p).map (fun l => l ++ [.fresh (qyMark key)])

/-- Quarters of a constant that poisoned lanes reach (spec 12 R281, 07 R146). -/
def byteMarks (p : Packet) : List Bool :=
  (List.range 32).map (fun i => p.laneP (i / (p.width / 8)) && decide (i / (p.width / 8) < p.lanes))

/-- Payload with the lanes beyond the length zero, as bytes. -/
def payloadBytes (p : Packet) : List Byte := leBytes 32 (p.pay.toNat % 2 ^ (p.width * p.lanes))

/-- Injects a wave into a region (spec 06 R140): at qy of every element whose governing WIN includes qy. -/
def injectWave (blk : Nat) (p : Packet) : Prog := fun s =>
  (s.regionElems blk).flatMap (fun k =>
    if maskBit (s.governingFor k p.waveType).1 5 then [.elem k { s.elem k with inject := (s.elem k).inject ++ [p] }] else [])

/-- A CFGK write outside the sender's process (spec 12 R281, 17 R401, 18 R438): the sender's region stops, and the violation is reported. -/
def refuseConst (src core elem reg : Nat) : Prog := fun s =>
  let pa := winBase core + 0x300000 + 256 * elem + 32 * reg
  match s.regionOf src with
  | none => []
  | some b =>
    Prog.seq
      [fun s => s.asyncStop b 0x52 5 (elemIx src) (detailOf [(48, pa), (26, (s.elemRole src).toNat)]),
       freezeEntry (s.region b).tcid (s.elemRole src) pa .write] s

/-- A CFGK write reaches its target core (spec 12 R281): staged, or an isolation violation that stops the sender's region. -/
def stageConstant (src core elem reg : Nat) (pkt : Packet) (commit : Bool) : Prog := fun s =>
  let k := ekey core elem
  let mine := s.tcidOf src
  match s.regionOf k with
  | some b =>
    if (s.region b).tcid = mine then
      Prog.seq
        [fun s => [.elem k ((s.elem k).stage reg 0 (payloadBytes pkt) (byteMarks pkt))],
         if commit then injectWave b (wavePacket 2 0) else Prog.skip] s
    else refuseConst src core elem reg s
  | none => refuseConst src core elem reg s

/-- Whether a task packet is for an element of a core and comes from a given sender (spec 12 R279, R280). -/
def State.taskFor (s : State) (core elem src : Nat) (t : Task) : Bool :=
  match t with
  | .data c label from_ _ => c = core && from_ = src && bits (s.bindingOf core label).toNat 0 7 = elem && bits (s.bindingOf core label).toNat 31 1 = 1
  | .child _ _ _ _ _ _ _ => false

/-- LOCAL_PORT_DELIVER (spec 12 R279): the packet accepted first goes to a qy, behind the sender's task packets for the same target, to the task
network, or to the configuration network for a constant's staging. -/
def execLocalPortDeliver (core : Nat) (s : State) : Host.Outcome State Fault Refusal :=
  complete (fun s =>
    match Map.get [] s.lport core with
    | [] => []
    | x :: rest =>
      let gone : Effect := .lport core rest
      match x.dest with
      | .label l => [gone, .taskNet (s.taskNet ++ [.data core l x.src x.pkt])]
      | .remote c l => [gone, .taskNet (s.taskNet ++ [.data c l x.src x.pkt])]
      | .elem i =>
        if (s.taskNet ++ Map.get [] s.taskWait core).any (s.taskFor core i x.src) then []
        else
          (match s.toQy (ekey core i) x.pkt with
           | some l => gone :: l
           | none => [])
      | .const c i r commit => [gone, .cfgNet (s.cfgNet ++ [{ core := c, elem := i, reg := r, pkt := x.pkt, commit := commit, src := x.src }])]
      | .nowhere => [gone]) s

/-- The constant writes that have crossed the configuration network are staged, in the order sent (spec 12 R281); at a gated core they are
held (01 R32). They arrive at the end of a cycle: a commit of that cycle leaves them staged (07 R146). -/
def stageAll : List Staging → Prog
  | [] => fun _ => [.cfgNet []]
  | x :: l => fun s =>
    let now := if s.powerOf x.core ≠ .on then s.holdAt x.core (.staging x) else stageConstant x.src x.core x.elem x.reg x.pkt x.commit s
    now ++ stageAll l (s.apply now)

/-- The label of a task: tasks of one label are delivered in order (spec 12 R280). -/
def Task.lane : Task → Nat × Nat
  | .data _ label _ _ => (0, label)
  | .child _ _ _ _ _ _ _ => (1, 0)

/-- The report of a packet whose label is unbound (spec 12 R280, R289, 18 R420). -/
def unboundEntry (core label src : Nat) (p : Packet) : Prog := fun s =>
  faultEntry (s.tcidOf src) 0x06 3 0 0
    [p.pay.toNat % 2 ^ 64, p.pay.toNat / 2 ^ 64 % 2 ^ 64,
     packFields [(3, p.lenm.toNat), (2, p.lw.toNat), (3, p.kind.toNat), (3, p.tag.toNat), (8, p.pois.toNat), (1, bit01 p.crd)],
     packFields [(9, coreOf src), (7, elemIx src), (7, label), (9, core)]] none s

/-- The label that the picker of an element chooses: round-robin among those whose packets wait for it (spec 12 R280). -/
def State.pickLabel (s : State) (core elem : Nat) : Option Nat :=
  let last := Map.get 127 s.pickLast (ekey core elem)
  let waits (l : Nat) : Bool := bits (s.bindingOf core l).toNat 31 1 = 1 && bits (s.bindingOf core l).toNat 0 7 = elem
    && (Map.get [] s.taskWait core).any (fun t => t.lane = (0, l))
  ((List.range 128).map (fun i => (last + 1 + i) % 128)).find? waits

/-- A task packet as it is delivered (spec 12 R280): DATA with the tag of the binding entry; an ERR token in its place stays one (06 R127,
17 R391, log 44). -/
def Packet.bound (p : Packet) (b : Nat) : Packet := if p.kind = kErr then p else { p with tag := BitVec.ofNat 3 (bits b 7 3), kind := kData }

/-- TASK_DELIVER (spec 12 R280): the waiting packet at place n of a core, the first of its label, goes through the binding table to the
element whose picker chooses that label. -/
def execTaskDeliver (core n : Nat) (s : State) : Host.Outcome State Fault Refusal :=
  complete (fun s =>
    let l := Map.get [] s.taskWait core
    match l[n]? with
    | none => []
    | some t =>
      let gone : Effect := .taskWait core (listDrop l n)
      if (l.take n).any (fun u => u.lane = t.lane) then []
      else
        match t with
        | .data _ label src p =>
          let b := (s.bindingOf core label).toNat
          if bits b 31 1 = 0 then gone :: unboundEntry core label src p (s.perform gone)
          else
            let elem := bits b 0 7
            if s.pickLabel core elem ≠ some label then []
            else
              (match s.toQy (ekey core elem) (p.bound b) with
               | some m => gone :: .pickLast (ekey core elem) label :: m
               | none => [])
        | .child _ _ _ _ _ _ _ => []) s

/-- The core that a task is bound for. -/
def Task.core : Task → Nat
  | .data c _ _ _ => c
  | .child c _ _ _ _ _ _ => c

/-- The core that a task comes from. -/
def Task.from_ : Task → Nat
  | .data _ _ src _ => coreOf src
  | .child _ _ _ _ src _ _ => src

/-- Tasks cross the network (spec 12 R280, 01 R17, R32): to the waiting buffer of 32 at their core, or held at the boundary of a gated one; none
before an earlier one from the same core to the same core. -/
def State.routeTasks (s : State) : List Task → List Task → List Effect
  | [], kept => [.taskNet kept]
  | t :: l, kept =>
    let c := t.core
    let w := Map.get [] s.taskWait c
    match t with
    | .child _ _ _ _ _ _ _ => s.routeTasks l (kept ++ [t])
    | _ =>
      if kept.any (fun u => u.core = c && u.from_ = t.from_) then s.routeTasks l (kept ++ [t])
      else if s.powerOf c ≠ .on then
        let h := s.holdAt c (.task t)
        h ++ (s.apply h).routeTasks l kept
      else if w.length < 32 then
        let e : Effect := .taskWait c (w ++ [t])
        e :: (s.perform e).routeTasks l kept
      else s.routeTasks l (kept ++ [t])

end Sys2Proof.Machine
end

