-- ==== Sys2Proof/Machine/Wave.lean ====
section
/-! DEFINITION. Waves at an element: switch waves, withies and commit waves (spec 06 R138 to R141, 07 R151, 09 R207, 17 R405), and the
check of generator descriptors and tables that they make (04 R88, 09 R188). -/

namespace Sys2Proof.Machine

/-- Opcodes that name a descriptor with IMM[9:8]: affine, and through a table (spec 09 R185, R188). -/
def affineOps : List Nat := [0x92, 0x93, 0x9B, 0x9C]
def tableOps : List Nat := [0x79, 0x94, 0x95, 0x96, 0x9D, 0x9E, 0x9F, 0xA0, 0xA1, 0xA2, 0xA3]

/-- Outward widening to a block (spec 04 R88). -/
def widenDown (blk : Int) (a : Int) : Int := a / blk * blk
def widenUp (blk : Int) (a : Int) : Int := (a + blk - 1) / blk * blk

/-- Whether a descriptor passes the checks of spec 04 R88 and 09 R188 for an element type, a format and an opcode. The reserved layout,
and lanes that would form a packet over 256 bits, fail it (log 22). -/
def descriptorOk (t : ElemType) (fmt op : Nat) (v : BitVec 256) : Bool :=
  let g := genDesc v
  let n := g.laneBytes
  let blk : Int := match g.swz with | 1 => 128 | 2 => 256 | _ => 1
  let low := g.dims.foldl (fun a i => a + min 0 ((g.cntm i : Int) * g.stride i)) (g.base : Int)
  let high := g.dims.foldl (fun a i => a + max 0 ((g.cntm i : Int) * g.stride i)) (g.base : Int) + ((g.lanes * n : Nat) : Int)
  let lo := widenDown blk low
  let hi := widenUp blk high
  let table : Bool := tableOps.contains op
  let mc := bits v.toNat 112 48
  decide (g.ndm ≤ 3) && g.swz ≠ 3 && g.base % n = 0 && decide (0 ≤ lo) && decide (g.lanes * n ≤ 32)
    && (if t = .se then decide (hi ≤ 32768) && decide (g.base < 32768) else decide (hi ≤ 2 ^ 48))
    && g.lw = fmtLw fmt
    && (!table || (g.ndm = 0 && g.lanes = 1 && g.stride 0 % (n : Int) = 0))
    && (op ≠ 0xA2 || (bits mc 7 1 = 0 && bits mc 12 36 = 0 && bits mc 8 4 ≠ 0))

/-- The opcodes with which the valid slots of a context name a constant register as a descriptor. -/
def State.descriptorUses (s : State) (key ctx r : Nat) : List Nat :=
  (List.range 16).filterMap (fun n =>
    match s.slotOp key ctx n with
    | none => none
    | some op =>
      if (affineOps.contains op || tableOps.contains op) && (slotOf (s.slotBitsAt key ctx n)).2.imm.toNat / 256 % 4 = r then some op else none)

/-- Whether a constant value passes the checks of every slot of a context that names its register. -/
def State.registerOk (s : State) (key ctx r : Nat) (v : BitVec 256) : Bool :=
  (s.descriptorUses key ctx r).all (fun op => descriptorOk (siteType (elemIx key)) (hdrFmt (s.header key ctx)) op v)

/-- The first constant register of a context that fails the check against the committed constants (spec 04 R88). -/
def State.badRegister (s : State) (key ctx : Nat) : Option Nat :=
  (List.range 4).find? (fun r => !s.registerOk key ctx r ((s.elem key).kReg r).val)

/-- The head of an input that a wave action reads: a wave that did not arrive in this cycle. -/
def State.waveHead (s : State) (key q : Nat) : Option Packet :=
  match (s.elem key).queue q with
  | [] => none
  | p :: _ => if p.isWave && !s.fresh.contains (8 * key + q) then some p else none

/-- The inputs of a WIN. -/
def inputsOf (win : Nat) : List Nat := (List.range 6).filter (maskBit win)

/-- Whether every input of the governing WIN is closed by a wave of a type; an empty WIN never is. -/
def State.closedBy (s : State) (key type : Nat) : Bool :=
  let l := inputsOf (s.governing key).1
  !l.isEmpty && l.all (fun q => match s.waveHead key q with | some p => p.closing && p.waveType = type | none => false)

/-- The types of the closing waves at the heads of WIN inputs, two bits each from qn on; 3 where there is none (spec 17 R398). -/
def State.waveTypes (s : State) (key : Nat) : Nat :=
  packFields ((List.range 6).map (fun q =>
    (2, if maskBit (s.governing key).1 q then (match s.waveHead key q with | some p => if p.closing then p.waveType else 3 | none => 3) else 3)))

/-- Whether closing waves of both types stand at heads of WIN inputs (spec 06 R139). -/
def State.waveMismatch (s : State) (key : Nat) : Bool :=
  let l := (inputsOf (s.governing key).1).filterMap (s.waveHead key)
  l.any (fun p => p.closing && p.waveType = 0) && l.any (fun p => p.closing && p.waveType = 1)

/-- Whether the outputs of a mask have space. -/
def Elem.outsFree (e : Elem) (m : Nat) : Bool := (List.range 6).all (fun o => !maskBit m o || (e.out o).isNone)

/-- Whether the outputs of a wave have space: none has on oy while the region controller holds 16 packets (spec 06 R125, 12 R279). -/
def State.waveSpace (s : State) (key wout : Nat) : Bool :=
  (s.elem key).outsFree wout && (!maskBit wout 5 || decide ((Map.get [] s.lport (coreOf key)).length < 16))

/-- Whether an element may act on a wave at all: in an active invocation, not after a withy, neither stopped nor held, no firing in
progress, at most one action or firing in a cycle (spec 06 R139, 17 R394, 16 R383). -/
def State.mayAct (s : State) (key : Nat) : Bool :=
  let e := s.elem key
  e.active && !e.acted && !e.stopped && !e.held && e.trap.isNone && e.busy.isNone && !s.fresh.contains (8 * key + 7)

/-- A wave pushed on the outputs of a mask. -/
def Elem.pushWave (e : Elem) (m : Nat) (p : Packet) : Elem :=
  let e := (List.range 6).foldl (fun e o => if maskBit m o then e.setOut o (some p) else e) e
  if maskBit m 5 then { e with oyDest := .nowhere } else e

/-- The waves at the heads of a WIN popped. -/
def Elem.popWaves (e : Elem) (win : Nat) : Elem := (inputsOf win).foldl (fun e q => e.pop q) e

/-- The seed that a context names (spec 03 R68). -/
def Elem.seed (e : Elem) (h : Nat) : BitVec 32 :=
  let v := bits (e.kReg (hdrSeed h % 4)).val.toNat (32 * (hdrSeed h / 4 % 8)) 32
  if v = 0 then 0x2545F491 else BitVec.ofNat 32 v

/-- What a switch wave does to an element's state (spec 07 R144, R151, 03 R68, 13 R292, R311, 14 R322). -/
def Elem.switched (e : Elem) (target : BitVec 3) (h : Nat) : Elem :=
  { e with ctx := target, st := 0, loss := [], hregs := [], gens := [], rng := e.seed h, split := 0, carry := 0, count := 0, sinkc := 0
           reported := false, fc := 0, me := { e.me with rv := false, sinceHdr := 0 }, opening := none }

/-- SWITCH_WAVE (spec 06 R139, R140, 07 R151): the trap of a mismatch, the checks of the target, and the action. -/
def execSwitchWave (key : Nat) (s : State) : Host.Outcome State Fault Refusal :=
  complete (fun s =>
    let e := s.elem key
    let (win, wout) := s.governing key
    if !s.mayAct key then []
    else if s.waveMismatch key then s.inputTrap key 0x04 2 (detailOf [(12, s.waveTypes key)])
    else if !s.closedBy key 0 || e.join.isSome || !e.ret.isEmpty || e.me.rb0.state ≠ .empty || e.me.rb1.state ≠ .empty || !s.waveSpace key wout then []
    else
      match (inputsOf win).filterMap (s.waveHead key) with
      | [] => []
      | p :: _ =>
        let target := p.pay.extractLsb' 2 3
        let n := target.toNat
        if !e.loaded.getLsbD n then s.inputTrap key 0x05 2 (detailOf [(3, n)])
        else
          match s.badRegister key n with
          | some r => s.inputTrap key 0x02 2 (detailOf [(3, n), (2, r)])
          | none =>
            [.elem key (((e.popWaves win).switched target (s.header key n)).pushWave wout p), .fresh (8 * key + 7), .move key]) s

/-- The markers that an accumulate element queues behind its bound chains (spec 14 R340). -/
def State.markers (s : State) (key : Nat) (e : Elem) : List AccWord :=
  (List.range 2).filterMap (fun i => if (e.chain i).bound then some (s.markerWord key (e.chain i)) else none)

/-- WITHY (spec 06 R139, R141, 09 R207, 17 R405): a cancellable firing in progress is cancelled; the element saves its state in place. -/
def execWithy (key : Nat) (s : State) : Host.Outcome State Fault Refusal :=
  complete (fun s =>
    let (win, wout) := s.governing key
    if !s.closedBy key 1 then []
    else
      Prog.seq
        [fun s =>
           let e := s.elem key
           if e.busy.isSome && (s.cancelled key e).busy.isNone && e.runs then s.dropOffers key ++ [.elem key (s.cancelled key e)] else [],
         fun s =>
           let e := s.elem key
           if !s.mayAct key || !s.waveSpace key wout || e.ret.any (fun r => r.need ≠ 0) then []
           else
             match (inputsOf win).filterMap (s.waveHead key) with
             | [] => []
             | p :: _ =>
               let e := match e.queue 3 with | w :: _ => if w.closing then { e with me := e.me.closeFilling } else e | [] => e
               let e' := (e.popWaves win).pushWave wout p
               [.elem key { e' with acted := true, saveCh := BitVec.ofNat 6 (63 - win % 64), inj := e.inj ++ s.markers key e },
                .fresh (8 * key + 7), .move key]] s) s

/-- Whether an element takes commit waves: it need be in no active invocation, since only firing is barred there (spec 06 R143, log 26),
but it takes none after a withy or while it is stopped. -/
def Elem.takesCommits (e : Elem) : Bool := !e.acted && !e.stopped && e.trap.isNone

/-- Removes the commit waves at the heads of WIN inputs, each counted (spec 06 R138). -/
def State.countCommits (s : State) (key : Nat) : List Effect :=
  let e := s.elem key
  let l := (inputsOf (s.current key).1).filter (fun q => match s.waveHead key q with | some p => p.waveType = 2 | none => false)
  if !e.takesCommits || l.isEmpty then []
  else l.foldl (fun (acc : Elem) q => (acc.pop q).setCommit q (acc.commitCount q + 1)) e
    |> fun e' => .elem key e' :: .move key :: l.map (fun q => .fresh (8 * key + q))

/-- The staged constants applied (spec 01 R29, 07 R146), each that passes the check of the current context (04 R88); and the first that fails. -/
def State.applyStaged (s : State) (key : Nat) (e : Elem) : Elem × Option Nat :=
  let ctx := e.ctx.toNat
  let fails (r : Nat) : Bool := (e.kStage r).flag && !s.registerOk key ctx r (e.kStage r).val
  ((List.range 4).foldl (fun (acc : Elem) r =>
     let st := e.kStage r
     if st.flag && !fails r then (acc.setK r { val := st.val, pois := st.pois }).setKs r { st with flag := false } else acc) e,
   (List.range 4).find? fails)

/-- COMMIT_WAVE (spec 06 R138, R139, 01 R29, 04 R88). A register that fails keeps its value, stays staged, and traps as the wave acts. -/
def execCommitWave (key : Nat) (s : State) : Host.Outcome State Fault Refusal :=
  complete (Prog.seq
    [fun s => s.countCommits key,
     fun s =>
       let e := s.elem key
       let (win, wout) := s.current key
       let l := inputsOf win
       if !e.takesCommits || e.held || e.busy.isSome || s.fresh.contains (8 * key + 7) || l.isEmpty || !l.all (fun q => decide (1 ≤ e.commitCount q)) || !s.waveSpace key wout || !e.ret.isEmpty then []
       else
         let e' := l.foldl (fun (acc : Elem) q => acc.setCommit q (acc.commitCount q - 1)) e
         let x := s.applyStaged key e'
         let l : List Effect := [.elem key (x.1.pushWave wout (wavePacket 2 0)), .fresh (8 * key + 7), .move key]
         match x.2 with
         | none => l
         | some r => l ++ (s.apply l).inputTrap key 0x02 2 (detailOf [(3, e.ctx.toNat), (2, r)])]) s

end Sys2Proof.Machine
end

