-- ==== Sys2Proof/Machine/LoadCheck.lean ====
section
/-! DEFINITION. The configuration load (spec 08 R168 to R172, 07 R148 to R150): the checks of headers (R149, R170, 06 R132, R139), of routing
words (06 R134 to R136), of slots in their context (06 R136, 09 R185, R194, 10 R223, 11 R242, 12 R265, 13 R290, R295, R298, 14 R323),
of descriptors (04 R88, 09 R188), and what a load writes. -/

namespace Sys2Proof.Machine

/-- What a failed check of a load records (spec 17 R398, R404): cause 0x01 with context, slot and field, or 0x02 with context and register. -/
structure LoadFail where
  cause : Nat
  elem : Nat
  ctx : Nat
  item : Nat
  field : Nat
  deriving DecidableEq, Repr

/-- The items of a failure, packed (spec 17 R398). A header or routing word is shown as slot 0 (log 23). -/
def LoadFail.detail (f : LoadFail) : BitVec 128 :=
  if f.cause = 0x02 then detailOf [(3, f.ctx), (2, f.item)] else detailOf [(3, f.ctx), (4, f.item), (7, f.field)]

/-- A context to be checked: where it stands, its words, and what it is checked against. -/
structure CtxCheck where
  key : Nat
  n : Nat
  h : Nat
  rt : Nat
  slots : List Nat
  deriving DecidableEq, Repr

/-- The element type that implements an opcode (spec 08 R174). -/
def implements (t : ElemType) (op : Nat) : Bool :=
  if op = 0 ∨ (0x70 ≤ op ∧ op ≤ 0x85 ∧ op ≠ 0x79) then true
  else
    match t with
    | .ve => decide (1 ≤ op ∧ op ≤ 0x35) || decide (0x40 ≤ op ∧ op ≤ 0x5A)
    | .le => decide (0x60 ≤ op ∧ op ≤ 0x65)
    | .se => op = 0x79 || decide (0x90 ≤ op ∧ op ≤ 0x9A)
    | .st => decide (0x9B ≤ op ∧ op ≤ 0xA3) || decide (0xB0 ≤ op ∧ op ≤ 0xBA)
    | .me => decide (0xC0 ≤ op ∧ op ≤ 0xC9)
    | .ae => decide (0xD0 ≤ op ∧ op ≤ 0xDA)

/-- The neighbour that an input comes from, and that an output leads to, within the core (spec 01 R15, 06 R137); qy and oy have none. -/
def inputFrom (key q : Nat) : Option Nat :=
  let row := elemIx key / 16
  let col := elemIx key % 16
  match q with
  | 0 => if 0 < row then some (key - 16) else none
  | 1 => if col < 15 then some (key + 1) else none
  | 2 => if row < 7 then some (key + 16) else none
  | 3 => if 0 < col then some (key - 1) else none
  | 4 => if 4 ≤ col then some (key - 4) else none
  | _ => none
/-- The output that feeds an input. -/
def feederOut (q : Nat) : Nat := match q with | 0 => 2 | 1 => 3 | 2 => 0 | 3 => 1 | _ => 4

/-- Whether two elements belong to one region; where no region block covers the first, the core is its region (log 23). -/
def State.sameRegion (s : State) (a b : Nat) : Bool :=
  match s.regionOf a with
  | some r => s.regionOf b = some r
  | none => coreOf a = coreOf b

/-- Whether an input or output faces an element of the region; qy and oy face the controller. -/
def State.inputInside (s : State) (key q : Nat) : Bool :=
  q = 5 || (match inputFrom key q with | some k => s.sameRegion key k | none => false)
def State.outputInside (s : State) (key o : Nat) : Bool :=
  o = 5 || (match linkEnd key o with | some (k, _) => s.sameRegion key k | none => false)

/-- Formats that an element type's contexts accept (spec 03 R56, 13 R290, R294, 14 R323). -/
def formatFor (t : ElemType) (f : Nat) : Bool :=
  match t with
  | .me => [0x00, 0x04, 0x01, 0x0E, 0x0D].contains f
  | .ae => decide (f ≤ 0x0C) || f = 0x10
  | _ => decide (f ≤ 0x10)

/-- Failing positions of a context header (spec 07 R148, R149, 08 R170, 06 R132, R136, R139). -/
def State.headerFaults (s : State) (c : CtxCheck) : List Nat :=
  let h := c.h
  let t := siteType (elemIx c.key)
  let jm := hdrJm h
  failAt (!formatFor t (hdrFmt h)) 0
  ++ failAt (hdrRm h = .sr && t ≠ .ve && t ≠ .le && t ≠ .ae) 5
  ++ failAt (jm = 3 || (jm ≠ 0 && t ≠ .se && t ≠ .ve)) 7
  ++ failAt (jm = 0 && hdrJa h ≠ 0) 9 ++ failAt (jm = 0 && hdrJb h ≠ 0) 12
  ++ failAt (jm ≠ 0 && (decide (5 < hdrJa h) || rtBypass c.rt (hdrJa h) || !s.inputInside c.key (hdrJa h))) 9
  ++ failAt (jm ≠ 0 && (decide (5 < hdrJb h) || rtBypass c.rt (hdrJb h) || !s.inputInside c.key (hdrJb h) || hdrJa h = hdrJb h)) 12
  ++ failAt (hdrWin h = 0) 15
  ++ (List.range 6).flatMap (fun i => failAt (maskBit (hdrWin h) i && (rtBypass c.rt i || !s.inputInside c.key i)) (15 + i))
  ++ (List.range 6).flatMap (fun o => failAt (maskBit (hdrWout h) o && ((decide (1 ≤ rtSource c.rt o) && decide (rtSource c.rt o ≤ 6)) || !s.outputInside c.key o)) (21 + o))
  ++ failAt (!hdrSnk h && hdrSnkl h ≠ 0) 28
  ++ failAt (hdrHle h && t ≠ .ve && t ≠ .le && t ≠ .me) 32
  ++ failAt (hdrRep h ≠ elemIx c.key && !s.sameRegion c.key (ekey (coreOf c.key) (hdrRep h))) 33
  ++ failAt (hdrRm h ≠ .sr && hdrSeed h ≠ 0) 40 ++ failAt (decide (32 ≤ hdrSeed h)) 45

/-- The routing word that a context number has at an element: of the image if it defines it, else of the element's loaded context. -/
def State.routingIn (s : State) (img : List CtxCheck) (key n : Nat) : Option Nat :=
  match img.find? (fun c => c.key = key && c.n = n) with
  | some c => some c.rt
  | none => if (s.elem key).loaded.getLsbD n then some (s.routing key n) else none

/-- The lane format of the output that feeds an input, in the same context of the neighbour; none where nothing is compared (spec 06 R136). -/
def State.feedFormat (s : State) (img : List CtxCheck) (key q n : Nat) : Option Nat :=
  match inputFrom key q with
  | none => none
  | some k =>
    if q = 5 ∨ !s.sameRegion key k then none
    else
      match s.routingIn img k n with
      | none => none
      | some rt => if rtSource rt (feederOut q) = 7 then none else some (rtFormat rt (feederOut q))

/-- Failing positions of a routing word (spec 06 R134 to R136, 08 R170). -/
def State.routingFaults (s : State) (img : List CtxCheck) (c : CtxCheck) : List Nat :=
  (List.range 6).flatMap (fun o =>
    let src := rtSource c.rt o
    let q := src - 1
    let fromInput : Bool := decide (1 ≤ src) && decide (src ≤ 6)
    failAt (decide (7 < src) || (src ≠ 7 && !s.outputInside c.key o) || (o = 5 && src ≠ 0 && src ≠ 7)
        || (fromInput && !s.inputInside c.key q)
        || (fromInput && rtBypass c.rt q && (List.range o).any (fun o' => rtSource c.rt o' = src))) (4 * o)
    ++ failAt (if src = 7 then rtFormat c.rt o ≠ 0 else decide (0x10 < rtFormat c.rt o)
        || (fromInput && (match s.feedFormat img c.key q c.n with | some f => f ≠ rtFormat c.rt o | none => false))) (30 + 5 * o)
    ++ failAt (src ≠ 7 && (match linkEnd c.key o with
        | some (k, q') =>
          (match s.routingIn img k c.n with
           | some rt => s.sameRegion c.key k && (List.range 6).any (fun o' => rtSource rt o' = q' + 1 && rtFormat rt o' ≠ rtFormat c.rt o)
           | none => false)
        | none => false)) (30 + 5 * o))
  ++ failAt (bits c.rt 60 4 ≠ 0) 60

/-- Format classes of opcodes (spec 10 R220, R223; 11 R240, R242; 12 R265; 09 R194, R195). -/
def formatOk (op md fmt : Nat) (imm : Nat) : Bool :=
  let classI : Bool := decide (fmt < 8)
  let classF : Bool := decide (8 ≤ fmt) && decide (fmt ≤ 12)
  let atomic := bits imm 4 4
  if op = 0 then true
  else if op < 0x40 then
    (if [0x0F, 0x10, 0x11, 0x12, 0x25, 0x26, 0x27, 0x28, 0x29, 0x2A, 0x2B, 0x2C, 0x2D, 0x2E, 0x34, 0x35].contains op then true else classI)
  else if op < 0x60 then
    (if op = 0x50 ∨ op = 0x52 then classF || fmt = 13
     else if op = 0x51 then classI
     else if op = 0x5A then decide (9 ≤ fmt) && decide (fmt ≤ 13) && md % 4 ≠ 3
     else classF)
  else if op < 0x70 then decide (8 ≤ fmt) && decide (fmt ≤ 10)
  else if op = 0x79 then fmt = 2 || fmt = 6 || fmt = 8
  else if op = 0x7A then classI
  else if op = 0x82 then decide (32 ≤ fmtWidth fmt)
  else if op = 0x83 then fmtWidth fmt = 32
  else if op = 0x97 ∨ op = 0x98 then fmtWidth fmt = 32
  else if op = 0x96 ∨ op = 0xA1 then (if atomic = 10 then fmt = 8 else fmt = 2 || fmt = 3 || fmt = 6 || fmt = 7)
  else true

/-- The lane width of a slot's result for the check of spec 06 R136; none where it is exempt (12 R262). -/
def resultWidth (op fmt : Nat) (f : Slot) : Option Nat :=
  if f.oeos ∨ op = 0x85 ∨ op = 0x7F ∨ (op = 0x5A ∧ f.md.toNat % 4 = 2) then none
  else if [0x98, 0xB3, 0xB8, 0xD9, 0xC9].contains op then some 32
  else if op = 0xBA then some 64
  else if op = 0x2F then some (fmtWidth (immField f 4 5))
  else some (fmtWidth fmt)

/-- Failing positions that an instruction's own limits give in a format of lane width w (spec 09 R191, 10 R223, 11 R242, 12 R265, 14 R323). -/
def widthFaults (op fmt : Nat) (f : Slot) : List Nat :=
  let w := fmtWidth fmt
  let md0 := f.md.getLsbD 0
  let second := immField f 4 5
  let bytes := (f.md.toNat % 8 + 1) * w / 8
  match op with
  | 0x1B => failAt (decide (w < second * (if md0 then 3 else 2))) 84
  | 0x1C => failAt (decide (w < second * (if md0 then 3 else 2))) 84
  | 0x1D => failAt (decide (w < immField f 4 6 + immField f 10 6 + 1)) 84
  | 0x1E => failAt (decide (w < immField f 4 6 + immField f 10 6 + 1)) 84
  | 0x27 => failAt (decide (w < 16 * (f.md.toNat % 4 + 1))) 76
  | 0x2C => failAt (decide (256 < (immField f 7 3 + 1) * w)) 87
  | 0x35 => failAt (decide (256 < (immField f 4 3 + 1) * w)) 84
  | 0x2F => failAt (!(second = 0x0E || (decide (second < 8) && decide (fmtWidth second ≤ w)))) 84
  | 0x30 => failAt (!(second = 0x0E || (decide (second < 8) && decide (fmtWidth second ≤ w)))) 84
  | 0x50 => failAt (!(decide (8 ≤ second) && decide (second ≤ 13)) || second = fmt) 84
  | 0x51 => failAt (!(decide (8 ≤ second) && decide (second ≤ 13))) 84
  | 0x52 => failAt (!(decide (second < 8) || second = 14)) 84
  | 0x5A => failAt (f.md.toNat % 4 = 2 && f.dwe) 56
            ++ failAt ((f.md.toNat % 4 = 1 || (f.md.toNat % 4 = 0 && f.sb ≠ 7#3)) && immField f 7 9 ≠ 0) 87
  | 0x72 => failAt (f.sa = 6#3 && decide (256 < (immField f 7 3 + 1) * w)) 87
  | 0x90 => failAt (immField f 0 15 % (w / 8) ≠ 0 || decide (32768 < immField f 0 15 + bytes)) 80 ++ failAt (decide (32 < bytes)) 76
  | 0x91 => failAt (immField f 0 15 % (w / 8) ≠ 0) 80
  | 0xD4 => failAt (fmt = 16 && immField f 4 9 ≠ 0) 84
  | _ => []

/-- Failing positions of a queue field: a bypass-only input, a side of the join unit, qj without a join, an edge (spec 06 R132, R136, 01 R15). -/
def State.queueFaults (s : State) (c : CtxCheck) (q pos : Nat) : List Nat :=
  if q = 7 then []
  else if q = 6 then failAt (hdrJm c.h = 0) pos
  else failAt (rtBypass c.rt q || !s.inputInside c.key q || (hdrJm c.h ≠ 0 && (q = hdrJa c.h || q = hdrJb c.h))) pos

/-- Failing positions of a valid slot in its context. -/
def State.slotContextFaults (s : State) (c : CtxCheck) (op : Nat) (f : Slot) : List Nat :=
  let t := siteType (elemIx c.key)
  let fmt := hdrFmt c.h
  failAt (!implements t op || !formatOk op f.md.toNat fmt f.imm.toNat) 40
  ++ s.queueFaults c f.qa.toNat 12 ++ s.queueFaults c f.qb.toNat 15
  ++ (List.range 6).flatMap (fun o =>
       failAt (f.os.getLsbD o && (rtSource c.rt o ≠ 0 || !s.outputInside c.key o)) (30 + o)
       ++ failAt (f.om.getLsbD o && (rtSource c.rt o ≠ 0 || !s.outputInside c.key o
            || (match resultWidth op fmt f with | some w => fmtWidth (rtFormat c.rt o) ≠ w | none => false))) (57 + o))
  ++ widthFaults op fmt f
  ++ failAt (op = 0x7B && !hdrSnk c.h) 40
  ++ failAt (op = 0x7F && !f.md.getLsbD 0 && hdrRep c.h = elemIx c.key) 40
  ++ failAt (op = 0xC5 && (!s.outputInside c.key 2 || (f.md.getLsbD 0 && !(s.inputInside c.key 0 && siteType (elemIx c.key - 16) = .me)))) 40

/-- Failing positions of slot n of a context against the others: COUNT and MERGE once, the exclusions of priority queues, row intake and
generators (spec 12 R264, 04 R94, 13 R295, 09 R188). -/
def slotGroupFaults (l : List (Nat × Slot)) (n op : Nat) (f : Slot) : List Nat :=
  let before := l.take n
  let held (o : Nat) : Bool := l.any (fun x => x.1 = o)
  let intake : Bool := l.any (fun x => x.1 = 0xC2 && !x.2.md.getLsbD 0)
  failAt ((op = 0x7A || op = 0x75) && before.any (fun x => x.1 = op)) 40
  ++ failAt ((held 0x97 || held 0x98) && [0x90, 0x91, 0x92, 0x93, 0x94, 0x95, 0x96, 0x9A, 0x79].contains op) 40
  ++ failAt (intake && (op = 0xC7 || (op = 0xC2 && f.md.getLsbD 0))) 40
  ++ failAt (intake && f.qa = 3#3 && f.ka = 0#2) 12 ++ failAt (intake && f.qb = 3#3 && f.kb = 0#2) 15
  ++ failAt (affineOps.contains op && before.any (fun x => affineOps.contains x.1 && x.2.md.getLsbD 0 = f.md.getLsbD 0
       && x.2.imm.toNat / 256 % 4 ≠ f.imm.toNat / 256 % 4)) 88

/-- Whether some element type implements an opcode (spec 08 R173). -/
def assigned (op : Nat) : Bool := [ElemType.ve, .le, .se, .st, .me, .ae].any (fun t => implements t op)

/-- Failing positions of a slot whose OP or MOD names no instruction: OP, or MOD, and what no opcode enters. -/
def State.namelessFaults (s : State) (c : CtxCheck) (op : Nat) (f : Slot) : List Nat :=
  failAt (!f.val) 39 ++ [if assigned op then 76 else 40] ++ plainFaults f ++ s.queueFaults c f.qa.toNat 12 ++ s.queueFaults c f.qb.toNat 15
  ++ (List.range 6).flatMap (fun o =>
       failAt (f.os.getLsbD o && (rtSource c.rt o ≠ 0 || !s.outputInside c.key o)) (30 + o)
       ++ failAt (f.om.getLsbD o && (rtSource c.rt o ≠ 0 || !s.outputInside c.key o)) (57 + o))

/-- Every failing position of slot n of a context (spec 08 R168, R171). -/
def State.slotFaultsIn (s : State) (c : CtxCheck) (n : Nat) : List Nat :=
  let x := c.slots.getD n 0
  if x = 0 then []
  else
    let p := slotOf x
    match (instrOf p.1 p.2).bind Instr.encRow with
    | none => s.namelessFaults c p.1 p.2
    | some r =>
      slotFaults r p.2 ++ s.slotContextFaults c p.1 p.2
      ++ slotGroupFaults ((c.slots.map slotOf).map (fun y => if y.2.val then y else (0, y.2))) n p.1 p.2

/-- The first failure of a context: the header, the routing word, the slots, each with its lowest position; then the descriptors against
the constants that the image defines (spec 08 R171, 04 R88; the reserved layout and packets over 256 bits are cause 0x01). -/
def State.contextFail (s : State) (img : List CtxCheck) (consts : Nat → Option (BitVec 256)) (c : CtxCheck) : Option LoadFail :=
  let low (l : List Nat) : Nat := l.foldl Nat.min 127
  let mk (cause item field : Nat) : LoadFail := ⟨cause, elemIx c.key, c.n, item, field⟩
  if s.headerFaults c ≠ [] then some (mk 0x01 0 (low (s.headerFaults c)))
  else if s.routingFaults img c ≠ [] then some (mk 0x01 0 (low (s.routingFaults img c)))
  else
    match (List.range 16).find? (fun n => s.slotFaultsIn c n ≠ []) with
    | some n => some (mk 0x01 n (low (s.slotFaultsIn c n)))
    | none =>
      (List.range 16).findSome? (fun n =>
        let x := slotOf (c.slots.getD n 0)
        let op := x.1
        let r := x.2.imm.toNat / 256 % 4
        if !x.2.val || !(affineOps.contains op || tableOps.contains op) then none
        else
          match consts r with
          | none => none
          | some v =>
            let g := genDesc v
            if g.swz = 3 ∨ 32 < g.lanes * g.laneBytes then some (mk 0x01 n 88)
            else if !descriptorOk (siteType (elemIx c.key)) (hdrFmt c.h) op v then some (mk 0x02 r 0) else none)

/-- A context of 208 bytes as it is checked. -/
def ctxOfBytes (key n : Nat) (b : List Byte) : CtxCheck :=
  { key := key, n := n, h := leNat (b.take 8), rt := leNat ((b.drop 8).take 8)
    slots := (List.range 16).map (fun i => leNat ((b.drop (16 + 12 * i)).take 12)) }

/-- The contexts of an image on a core: one given no bytes is checked as it stands in the window (spec 08 R172). -/
def State.imageCtxs (s : State) (core : Nat) (img : List ImageElem) : List CtxCheck :=
  img.flatMap (fun e => e.ctxs.map (fun c =>
    let k := ekey core e.elem
    ctxOfBytes k c.1 (if c.2 = [] then s.memBytes (imageBase k c.1) 208 else c.2)))

/-- The constant that an image defines for a register of an element. -/
def imageConst (img : List ImageElem) (elem r : Nat) : Option (BitVec 256) :=
  img.findSome? (fun e => if e.elem = elem then e.consts.findSome? (fun c => if c.1 = r then some c.2 else none) else none)

/-- Whether one context comes before another among failures (spec 08 R171). -/
def ctxBefore (a b : CtxCheck) : Bool := decide (a.key < b.key) || (a.key = b.key && decide (a.n < b.n))

/-- Sorts contexts by element and number. -/
def ctxInsert (c : CtxCheck) : List CtxCheck → List CtxCheck
  | [] => [c]
  | d :: l => if ctxBefore d c then d :: ctxInsert c l else c :: d :: l
def ctxSort (l : List CtxCheck) : List CtxCheck := l.foldr ctxInsert []

/-- The first failure of an image on a core (spec 08 R171). -/
def State.imageFail (s : State) (core : Nat) (img : List ImageElem) : Option LoadFail :=
  let l := ctxSort (s.imageCtxs core img)
  l.findSome? (fun c => s.contextFail l (imageConst img (elemIx c.key)) c)

/-- The bytes of a context with RID in bits 63 to 48 of the header (spec 07 R148). -/
def withRid (rid : BitVec 16) (b : List Byte) : List Byte := b.take 6 ++ leBytes 2 rid.toNat ++ b.drop 8

/-- What a load that passes writes: contexts with their loaded flags, and constants, which take their committed value (spec 08 R171, 07 R150, log 24).
Bytes already in the window stay as they are (08 R172). -/
def loadImage (core : Nat) (img : List ImageElem) : Prog :=
  Prog.forEach img (fun e s =>
    let k := ekey core e.elem
    let rid := s.ridOf k
    let x := s.elem k
    let x := e.consts.foldl (fun (x : Elem) c => (x.setK c.1 { val := c.2, pois := 0 }).setKs c.1 KStage.reset) x
    (e.ctxs.filter (fun c => c.2 ≠ [])).map (fun c => Effect.bytes (imageBase k c.1) (withRid rid c.2))
      ++ [.elem k { x with loaded := e.ctxs.foldl (fun (m : BitVec 8) c => m ||| (1#8 <<< c.1)) x.loaded }])

/-- A configuration load (spec 08 R171): every check before any write; a failure goes to the issuer. At a gated core it waits for the wake (01 R32). -/
def configLoad (core : Nat) (img : List ImageElem) : Prog := fun s =>
  if s.powerOf core ≠ .on then s.holdAt core (.load img)
  else match s.imageFail core img with
    | some f => [.reply (.report 6 f.cause f.detail)]
    | none => loadImage core img s

/-- CONFIGURATION_LOAD (spec 08 R171). -/
def execConfigurationLoad (core : Nat) (img : List ImageElem) (s : State) : Host.Outcome State Fault Refusal := complete (configLoad core img) s

end Sys2Proof.Machine
end

