-- ==== Sys2Proof/Machine/Fabric.lean ====
section
/-! DEFINITION. The memory fabric on its own account: performing an access (spec 02 R34), page-table walks (02 R50, R51), the patrol scrub
(02 R42), time-outs of pending lines (04 R93), errors of element storage (17 R401), and the freezing of a master (18 R438). -/

namespace Sys2Proof.Machine

/-- MEMORY_ACCESS (spec 02 R34, 15 R343): the access with this number is performed at the node that owns its location. -/
def execMemoryAccess (n : Nat) (s : State) : Host.Outcome State Fault Refusal :=
  complete (fun s =>
    match s.pending.find? (fun a => a.id = n) with
    | some a => s.performAccess a
    | none => []) s

/-- TRANSLATION_WALK (spec 02 R50, R51): one of a die's walkers makes the walk for a page that its buffer does not hold; a leaf that is found
enters the buffer. A walk that fails leaves nothing there: the access that needs it meets the cause (R53). -/
def execTranslationWalk (w : Walker) (va : Nat) (s : State) : Host.Outcome State Fault Refusal :=
  complete (fun s =>
    if 4 ≤ w.die ∨ 2 ^ 48 ≤ va ∨ ((s.buffer (384 + w.die)).any (fun t => t.serves w.tcid va)) = true then []
    else s.walkEffects w.die w.tcid va) s

/-- PATROL_SCRUB (spec 02 R42, 18 R440): a sector of a stack is read; one wrong bit is corrected and counted, more make it poisoned. -/
def execPatrolScrub (sector : Nat) (s : State) : Host.Outcome State Fault Refusal :=
  complete (fun s =>
    if (placeOf (32 * sector)).block ≠ .hbm then []
    else if Map.get 0 s.softErr sector = 1 then [.softErr sector 0, s.countEvent (recordOf (32 * sector)) 2]
    else s.correct (32 * sector) [sector]) s

/-- PENDING_LINE_TIMEOUT (spec 04 R93, 17 R401): a pending bit has stayed set for 2^20 counted cycles. Where the element belongs to no active
invocation, Foreveder is told of it once. -/
def execPendingLineTimeout (core spad line : Nat) (s : State) : Host.Outcome State Fault Refusal :=
  complete (fun s =>
    let k := ekey core (spadElem spad)
    let ps := (s.elem k).pend.filter (fun p => p.1 = line && decide (2 ^ 20 ≤ p.2.2))
    if ps.isEmpty then []
    else if !s.isMember k then
      (if ps.any (fun p => p.2.2 = 2 ^ 20) then [.reply (.report 1 0x17 (detailOf [(4, spad), (9, line)]))] else [])
    else
      match s.regionOf k with
      | none => []
      | some b => if (s.region b).tv then [] else s.asyncStop b 0x17 5 (elemIx k) (detailOf [(4, spad), (9, line)])) s

/-- STATE_STORAGE_ERROR (spec 17 R401): an uncorrectable error in an element's storage stops its region. -/
def execStateStorageError (core elem unit : Nat) (s : State) : Host.Outcome State Fault Refusal :=
  complete (fun s =>
    match s.regionOf (ekey core elem) with
    | none => []
    | some b => s.countEvent core 7 :: s.asyncStop b 0x55 5 elem (detailOf [(7, elem), (3, unit)])) s

/-- The process that a host queue pair belongs to: that of its first valid key entry (spec 18 R416, R417). -/
def State.qpOwner (s : State) (qp : Nat) : Nat :=
  match s.hostKeys.find? (fun x => x.2.getLsbD 192 && bits x.2.toNat 214 10 = qp) with
  | some x => bits x.2.toNat 204 10
  | none => 0

/-- FREEZING A MASTER that broke an isolation rule (spec 01 R28, 18 R438): its region stops, its engine, queue pair or port freezes, and
Foreveder reports it. Foreveder itself never freezes. -/
def freezeMaster (role : BitVec 26) (pa : Nat) (k : Kind) : Prog := fun s =>
  let kind := bits role.toNat 22 4
  let core := bits role.toNat 7 9
  let unit := bits role.toNat 0 7
  match kind with
  | 1 =>
    (match s.regionOf (ekey core unit) with
     | none => []
     | some b =>
       Prog.seq [fun s => s.asyncStop b 0x52 5 unit (detailOf [(48, pa), (26, role.toNat)]), freezeEntry (s.region b).tcid role pa k] s)
  | 6 => Prog.seq [fun _ => [.qp unit (.frozen [])], freezeEntry (s.qpOwner unit) role pa k] s
  | 7 => [.port unit { s.port unit with frozen := true }, .reply (.report 2 0x52 (detailOf [(48, pa), (26, role.toNat)]))]
  | n =>
    if 2 ≤ n ∧ n ≤ 5 then
      Prog.seq [fun s => [.engine (4 * core + (n - 2)) { s.engine core (n - 2) with frozen := true }],
        freezeEntry (Map.get 0 s.served core) role pa k] s
    else []

end Sys2Proof.Machine
end

