-- ==== Sys2Proof/Machine/Signature.lean ====
section
/-! DEFINITION. Digests and the signature pair (spec 18 R432): SHA-256 and SHA-384 (FIPS 180-4), ECDSA over P-384 (FIPS 186), and HSS
with LMS_SHA256_M32_H20 and LMOTS_SHA256_N32_W8 (NIST SP 800-208, RFC 8554). A byte string is a list of numbers, first byte first. -/

namespace Sys2Proof

/-- A member of the SHA-2 family: bits of a word, the words that start a digest, the round constants, and the amounts of its rotations
and shifts: the two sums of the rounds, the two of the message schedule (the last amount a shift). -/
structure Sha2 where
  word : Nat
  start : List Nat
  consts : List Nat
  sumA : Nat × Nat × Nat
  sumE : Nat × Nat × Nat
  schedA : Nat × Nat × Nat
  schedE : Nat × Nat × Nat
  deriving DecidableEq, Repr

/-- The round constants of 64-bit words; those of 32-bit words are the high halves of the first 64. -/
def shaConsts : List Nat :=
  [0x428A2F98D728AE22, 0x7137449123EF65CD, 0xB5C0FBCFEC4D3B2F, 0xE9B5DBA58189DBBC, 0x3956C25BF348B538] ++
  [0x59F111F1B605D019, 0x923F82A4AF194F9B, 0xAB1C5ED5DA6D8118, 0xD807AA98A3030242, 0x12835B0145706FBE] ++
  [0x243185BE4EE4B28C, 0x550C7DC3D5FFB4E2, 0x72BE5D74F27B896F, 0x80DEB1FE3B1696B1, 0x9BDC06A725C71235] ++
  [0xC19BF174CF692694, 0xE49B69C19EF14AD2, 0xEFBE4786384F25E3, 0x0FC19DC68B8CD5B5, 0x240CA1CC77AC9C65] ++
  [0x2DE92C6F592B0275, 0x4A7484AA6EA6E483, 0x5CB0A9DCBD41FBD4, 0x76F988DA831153B5, 0x983E5152EE66DFAB] ++
  [0xA831C66D2DB43210, 0xB00327C898FB213F, 0xBF597FC7BEEF0EE4, 0xC6E00BF33DA88FC2, 0xD5A79147930AA725] ++
  [0x06CA6351E003826F, 0x142929670A0E6E70, 0x27B70A8546D22FFC, 0x2E1B21385C26C926, 0x4D2C6DFC5AC42AED] ++
  [0x53380D139D95B3DF, 0x650A73548BAF63DE, 0x766A0ABB3C77B2A8, 0x81C2C92E47EDAEE6, 0x92722C851482353B] ++
  [0xA2BFE8A14CF10364, 0xA81A664BBC423001, 0xC24B8B70D0F89791, 0xC76C51A30654BE30, 0xD192E819D6EF5218] ++
  [0xD69906245565A910, 0xF40E35855771202A, 0x106AA07032BBD1B8, 0x19A4C116B8D2D0C8, 0x1E376C085141AB53] ++
  [0x2748774CDF8EEB99, 0x34B0BCB5E19B48A8, 0x391C0CB3C5C95A63, 0x4ED8AA4AE3418ACB, 0x5B9CCA4F7763E373] ++
  [0x682E6FF3D6B2B8A3, 0x748F82EE5DEFB2FC, 0x78A5636F43172F60, 0x84C87814A1F0AB72, 0x8CC702081A6439EC] ++
  [0x90BEFFFA23631E28, 0xA4506CEBDE82BDE9, 0xBEF9A3F7B2C67915, 0xC67178F2E372532B, 0xCA273ECEEA26619C] ++
  [0xD186B8C721C0C207, 0xEADA7DD6CDE0EB1E, 0xF57D4F7FEE6ED178, 0x06F067AA72176FBA, 0x0A637DC5A2C898A6] ++
  [0x113F9804BEF90DAE, 0x1B710B35131C471B, 0x28DB77F523047D84, 0x32CAAB7B40C72493, 0x3C9EBE0A15C9BEBC] ++
  [0x431D67C49C100D4C, 0x4CC5D4BECB3E42B6, 0x597F299CFC657E2A, 0x5FCB6FAB3AD6FAEC, 0x6C44198C4A475817]

/-- SHA-256 and SHA-384. -/
def sha2of32 : Sha2 :=
  { word := 32, start := [0x6A09E667, 0xBB67AE85, 0x3C6EF372, 0xA54FF53A, 0x510E527F, 0x9B05688C, 0x1F83D9AB, 0x5BE0CD19]
    consts := (shaConsts.take 64).map (fun x => x / 2 ^ 32)
    sumA := (2, 13, 22), sumE := (6, 11, 25), schedA := (7, 18, 3), schedE := (17, 19, 10) }
def sha2of64 : Sha2 :=
  { word := 64
    start := [0xCBBB9D5DC1059ED8, 0x629A292A367CD507, 0x9159015A3070DD17, 0x152FECD8F70E5939,
      0x67332667FFC00B31, 0x8EB44A8768581511, 0xDB0C2E0D64F98FA7, 0x47B5481DBEFA4FA4]
    consts := shaConsts
    sumA := (28, 34, 39), sumE := (14, 18, 41), schedA := (1, 8, 7), schedE := (19, 61, 6) }

/-- A word turned right. -/
def turnRight (w x n : Nat) : Nat := x / 2 ^ n + x % 2 ^ n * 2 ^ (w - n)

/-- The exclusive or of three turns; of two turns and a shift. -/
def Sha2.turns (h : Sha2) (a : Nat × Nat × Nat) (x : Nat) : Nat := turnRight h.word x a.1 ^^^ turnRight h.word x a.2.1 ^^^ turnRight h.word x a.2.2
def Sha2.sched (h : Sha2) (a : Nat × Nat × Nat) (x : Nat) : Nat := turnRight h.word x a.1 ^^^ turnRight h.word x a.2.1 ^^^ x / 2 ^ a.2.2

/-- n more words of the message schedule, newest first. -/
def Sha2.expand (h : Sha2) : Nat → List Nat → List Nat
  | 0, w => w
  | n + 1, w =>
    h.expand n ((h.sched h.schedE (w.getD 1 0) + w.getD 6 0 + h.sched h.schedA (w.getD 14 0) + w.getD 15 0) % 2 ^ h.word :: w)

/-- The eight working words after one round with a constant and a word of the schedule. -/
def Sha2.round (h : Sha2) (v : List Nat) (kw : Nat × Nat) : List Nat :=
  match v with
  | [a, b, c, d, e, f, g, x] =>
    let t1 := x + h.turns h.sumE e + ((e &&& f) ^^^ ((2 ^ h.word - 1 - e) &&& g)) + kw.1 + kw.2
    let t2 := h.turns h.sumA a + ((a &&& b) ^^^ (a &&& c) ^^^ (b &&& c))
    [(t1 + t2) % 2 ^ h.word, a, b, c, (d + t1) % 2 ^ h.word, e, f, g]
  | _ => v

/-- One block of sixteen words taken into a digest. -/
def Sha2.block (h : Sha2) (v w : List Nat) : List Nat :=
  let ws := (h.expand (h.consts.length - 16) w.reverse).reverse
  List.zipWith (fun x y => (x + y) % 2 ^ h.word) v ((h.consts.zip ws).foldl h.round v)

/-- A number as n bytes, highest first; and back. -/
def bigBytes (n x : Nat) : List Nat := (natBytes n x).reverse
def bigNat (l : List Nat) : Nat := bytesNat l.reverse

/-- A message with its padding: a one bit, zeros, its length in bits in two words. -/
def Sha2.padded (h : Sha2) (m : List Nat) : List Nat :=
  let block := 2 * h.word
  let tail := h.word / 4
  m ++ [128] ++ List.replicate ((2 * block - 1 - tail - m.length % block) % block) 0 ++ bigBytes tail (8 * m.length)

/-- The bytes of a digest. -/
def Sha2.digest (h : Sha2) (m : List Nat) : List Nat :=
  let p := h.padded m
  let blocks := bytesBy (2 * h.word) (p.length / (2 * h.word)) p
  (blocks.foldl (fun v b => h.block v ((bytesBy (h.word / 8) 16 b).map bigNat)) h.start).flatMap (bigBytes (h.word / 8))
def sha256 (m : List Nat) : List Nat := sha2of32.digest m
def sha384 (m : List Nat) : List Nat := (sha2of64.digest m).take 48

/-- The curve P-384: its field, its order, its second coefficient, its base point; the first coefficient is −3. -/
def p384 : Nat := 2 ^ 384 - 2 ^ 128 - 2 ^ 96 + 2 ^ 32 - 1
def order384 : Nat := 2 ^ 384 - 0x389CB27E0BC8D220A7E5F24DB74F58851313E695333AD68D
def coeff384 : Nat := 0xB3312FA7E23EE7E4988E056BE3F82D19181D9C6EFE8141120314088F5013875AC656398D8A2ED19D2A85C8EDD3EC2AEF
def base384 : Nat × Nat :=
  (0xAA87CA22BE8B05378EB1C71EF320AD746E1D3B628BA79B9859F741E082542A385502F25DBF55296C3A545E3872760AB7,
   0x3617DE4A96262C6F5D9E98BF9292DC29F8F41DBD289A147CE9DA3113B5F0B8C00A60B1CE1D7E819D7A431D7C90EA0E5F)

/-- The power x^e modulo m, with n bits of e. -/
def powMod (m : Nat) : Nat → Nat → Nat → Nat
  | 0, _, _ => 1
  | n + 1, x, e => (if e % 2 = 1 then x else 1) * powMod m n (x * x % m) (e / 2) % m
/-- The inverse modulo a prime of at most 384 bits. -/
def invMod (m x : Nat) : Nat := powMod m 384 (x % m) (m - 2)

/-- The sum of two points of the curve; none is the point at infinity. -/
def addPoint (a b : Option (Nat × Nat)) : Option (Nat × Nat) :=
  match a, b with
  | none, b => b
  | a, none => a
  | some (x1, y1), some (x2, y2) =>
    if x1 = x2 ∧ (y1 + y2) % p384 = 0 then none
    else
      let l := if x1 = x2 then (3 * x1 * x1 + (p384 - 3)) * invMod p384 (2 * y1) % p384
        else (y2 + (p384 - y1)) * invMod p384 (x2 + (p384 - x1)) % p384
      let x := (l * l + (p384 - x1) + (p384 - x2)) % p384
      some (x, (l * (x1 + (p384 - x)) + (p384 - y1)) % p384)

/-- The multiple k of a point, with n bits of k. -/
def timesPoint : Nat → Nat → Option (Nat × Nat) → Option (Nat × Nat)
  | 0, _, _ => none
  | n + 1, k, a => addPoint (if k % 2 = 1 then a else none) (timesPoint n (k / 2) (addPoint a a))

/-- Whether a point lies on the curve. -/
def onCurve (x y : Nat) : Bool :=
  decide (x < p384) && decide (y < p384) && y * y % p384 = (x * x * x + (p384 - 3) * x + coeff384) % p384

/-- ECDSA over P-384 with SHA-384: a key X then Y, a message, a signature r then s, each 48 bytes, highest first (spec 18 R432, R423). -/
def ecdsaVerifies (key m sig : List Nat) : Bool :=
  let x := bigNat (key.take 48)
  let y := bigNat ((key.drop 48).take 48)
  let r := bigNat (sig.take 48)
  let t := bigNat ((sig.drop 48).take 48)
  let w := invMod order384 t
  key.length = 96 && sig.length = 96 && onCurve x y && decide (1 ≤ r) && decide (r < order384) && decide (1 ≤ t) && decide (t < order384)
    && (match addPoint (timesPoint 384 (bigNat (sha384 m) * w % order384) (some base384)) (timesPoint 384 (r * w % order384) (some (x, y))) with
        | none => false
        | some q => q.1 % order384 = r)

/-- A chain of LM-OTS from step j on, n steps: identifier, leaf, chain number. -/
def otsChain (ident : List Nat) (q i : Nat) : Nat → Nat → List Nat → List Nat
  | 0, _, t => t
  | n + 1, j, t => otsChain ident q i n (j + 1) (sha256 (ident ++ bigBytes 4 q ++ bigBytes 2 i ++ [j] ++ t))

/-- The public key of a leaf that an LM-OTS signature leads to: its randomizer c and its 34 strings y. -/
def otsKey (ident : List Nat) (q : Nat) (c : List Nat) (y : List (List Nat)) (m : List Nat) : List Nat :=
  let d := sha256 (ident ++ bigBytes 4 q ++ [0x81, 0x81] ++ c ++ m)
  let digits := d ++ bigBytes 2 ((d.map (fun b => 255 - b)).foldl (fun a b => a + b) 0)
  sha256 (ident ++ bigBytes 4 q ++ [0x80, 0x80]
    ++ (digits.zip y).zipIdx.flatMap (fun x => otsChain ident q x.2 (255 - x.1.1) x.1.1 x.1.2))

/-- The root of a tree that the path from a node leads to. -/
def lmsRoot (ident : List Nat) : List (List Nat) → Nat → List Nat → List Nat
  | [], _, t => t
  | p :: l, node, t =>
    lmsRoot ident l (node / 2) (sha256 (ident ++ bigBytes 4 (node / 2) ++ [0x83, 0x83] ++ (if node % 2 = 1 then p ++ t else t ++ p)))

/-- An LMS signature of 1,772 bytes against a public key of 56: type codes, identifier, leaf number, the path of 20 nodes. -/
def lmsVerifies (key m sig : List Nat) : Bool :=
  let ident := (key.drop 8).take 16
  let q := bigNat (sig.take 4)
  let leaf := sha256 (ident ++ bigBytes 4 (2 ^ 20 + q) ++ [0x82, 0x82] ++ otsKey ident q ((sig.drop 8).take 32) (bytesBy 32 34 (sig.drop 40)) m)
  key.length = 56 && sig.length = 1772 && bigNat (key.take 4) = 8 && bigNat ((key.drop 4).take 4) = 4
    && bigNat ((sig.drop 4).take 4) = 4 && bigNat ((sig.drop 1128).take 4) = 8 && decide (q < 2 ^ 20)
    && lmsRoot ident (bytesBy 32 20 (sig.drop 1132)) (2 ^ 20 + q) leaf = (key.drop 24).take 32

/-- An HSS signature of one or two levels against a public key of 60 bytes (spec 18 R432). -/
def hssVerifies (key m sig : List Nat) : Bool :=
  let levels := bigNat (key.take 4)
  let top := key.drop 4
  key.length = 60 && bigNat (sig.take 4) + 1 = levels
    && (if levels = 1 then lmsVerifies top m (sig.drop 4)
        else
          let lower := (sig.drop 1776).take 56
          levels = 2 && lmsVerifies top lower ((sig.drop 4).take 1772) && lmsVerifies lower m (sig.drop 1832))

/-- The same on the bytes of memory: a digest with its first byte lowest, and the two signatures. -/
def numbersOf (l : List Byte) : List Nat := l.map BitVec.toNat
def digest384 (l : List Byte) : BitVec 384 := BitVec.ofNat 384 (bytesNat (sha384 (numbersOf l)))
def ecdsaValid (key m sig : List Byte) : Bool := ecdsaVerifies (numbersOf key) (numbersOf m) (numbersOf sig)
def hssValid (key m sig : List Byte) : Bool := hssVerifies (numbersOf key) (numbersOf m) (numbersOf sig)

end Sys2Proof
end

