-- ==== Sys2Proof/Machine/Container.lean ====
section
/-! DEFINITION. Launch records and containers (spec 16 R361 to R366, R381, R382, 18 R432, R433): how they are read and which checks they pass. -/

namespace Sys2Proof.Machine

/-- A number held in n bytes at an offset. -/
def natAt (l : List Byte) (off n : Nat) : Nat := leNat ((l.drop off).take n)
/-- Whether n bytes at an offset are zero. -/
def zeroAt (l : List Byte) (off n : Nat) : Bool := ((l.drop off).take n).all (fun b => b = 0)
/-- A length rounded up to a multiple of 64. -/
def up64 (n : Nat) : Nat := (n + 63) / 64 * 64
/-- How many of the low n bits of a number are set, and which. -/
def setBits (n x : Nat) : List Nat := (List.range n).filter (fun i => maskBit x i)

/-- A level entry (spec 16 R361). -/
structure Level where
  kind : Nat
  scope : Nat
  ext : Nat
  deriving DecidableEq, Repr

/-- What a launch record asks for (spec 16 R364), and the record's own words. -/
structure Plan where
  cpl : Nat
  img : Nat
  dlt : Nat
  hnd : BitVec 16
  poff : Nat
  res : Bool
  levels : List Level
  roles : List Word
  params : List Word
  deriving DecidableEq, Repr

/-- Product of the extents of the levels of some kinds. -/
def extents (l : List Level) (kinds : List Nat) : Nat := (l.filter (fun x => kinds.contains x.kind)).foldl (fun n x => n * x.ext) 1
def hasKind (l : List Level) (k : Nat) : Bool := l.any (fun x => x.kind = k)

/-- Logical cores per package; logical packages (spec 16 R362). -/
def Plan.cores (p : Plan) : Nat := extents p.levels [2, 3, 4]
def Plan.packages (p : Plan) : Nat := extents p.levels [5]
/-- Logical cores of a cluster unit, 1 where the table has no cluster level; cluster units of a die unit (spec 16 R363). -/
def Plan.unit (p : Plan) : Nat := if hasKind p.levels 3 then extents p.levels [2] else 1
def Plan.perDie (p : Plan) : Nat := extents p.levels [2, 3] / p.unit
def Plan.byDie (p : Plan) : Bool := hasKind p.levels 4

/-- Whether kinds never decrease from one level to the next. -/
def rising : List Level → Bool
  | a :: b :: l => decide (a.kind ≤ b.kind) && rising (b :: l)
  | _ => true

/-- Whether a level table is valid (spec 16 R362). -/
def levelsOk (l : List Level) : Bool :=
  let n := extents l [2, 3, 4]
  rising l && l.all (fun x => x.kind ≠ 7 && x.scope ≠ 7 && decide (x.kind ≤ x.scope) && (x.ext = 1 || !([0, 1, 6].contains x.kind)))
    && decide (1 ≤ n ∧ n ≤ 384)
    && (!hasKind l 3 || decide (extents l [2] ≤ 4))
    && (!hasKind l 4 || (decide (extents l [2, 3] ≤ 96) && decide (extents l [3] ≤ 24) && decide (extents l [4] ≤ 4)))
    && decide (1 ≤ extents l [5] ∧ extents l [5] ≤ 64)
    && (extents l [5] = 1 || (match l.getLast? with | some x => x.kind = 6 | none => false))

/-- A level entry and whether its zero fields are zero. -/
def levelOf (w : Nat) : Level × Bool :=
  ({ kind := bits w 0 3, scope := bits w 8 3, ext := bits w 16 16 + 1 }, bits w 3 5 = 0 && bits w 11 5 = 0 && bits w 32 32 = 0)

/-- The logical cores that a role entry covers, and its image (spec 16 R364). -/
def roleCores (w : Word) : List Nat := (List.range (bits w.toNat 16 16)).map (fun i => bits w.toNat 0 16 + i)
def roleImage (w : Word) : Nat := bits w.toNat 32 4

/-- The image that a logical core receives. -/
def Plan.imageOf (p : Plan) (lcore : Nat) : Nat :=
  match p.roles.find? (fun r => (roleCores r).contains lcore) with
  | some r => roleImage r
  | none => 0

/-- Whether role entries cover each logical core exactly once (spec 16 R364). -/
def rolesOk (n : Nat) (l : List Word) : Bool :=
  l.isEmpty || (l.all (fun r => bits r.toNat 36 28 = 0 && decide (1 ≤ bits r.toNat 16 16) && decide (bits r.toNat 0 16 + bits r.toNat 16 16 ≤ n))
    && (List.range n).all (fun c => (l.filter (fun r => (roleCores r).contains c)).length = 1))

/-- The fields of a launch record header (spec 16 R364). -/
def recordLen (h : Nat) : Nat := bits h 32 16
def recordCpl (h : Nat) : Nat := bits h 192 48

/-- The plan of a launch record: its header, and the words that follow; none if it is malformed (spec 16 R362, R364, R374). -/
def planOf (va h : Nat) (ws : List Nat) : Option Plan :=
  let nlev := bits h 16 3 + 1
  let nrole := bits h 24 8
  let nprm := bits h 48 16
  let levels := (ws.take nlev).map levelOf
  let word (w : Nat) : Word := BitVec.ofNat 64 w
  let p : Plan :=
    { cpl := recordCpl h, img := bits h 144 48, dlt := bits h 96 48, hnd := BitVec.ofNat 16 (bits h 80 16), poff := bits h 64 16, res := bits h 8 1 = 1
      levels := levels.map (fun x => x.1), roles := ((ws.drop nlev).take nrole).map word, params := ((ws.drop (nlev + nrole)).take nprm).map word }
  if va % 8 = 0 && bits h 240 16 = 0 && bits h 19 5 = 0 && bits h 9 7 = 0 && bits h 0 8 = 0 && decide (nrole ≤ 64) && decide (nprm ≤ 4096)
      && recordLen h = 4 + nlev + nrole + nprm && decide (ws.length = nlev + nrole + nprm)
      && p.img % 64 = 0 && p.dlt % 64 = 0 && levels.all (fun x => x.2) && levelsOk p.levels && rolesOk p.cores p.roles
      && decide (64 * p.poff + 16 + 8 * nprm ≤ 2 ^ 21) then some p else none

/-- A record of a container (spec 16 R366): its type, its offset and all its bytes. -/
structure Rec where
  type : Nat
  off : Nat
  bytes : List Byte
  deriving DecidableEq, Repr

/-- Reads the records of a container from an offset up to its signature record (spec 16 R366). What is answered on failure is the cause:
that of the access, 0x08 where no record begins, 0x0C where the bytes are zero and the signature record is missing (18 R433). -/
def State.readRecords (s : State) (w : Who) (va : Nat) : Nat → Nat → Except Nat (List Rec × List Effect)
  | 0, _ => .error 0x08
  | fuel + 1, off =>
    match s.readChecked w ((va + off : Nat) : Int) 8 with
    | .error f => .error f.cause
    | .ok (b, _) =>
      let h := leNat (b.map (fun x => x.1))
      let t := bits h 0 8
      let n := bits h 8 32
      if h = 0 then .error 0x0C
      else if t = 0 ∨ 8 < t ∨ n = 0 ∨ n % 64 ≠ 0 ∨ bits h 40 24 ≠ 0 then .error 0x08
      else
        match s.readChecked w ((va + off : Nat) : Int) n with
        | .error f => .error f.cause
        | .ok (r, l) =>
          let rec' : Rec := { type := t, off := off, bytes := r.map (fun x => x.1) }
          if t = 7 then .ok ([rec'], l)
          else
            match (s.apply l).readRecords w va fuel (off + n) with
            | .error c => .error c
            | .ok (rs, m) => .ok (rec' :: rs, l ++ m)

/-- A region record with what follows it (spec 16 R366). -/
structure CRegion where
  rw0 : Nat
  cl0 : Nat
  rows : Nat
  cols : Nat
  entry : Nat
  elems : List ImageElem
  binds : List (Nat × Nat)
  deriving DecidableEq, Repr

/-- An image record with its regions. -/
structure CImage where
  ix : Nat
  regions : List CRegion
  deriving DecidableEq, Repr

/-- A configuration container (spec 16 R366). -/
structure Container where
  images : List CImage
  data : List (Nat × List Byte)
  recs : List Rec
  deriving DecidableEq, Repr

/-- An image record's index (spec 16 R366). -/
def imageRec (r : Rec) : Option Nat :=
  if r.bytes.length = 64 && decide (natAt r.bytes 8 1 ≤ 15) && zeroAt r.bytes 9 55 then some (natAt r.bytes 8 1) else none

/-- A region record (spec 16 R366): a rectangle of the 8 × 16 sites. -/
def regionRec (r : Rec) : Option CRegion :=
  let f (i : Nat) : Nat := natAt r.bytes (8 + i) 1
  if r.bytes.length = 64 && zeroAt r.bytes 13 51 && decide (1 ≤ f 2) && decide (1 ≤ f 3) && decide (f 0 + f 2 ≤ 8) && decide (f 1 + f 3 ≤ 16)
      && decide (f 4 ≤ 7) then
    some { rw0 := f 0, cl0 := f 1, rows := f 2, cols := f 3, entry := f 4, elems := [], binds := [] }
  else none

/-- An element record (spec 16 R366). -/
def elemRec (r : Rec) : Option ImageElem :=
  let b := r.bytes
  let cs := setBits 8 (natAt b 9 1)
  let ks := setBits 4 (natAt b 10 1)
  let n := 16 + 208 * cs.length + 32 * ks.length
  if decide (natAt b 8 1 ≤ 127) && decide (natAt b 10 1 < 16) && zeroAt b 11 5 && b.length = up64 n && zeroAt b n (up64 n - n) then
    some { elem := natAt b 8 1
           ctxs := (cs.zipIdx).map (fun x => (x.1, (b.drop (16 + 208 * x.2)).take 208))
           consts := (ks.zipIdx).map (fun x => (x.1, BitVec.ofNat 256 (natAt b (16 + 208 * cs.length + 32 * x.2) 32))) }
  else none

/-- A binding record: labels and entries (spec 16 R366, R381). -/
def bindRec (r : Rec) : Option (List (Nat × Nat)) :=
  let b := r.bytes
  let k := natAt b 8 1
  let items := (List.range k).map (fun i => natAt b (16 + 8 * i) 8)
  if decide (1 ≤ k) && decide (k ≤ 128) && zeroAt b 9 7 && b.length = up64 (16 + 8 * k) && zeroAt b (16 + 8 * k) (up64 (16 + 8 * k) - (16 + 8 * k))
      && items.all (fun x => bits x 39 25 = 0 && bits x 10 21 = 0) then
    some (items.map (fun x => (bits x 32 7, bits x 0 32)))
  else none

/-- A data section: its virtual address and bytes (spec 16 R366). -/
def dataRec (r : Rec) : Option (Nat × List Byte) :=
  let b := r.bytes
  let n := natAt b 16 8
  if decide (natAt b 8 8 < 2 ^ 48) && decide (n < 2 ^ 32) && zeroAt b 24 8 && b.length = up64 (32 + n) && zeroAt b (32 + n) (up64 (32 + n) - (32 + n)) then
    some (natAt b 8 8, (b.drop 32).take n)
  else none

/-- Whether a launch template is well formed (spec 16 R366): a launch record (R364) whose CPL, IMG, DLT, HND and POFF are zero. -/
def templateOk (r : Rec) : Bool :=
  let h := natAt r.bytes 16 32
  let n := 16 + 8 * recordLen h
  let ws := (List.range (recordLen h - 4)).map (fun i => natAt r.bytes (48 + 8 * i) 8)
  zeroAt r.bytes 8 8 && decide (4 ≤ recordLen h) && r.bytes.length = up64 n && zeroAt r.bytes n (up64 n - n) && bits h 64 192 = 0
    && (planOf 0 h ws).isSome

/-- Whether two regions of an image share a site. -/
def CRegion.meets (a b : CRegion) : Bool :=
  decide (a.rw0 < b.rw0 + b.rows) && decide (b.rw0 < a.rw0 + a.rows) && decide (a.cl0 < b.cl0 + b.cols) && decide (b.cl0 < a.cl0 + a.cols)
def CRegion.holds (a : CRegion) (elem : Nat) : Bool :=
  decide (a.rw0 ≤ elem / 16) && decide (elem / 16 < a.rw0 + a.rows) && decide (a.cl0 ≤ elem % 16) && decide (elem % 16 < a.cl0 + a.cols)

/-- The container so far with its last region changed. -/
def Container.onRegion (c : Container) (f : CRegion → CRegion) : Option Container :=
  match c.images.reverse with
  | [] => none
  | i :: is =>
    match i.regions.reverse with
    | [] => none
    | g :: gs => some { c with images := (({ i with regions := (f g :: gs).reverse } : CImage) :: is).reverse }
def Container.lastRegion (c : Container) : Option CRegion := (c.images.getLast?).bind (fun i => i.regions.getLast?)

/-- The place of each record type in the order of a container (spec 16 R366): what may follow what. -/
def mayFollow (prev t : Nat) : Bool :=
  match t with
  | 1 => prev ≤ 4
  | 2 => 1 ≤ prev && prev ≤ 4
  | 3 => prev = 2 || prev = 3
  | 4 => prev = 2 || prev = 3
  | 5 => prev ≤ 5
  | 6 => prev ≤ 6
  | 7 => true
  | _ => false

/-- One more record of a configuration container (spec 16 R366). -/
def Container.add (c : Container) (r : Rec) : Option Container :=
  match r.type with
  | 1 => (imageRec r).bind (fun i => if c.images.any (fun x => x.ix = i) then none else some { c with images := c.images ++ [{ ix := i, regions := [] }] })
  | 2 => (regionRec r).bind (fun g =>
      match c.images.reverse with
      | [] => none
      | i :: is => if i.regions.any (fun h => h.meets g) || decide (16 ≤ i.regions.length) then none
                   else some { c with images := (({ i with regions := i.regions ++ [g] } : CImage) :: is).reverse })
  | 3 => (elemRec r).bind (fun e => c.lastRegion.bind (fun g =>
      if !g.holds e.elem || g.elems.any (fun x => x.elem = e.elem) then none else c.onRegion (fun g => { g with elems := g.elems ++ [e] })))
  | 4 => (bindRec r).bind (fun l => c.onRegion (fun g => { g with binds := l }))
  | 5 => (dataRec r).map (fun d => { c with data := c.data ++ [d] })
  | 6 => if templateOk r then some c else none
  | 7 => some c
  | _ => none

/-- Adds records in order, each after one that it may follow. -/
def Container.addAll : Container → Nat → List Rec → Option Container
  | c, _, [] => some c
  | c, prev, r :: l => if mayFollow prev r.type then (c.add r).bind (fun d => d.addAll r.type l) else none

/-- Whether two regions of one image bind one label (spec 16 R381). -/
def CImage.labelTwice (i : CImage) : Bool :=
  let ls := i.regions.flatMap (fun g => (g.binds.map (fun b => b.1)).dedup)
  ls.length ≠ ls.dedup.length

/-- The configuration container that records make; none if it is malformed, or binds a label twice on a core. -/
def containerOf (rs : List Rec) : Option Container :=
  match ({ images := [], data := [], recs := rs } : Container).addAll 0 rs with
  | none => none
  | some c => if c.images.any CImage.labelTwice then none else some c

/-- The parts of a signature record (spec 18 R433): key slot, ECDSA pair, HSS signature; none if its fields break their limits. -/
def signatureParts (b : List Byte) : Option (Nat × List Byte × List Byte) :=
  let lv := natAt b 9 1
  let n := if lv = 1 then 1776 else 3604
  if (lv = 1 || lv = 2) && zeroAt b 10 6 && (decide (natAt b 8 1 ≤ 15) || natAt b 8 1 = 255) && b.length = up64 (112 + n)
      && zeroAt b (112 + n) (up64 (112 + n) - (112 + n)) then
    some (natAt b 8 1, (b.drop 16).take 96, (b.drop 112).take n)
  else none

/-- The bytes of a digest, first byte lowest (spec 18 R436). -/
def digestBytes (d : BitVec 384) : List Byte := leBytes 48 d.toNat

/-- Whether both signatures of a key slot verify over a byte string followed by its digest (spec 18 R432). -/
def KeySlot.verifies (k : KeySlot) (signed ecdsa hss : List Byte) : Bool :=
  let m := signed ++ digestBytes (digest384 signed)
  ecdsaValid k.ecdsa m ecdsa && hssValid k.hss m hss

/-- An image-key slot. -/
def State.imageKey (s : State) (n : Nat) : KeySlot := Map.get KeySlot.empty s.root.images n

/-- The cause that a container's signature gives (spec 18 R433): none if it stands. -/
def State.signatureFail (s : State) (rs : List Rec) : Option Nat :=
  match rs.getLast? with
  | none => some 0x0C
  | some r =>
    if r.type ≠ 7 then some 0x0C
    else
      match signatureParts r.bytes with
      | none => some 0x08
      | some (slot, ecdsa, hss) =>
        let k := s.imageKey slot
        if slot ≤ 15 ∧ k.state = 1 ∧ k.verifies ((rs.dropLast).flatMap (fun x => x.bytes)) ecdsa hss = true then none else some 0x0C

/-- Reads a container whole and checks it but for its configuration (spec 16 R366, R381, 18 R433). -/
def State.readContainer (s : State) (w : Who) (va : Nat) : Except Nat (Container × List Effect) :=
  match s.readRecords w va (2 ^ 42) 0 with
  | .error c => .error c
  | .ok (rs, l) =>
    match containerOf rs with
    | none => .error 0x08
    | some c => (match s.signatureFail rs with | some f => .error f | none => .ok (c, l))

/-- A delta record (spec 16 R382); none if it is malformed. -/
def deltaRec (r : Rec) : Option DeltaRec :=
  let b := r.bytes
  let w := natAt b 8 8
  let item := bits w 19 5
  let used := if item < 16 then 12 else if item < 18 then 8 else 32
  if r.type = 8 && b.length = 64 && bits w 24 40 = 0 && decide (item ≤ 21) && zeroAt b (16 + used) (48 - used) then
    some { lcore := bits w 0 9, elem := bits w 9 7, ctx := bits w 16 3, item := item, data := (b.drop 16).take 32, off := r.off }
  else none

/-- Reads a delta container (spec 16 R382, 18 R433): one or more delta records and the signature, of a launch of n logical cores. -/
def State.readDelta (s : State) (w : Who) (va n : Nat) : Except Nat (List DeltaRec × List Effect) :=
  if va % 64 ≠ 0 then .error 0x08
  else match s.readRecords w va (2 ^ 42) 0 with
  | .error c => .error c
  | .ok (rs, l) =>
    match rs.dropLast.mapM deltaRec with
    | none => .error 0x08
    | some ds =>
      if ds.isEmpty || ds.any (fun d => decide (n ≤ d.lcore) && d.lcore ≠ 511) then .error 0x08
      else (match s.signatureFail rs with | some f => .error f | none => .ok (ds, l))

/-- Whether each image that a plan's logical cores receive is in the container. -/
def Plan.imagesIn (p : Plan) (c : Container) : Bool :=
  (List.range p.cores).all (fun i => c.images.any (fun x => x.ix = p.imageOf i))

/-- The regions that a logical core receives. -/
def Plan.regionsOf (p : Plan) (c : Container) (lcore : Nat) : List CRegion :=
  match c.images.find? (fun x => x.ix = p.imageOf lcore) with
  | some i => i.regions
  | none => []

end Sys2Proof.Machine
end

