-- ==== Sys2Proof/Machine/Invocation.lean ====
section
/-! DEFINITION. Invocations of regions (spec 16 R376 to R380, R385 to R387): how one starts, completes and merges its results, how a region is
released, and child launches. -/

namespace Sys2Proof.Machine

/-- The elements of a region whose context n is loaded and holds a sink (spec 16 R376). -/
def State.sinks (s : State) (blk n : Nat) : Nat :=
  ((s.regionElems blk).filter (fun k => (s.elem k).loaded.getLsbD n && hdrSnk (s.header k n))).length

/-- INVOCATION_START (spec 16 R376, 06 R140): counts cleared, the switch wave with the target injected. -/
def startInvocation (blk target : Nat) : Prog := Prog.seq
  [fun s => (s.regionElems blk).map (fun k => .elem k { s.elem k with
     active := true, opening := some (BitVec.ofNat 3 target), acted := false, stopped := false, stopIn := 0, held := false, trap := none, saveCh := 0 }),
   fun s => [.region blk { s.region blk with
     state := .running, snkd := 0, resd := 0, errt := 0, snkx := s.sinks blk target, ctx := target, start := s.cycle, quiet := 0, told := false }],
   injectWave blk (wavePacket 0 target)]

/-- The bits of a completion record (spec 16 R378). -/
def completionBits (cyc errt resd rem hnd cause status : Nat) : Nat :=
  packFields [(8, status), (7, cause), (65, 0), (16, hnd), (32, rem), (32, resd), (32, errt), (64, cyc)]

/-- The cause that a failed access on behalf of a process is reported with (spec 16 R370): 0x12 where R27 refuses it. -/
def behalfCause (f : Fail) : Nat := if f.cause = 0x52 then 0x12 else f.cause

/-- A write of a completion record on behalf of the process; one that fails is reported with SRC 1 and the handle (spec 16 R365, R370). -/
def writeCompletion (tcid cpl x : Nat) : Prog := fun s =>
  match s.writeChecked (s.behalf tcid) (cpl : Int) (leBytes 32 x) with
  | .ok l => l
  | .error f => faultEntry tcid (behalfCause f) 1 0 (bits x 80 16) [] none s

/-- A packet of a queue thread is complete (spec 16 R368). -/
def completePacket (t idx : Nat) : Prog := fun s =>
  [.thread t { s.thread t with opened := (s.thread t).opened.filter (fun i => i ≠ idx) }]

/-- The launches with one changed. -/
def State.setLaunch (s : State) (id : Nat) (f : Launch → Launch) : Effect := .launches (s.launches.map (fun l => if l.id = id then f l else l))

/-- Chain registers of an element unbound, the unbinds queued (spec 14 R335). -/
def State.unbound (s : State) (key : Nat) (e : Elem) : Elem :=
  let l := (List.range 2).filter (fun i => (e.chain i).bound)
  { l.foldl (fun (e : Elem) i => e.setChain i { e.chain i with bound := false }) e with
    inj := e.inj ++ l.map (fun i => s.unbindWord key (e.chain i)) }

/-- The ranges that a region owns (spec 14 R319): live, with its RID and translation context. -/
def State.rangesOf (s : State) (blk : Nat) : List Nat :=
  let r := s.region blk
  (List.range 64).filter (fun i => (s.range (blk / 16) i).live && (s.range (blk / 16) i).rid = r.rid && (s.range (blk / 16) i).tcid = r.tcid)

/-- RELEASE of a region (spec 16 R380): loaded flags, ranges, bindings it wrote, priority queues (09 R195), STATE 0. -/
def releaseRegion (blk : Nat) : Prog := Prog.seq
  [fun s => (s.regionElems blk).map (fun k =>
     let e := s.unbound k (s.elem k)
     .elem k { e with loaded := 0, active := false, opening := none, acted := false, stopped := false, stopIn := 0, held := false, trap := none, pq := [] }),
   fun s => (s.rangesOf blk).map (fun i => s.releaseRange (blk / 16) i),
   fun s =>
     (match s.launch? (s.region blk).launch with
      | none => []
      | some l => (l.labels.filter (fun k => k / 128 = blk / 16 && (s.region blk).covers (bits (Map.get 0 s.binding k).toNat 0 7))).map (fun k => .bind k 0)),
   fun s => [.region blk { s.region blk with state := .free, children := [], launch := 0, cutAt := 0, tv := false, more := 0, told := false }]]

/-- The release of a launch: every region that it still holds, every binding entry it wrote; then it is forgotten (spec 16 R380). -/
def releaseLaunch (id : Nat) : Prog := fun s =>
  match s.launch? id with
  | none => []
  | some l =>
    Prog.seq
      [Prog.forEach (l.regions.filter (fun b => (s.region b).launch = id && (s.region b).state ≠ .free)) releaseRegion,
       fun s => (l.labels.filter (fun k => Map.get 0 s.binding k ≠ 0)).map (fun k => .bind k 0),
       fun s => [.launches (s.launches.filter (fun x => x.id ≠ id))]] s

/-- One region of a launch has ended: after the last the packet completes, and a launch that is not resident is released (spec 16 R379, R380). -/
def regionEnded (id : Nat) : Prog := fun s =>
  match s.launch? id with
  | none => []
  | some l =>
    Prog.seq
      [fun s => [s.setLaunch id (fun l => { l with rem := l.rem - 1 })],
       if l.rem ≤ 1 then completePacket l.thread l.packet else Prog.skip,
       if l.rem ≤ 1 ∧ !l.res then releaseLaunch id else Prog.skip] s

/-- What a merge makes of a record (spec 16 R379); it enters the handle that R378 gives the record, which R372 leaves zero (log 25). -/
def mergedRecord (old hnd cyc errt resd cause status : Nat) : Nat :=
  let sat (x : Nat) : Nat := Nat.min x (2 ^ 32 - 1)
  completionBits (Nat.max (bits old 192 64) cyc) (sat (bits old 160 32 + errt)) (sat (bits old 128 32 + resd)) (bits old 96 32 - 1) hnd
    (if bits old 8 7 = 0 then cause else bits old 8 7) (Nat.max (bits old 0 8) status)

/-- The merge of one region's end into the record of a launch, one read-modify-write; a check that fails is reported with SRC 1 (spec 16 R379,
R365). A record in the window of a gated core waits for its wake (01 R32). -/
def mergeEnd (id cyc errt resd cause status : Nat) : Prog := fun s =>
  match s.launch? id with
  | none => []
  | some l =>
    let w := s.behalf l.tcid
    match s.checkAccess w .write (l.cpl : Int) 32 with
    | .error f => Prog.seq [faultEntry l.tcid (behalfCause f) 1 0 l.hnd.toNat [] none, regionEnded id] s
    | .ok ps =>
      match s.gateOf ps with
      | some c => s.holdAt c (.merge id cyc errt resd cause status)
      | none =>
        let old := leNat ((s.fetchFrom [] s.free ps).map (fun b => b.1))
        Prog.seq
          [fun s => s.fetchEffects w.role l.tcid ps,
           fun s => s.writePieces w.role l.tcid (cutPieces (clean (leBytes 32 (mergedRecord old l.hnd.toNat cyc errt resd cause status))) ps),
           regionEnded id] s

/-- COMPLETION_MERGE of a region (spec 16 R379). -/
def completionMerge (blk status cause : Nat) : Prog := fun s =>
  let r := s.region blk
  mergeEnd r.launch (s.cycle - r.start).toNat r.errt r.resd cause status s

/-- A successor's signal (spec 16 R385, R387): held if its core is gated, sent if it lies in another package. -/
def signalSuccessor (tcid : Nat) (err : Option (Nat × BitVec 26)) (w : Word) : Prog := fun s =>
  let core := bits w.toNat 0 9
  let n := bits w.toNat 9 8
  let inc := signExt 16 (bits w.toNat 17 16)
  if s.cutOff (bits w.toNat 33 6) then []
  else if bits w.toNat 33 6 ≠ s.pkgNum then
    [.nextId (s.nextId + 1),
     .send (.peer (s.peerReq (s.behalf tcid).role (bits w.toNat 33 6) (winBase core + 0x310000 + 8 * n) tcid s.nextId 4 .atomic 0
       ((leBytes 4 (lowBits 32 inc)).map (fun b => (b, err.isSome)))))]
  else if 384 ≤ core then []
  else if s.powerOf core ≠ .on then s.holdAt core (.signal n inc err)
  else [.sem (256 * core + n) (semSignal (s.sem core n) inc err)]

/-- The signals of a child's end (spec 16 R387). Their ROLE is Foreveder's kind (log 28). -/
def signalSuccessors (blk : Nat) (err : Option Nat) : Prog := fun s =>
  let r := s.region blk
  Prog.forEach r.succ (signalSuccessor r.tcid (err.map (fun c => (c, roleOf 8 s.pkgNum 0x1FF 0)))) s

/-- Packets that an element still holds (spec 16 R377 step 3). -/
def Elem.residue (e : Elem) : Nat :=
  e.qs.foldl (fun n x => n + x.2.length) 0 + e.qj.length + bit01 e.join.isSome + (e.outs.filter (fun x => x.2.isSome)).length
    + (e.byps.filter (fun x => x.2.isSome)).length + e.ret.length + bit01 e.merge.isSome
/-- The element without them. -/
def Elem.emptied (e : Elem) : Elem :=
  { e with qs := [], qj := [], join := none, joinA := 0, joinB := 0, outs := [], oyDest := .nowhere, byps := [], ret := [], merge := none, inject := [] }

/-- Removes and counts the packets that a region still holds (spec 16 R377 step 3). -/
def removeResidue (blk : Nat) : Prog := fun s =>
  let ks := s.regionElems blk
  let n := ks.foldl (fun n k => n + (s.elem k).residue) 0
  ks.map (fun k => .elem k (s.elem k).emptied)
    ++ [.region blk { s.region blk with resd := Nat.min ((s.region blk).resd + n) (2 ^ 32 - 1) }]

/-- The element that a word of the accumulate network comes from, if it is a contribution. -/
def AccWord.contributor : AccWord → Option Nat
  | .contrib _ _ _ _ _ _ _ src _ => some src
  | _ => none

/-- Whether elements still have accesses, load data, commands or contributions under way (spec 16 R377 step 2). -/
def State.outstanding (s : State) (core : Nat) (ks : List Nat) : Bool :=
  let mine (w : AccWord) : Bool := match w.contributor with | some k => ks.contains k | none => false
  s.pending.any (fun a => ks.contains a.key) || s.returned.any (fun r => ks.contains r.key)
    || (List.range 4).any (fun e =>
         let g := s.engine core e
         g.offers.any (fun o => ks.any (fun k => o.src = .elem k)) || (g.queue ++ g.running).any (fun c => ks.any (fun k => c.src = .elem k)))
    || s.accNet.any mine || s.asked.any (fun x => mine x.2) || s.heldq.any (fun x => x.2.any (fun h => match h with | .word w => mine w | _ => false))
    || ks.any (fun k => (s.elem k).inj.any mine)

/-- Step 1 of a completion (spec 16 R377): STATE 4; every element leaves the invocation, cancellable firings are cancelled. The commands of a region
that was draining go on (17 R408). -/
def beginCompletion (blk : Nat) : Prog := fun s =>
  s.pauseCmds blk false ++ (s.regionElems blk).flatMap (fun k =>
    s.dropOffers k ++ [.elem k { s.cancelled k (s.elem k) with active := false, opening := none, held := false, inject := [] }])
  ++ [.region blk { s.region blk with state := .completing, cutAt := 0 }]

/-- Steps 3 to 5 of a completion (spec 16 R377): residue, merge or signals, STATE 2. -/
def finishCompletion (blk : Nat) : Prog := Prog.seq
  [removeResidue blk,
   fun s => (s.regionElems blk).map (fun k => .elem k { s.elem k with acted := false, saveCh := 0 }),
   fun s => [.region blk { s.region blk with state := .idle, quiet := 0 }],
   fun s =>
     let r := s.region blk
     if r.inChild then
       Prog.seq [signalSuccessors blk (if r.errt = 0 then none else some 0x39),
         fun s => [.region blk { s.region blk with inChild := false, succ := [] }]] s
     else completionMerge blk 0 0 s]

/-- INVOCATION_COMPLETION (spec 16 R377, 17 R408): the sinks have all reported; once nothing of the region is under way, it ends. -/
def execInvocationCompletion (core block : Nat) (s : State) : Host.Outcome State Fault Refusal :=
  complete (fun s =>
    let blk := 16 * core + block
    let r := s.region blk
    let ks := s.regionElems blk
    if (r.state = .running ∨ r.state = .preempting) ∧ r.snkx ≠ 0 ∧ r.snkx ≤ r.snkd then beginCompletion blk s
    else if r.state = .completing ∧ !(ks.any (fun k => (s.elem k).busy.isSome)) ∧ !s.outstanding core ks then finishCompletion blk s
    else []) s

/-- The blocks that a launch took on a core, in container order. -/
def Launch.blocksOn (l : Launch) (core : Nat) : List Nat := l.regions.filter (fun b => b / 16 = core)

/-- The children that wait at the regions of a launch on a core. -/
def State.childrenAt (s : State) (l : Launch) (core : Nat) : Nat := (l.blocksOn core).foldl (fun n b => n + (s.region b).children.length) 0

/-- The place of a child in the placement map: that of its logical core, or with ANY the core of its logical package with the fewest waiting
children, the lowest index first (spec 16 R386). -/
def State.childCore (s : State) (l : Launch) (any : Bool) (lpkg lcore : Nat) : Option Nat :=
  let p := (l.place.drop (lpkg * l.ncores)).take l.ncores
  if any then
    p.foldl (fun acc c => match acc with | none => some c | some d => if s.childrenAt l c < s.childrenAt l d then some c else some d) none
  else p[lcore]?

/-- The region that a child's packet names, if the controller takes it (spec 16 R385, R386, R380). -/
def State.childRegion (s : State) (l : Launch) (core w lenw : Nat) : Option Nat :=
  match (l.blocksOn core)[bits w 25 5]? with
  | none => none
  | some b =>
    let r := s.region b
    let plw := bits w 8 5
    let e := (s.bindingOf core (bits w 16 7)).toNat
    if r.launch = l.id && r.state ≠ .free && r.state ≠ .saved && (s.regionElems b).all (fun k => (s.elem k).loaded.getLsbD (bits w 30 3))
        && (plw = 0 || (bits e 31 1 = 1 && r.covers (bits e 0 7)))
        && decide (plw ≤ lenw) && bits w 0 8 = 0 && bits w 13 3 = 0 && bits w 23 2 = 0 then some b else none

/-- The scope of a launch's outermost level (spec 16 R387). -/
def Launch.outerScope (l : Launch) : Nat := match l.levels.getLast? with | some w => bits w.toNat 8 3 | none => 6

/-- Whether an earlier child launch from the same core to the same logical core is still on the network (spec 01 R17). -/
def State.childBefore (s : State) (n src w : Nat) : Bool :=
  (s.taskNet.take n).any (fun t => match t with
    | .child _ words _ _ c _ _ => c = src && bits (words.headD 0).toNat 33 15 = bits w 33 15
    | .data _ _ _ _ => false)

/-- What the issuer of a child launch learns (spec 16 R386): its command ends, or the package that asked is answered (log 48): 0 done. -/
def childAnswer (src id : Nat) (peer : Option PeerReq) (status : Nat) : Prog := fun s =>
  match peer with
  | some r => [.send (.answer r (if status = 0 then [] else [BitVec.ofNat 8 status]) 0)]
  | none =>
    let g := s.engine src 3
    let role := s.engineRole src 3
    [.engine (4 * src + 3) (g.update id (fun c => if status = 0 then c.doneOk role else c.stop status 0x35 role))]

/-- The child waits behind the region's earlier ones, up to 8; or it is refused (spec 16 R386). -/
def childAtCore (l : Launch) (core n : Nat) (words succ : List Word) (src id : Nat) (peer : Option PeerReq) : Prog := fun s =>
  let gone : Prog := fun s => [.taskNet (listDrop s.taskNet n)]
  let w := (words.headD 0).toNat
  match s.childRegion l core w (words.length - 1) with
  | none => Prog.seq [gone, childAnswer src id peer 9] s
  | some b =>
    let r := s.region b
    if 8 ≤ r.children.length then []
    else
      let c : Child := { ctx := bits w 30 3, label := bits w 16 7, payload := (words.drop 1).take (bits w 8 5), succ := succ, scope := l.outerScope }
      Prog.seq [gone, childAnswer src id peer 0, fun _ => [.region b { r with children := r.children ++ [c] }]] s

/-- CHILD_LAUNCH_RECEIVE (spec 16 R386, R408): the child task at place n of the network, the first from its core to its target, reaches the
controller of its core, or leaves for the package where that is; the command then waits for the answer. -/
def execChildLaunchReceive (n : Nat) (s : State) : Host.Outcome State Fault Refusal :=
  complete (fun s =>
    match s.taskNet[n]? with
    | some (.child at_ words succ tcid src id peer) =>
      let g := s.engine src 3
      let w := (words.headD 0).toNat
      let any : Bool := match g.running.find? (fun c => c.id = id) with | some c => c.c.fld 3 9 1 = 1 | none => false
      let gone : Effect := .taskNet (listDrop s.taskNet n)
      let refuse : Prog := Prog.seq [fun _ => [gone], childAnswer src id peer 9]
      if s.childBefore n src w then [] else
      (match s.launches.find? (fun l => l.hnd.toNat = bits w 48 16 && l.tcid = tcid && l.res && !l.waiting) with
       | none => refuse s
       | some l =>
         match (if peer.isSome then some at_ else s.childCore l any (bits w 42 6) (bits w 33 9)) with
         | none => refuse s
         | some core =>
           if core < 512 then
             (if s.powerOf core ≠ .on then gone :: (s.perform gone).holdAt core (.task (.child core words succ tcid src id peer))
              else childAtCore l core n words succ src id peer s)
           else if s.cutOff (core / 512 - 1) then
             [gone, .engine (4 * src + 3) (g.update id (fun c => c.stop 6 0x51 (s.engineRole src 3)))]
           else
             [gone, .nextId (s.nextId + 1),
              .engine (4 * src + 3) (g.update id (fun c => { c with owes := [s.nextId], landing := some { prog := 0, last := true, stop := none, pois := false, arrive := [] } })),
              .send (.peer (s.peerReq (s.engineRole src 3) (core / 512 - 1) (winBase (core % 512)) tcid s.nextId words.length .task 0
                (clean ((words ++ succ).flatMap (fun w => leBytes 8 w.toNat)))))])
    | _ => []) s

/-- The payload of a child as packets of two 64-bit lanes (spec 16 R386). -/
def payloadPackets : List Word → List Packet
  | [] => []
  | [a] => [dataPacket 3 0 false [(a.toNat, false)]]
  | a :: b :: l => dataPacket 3 0 false [(a.toNat, false), (b.toNat, false)] :: payloadPackets l

/-- CHILD_START (spec 16 R384, R386): the first child of an idle region starts; its payload follows the wave. Without a sink the
invocation is refused, and its successors learn it (R376, log 29). -/
def execChildStart (core block : Nat) (s : State) : Host.Outcome State Fault Refusal :=
  complete (fun s =>
    let blk := 16 * core + block
    let r := s.region blk
    let waits : Bool := match s.launch? r.launch with | some l => l.delta.isSome | none => true
    match r.children with
    | [] => []
    | c :: rest =>
      if r.state ≠ .idle || waits then []
      else
        Prog.seq
          [fun s => [.region blk { s.region blk with children := rest, succ := c.succ, succScope := c.scope, inChild := true, cpl := 0 }],
           fun s =>
             if s.sinks blk c.ctx = 0 then
               Prog.seq [signalSuccessors blk (some 0x0A), fun s => [.region blk { s.region blk with inChild := false, succ := [] }]] s
             else
               Prog.seq
                 [startInvocation blk c.ctx,
                  fun s => [.taskNet (s.taskNet ++ (payloadPackets c.payload).map (fun p => Task.data core c.label ((s.regionElems blk).headD 0) p))]] s] s) s

end Sys2Proof.Machine
end

