-- ==== Sys2Proof/Machine/SaveArea.lean ====
section
/-! DEFINITION. Save areas (spec 17 R409 to R412): the bytes that Foreveder writes to the save pool for a scanned region and for the units of its
core, how large they are, and where in the pool they go. What the spec does not lay out is placed as log 18 says. -/

namespace Sys2Proof.Machine

/-- Zero bytes. -/
def zeros (n : Nat) : List Byte := List.replicate n 0

/-- Flags 0 to 8·n − 1 as n bytes, flag 0 lowest. -/
def flagBytes (n : Nat) (p : Nat → Bool) : List Byte :=
  (List.range n).map (fun i => BitVec.ofNat 8 (packFields ((List.range 8).map (fun j => (1, bit01 (p (8 * i + j)))))))

/-- Whether an odd number of the low n bits of a number are set. -/
def oddBits (n x : Nat) : Bool := (List.range n).foldl (fun a i => a ^^ maskBit x i) false

/-- The sideband of a packet, bits [20:0] of spec 06 R119; PAR is wrong where the packet came with wrong parity. -/
def Packet.sideband (p : Packet) : Nat :=
  let low := packFields [(3, p.lenm.toNat), (2, p.lw.toNat), (3, p.kind.toNat), (3, p.tag.toNat), (8, p.pois.toNat), (1, bit01 p.crd)]
  low + 2 ^ 20 * bit01 (oddBits 256 p.pay.toNat ^^ oddBits 20 low ^^ p.perr)

/-- A packet image of 48 bytes (spec 17 R410). -/
def packetImage (p : Option Packet) : List Byte :=
  match p with
  | none => zeros 48
  | some p => leBytes 32 p.pay.toNat ++ leBytes 4 (p.sideband + 2 ^ 31) ++ zeros 12
/-- n images of the packets at the start of a list. -/
def packetImages (n : Nat) (l : List Packet) : List Byte := (List.range n).flatMap (fun i => packetImage l[i]?)

/-- The code of an element type in a record (spec 17 R410). -/
def typeNo : ElemType → Nat
  | .st => 0 | .se => 1 | .ve => 2 | .le => 3 | .me => 4 | .ae => 5

/-- The header of an element record (spec 17 R410). -/
def Elem.recordHeader (e : Elem) (elem : Nat) (rid : BitVec 16) : Nat :=
  packFields [(7, elem), (10, 0), (6, e.st.toNat), (3, e.ctx.toNat), (3, typeNo (siteType elem)), (1, bit01 e.acted), (1, bit01 e.trap.isSome), (9, 0),
    (8, e.loaded.toNat), (16, rid.toNat)]

/-- The common part of an element record, 4,352 bytes (spec 17 R410). -/
def State.commonPart (s : State) (key : Nat) (rid : BitVec 16) : List Byte :=
  let e := s.elem key
  let four (f : Nat → List Byte) : List Byte := (List.range 4).flatMap f
  leBytes 8 (e.recordHeader (elemIx key) rid) ++ leBytes 8 e.rng.toNat
    ++ (List.range 16).flatMap (fun n => leBytes 2 (Map.get 0 e.loss n))
    ++ (List.range 8).flatMap (fun i => leBytes 2 (e.gen (i / 4) (i % 4)))
    ++ (List.range 6).flatMap (fun q => leBytes 4 (e.hreg q).pay.toNat) ++ zeros 8
    ++ four (fun n => leBytes 4 (e.dReg n).word)
    ++ leBytes 16 (packFields ((List.range 4).flatMap (fun n => [(4, (e.kReg n).pois.toNat), (4, (e.kStage n).pois.toNat), (1, bit01 (e.kStage n).flag)])))
    ++ four (fun n => leBytes 32 (e.dReg n).pay.toNat) ++ four (fun n => leBytes 32 (e.kReg n).val.toNat) ++ four (fun n => leBytes 32 (e.kStage n).val.toNat)
    ++ (List.range 8).flatMap (fun n => s.memBytes (imageBase key n) 208)
    ++ packetImage e.merge
    ++ leBytes 16 (packFields ([(3, e.split), (16, e.carry.toNat), (32, e.count.toNat), (16, e.sinkc), (1, bit01 e.reported)]
         ++ (List.range 6).map (fun q => (3, e.commitCount q))))
    ++ (List.range 6).flatMap (fun q => packetImages 4 (e.queue q)) ++ packetImages 4 (e.qj.map (fun j => j.a))
    ++ (List.range 6).flatMap (fun o => packetImage (e.out o)) ++ (List.range 6).flatMap (fun o => packetImage (e.byp o))
    ++ packetImage (e.join.map (fun j => j.a)) ++ zeros 144

/-- The command with this number at the engines of a core. -/
def State.cmdNo (s : State) (core id : Nat) : Option Cmd :=
  (List.range 4).findSome? (fun e => ((s.engine core e).running ++ (s.engine core e).queue).find? (fun c => c.id = id))

/-- A chain register in the order of its items (spec 14 R322), and a word of the injection buffer: 16 bytes of word, 4 of route. -/
def Chain.bytes (c : Chain) : List Byte :=
  leBytes 64 (packFields [(1, bit01 c.bound), (6, c.pkg), (9, c.lcore), (9, c.core), (15, c.first), (16, c.count), (9, c.x.toNat), (64, c.base), (64, c.rstr),
    (32, c.nsend), (32, c.cur), (32, c.sent), (6, c.dix), (13, c.gen.toNat)])
def AccWord.bytes (w : AccWord) : List Byte := leBytes 16 w.word128.toNat ++ leBytes 4 (w.route 0) ++ zeros 12

/-- A partial row: its exponent and its count, then 16 bytes for each column (spec 13 R291). -/
def partialBytes (p : Option PartialRow) : List Byte :=
  match p with
  | none => zeros 1040
  | some r => leBytes 8 r.xc.toNat ++ leBytes 8 r.n ++ (List.range 64).flatMap (fun i =>
      let c := Map.get ColReg.zero r.cols i
      leBytes 16 (c.v.toNat + 2 ^ 64 * c.flags.toNat))

/-- n bytes that the spec does not give, from a number of a free value on (log 4). -/
def openBytes (free n : Nat) : List Byte := (List.range n).map (fun i => BitVec.ofNat 8 ((Config.freeValue (free + i / 32)).toNat / 256 ^ (i % 32)))

/-- The extension of an element record by type (spec 17 R411). The arrangement of a matrix element's items is not architectural: its bytes are free
values, from a number on for each element. -/
def State.extension (s : State) (key : Nat) : List Byte :=
  let e := s.elem key
  let core := coreOf key
  match siteType (elemIx key) with
  | .st =>
    (List.range 32).flatMap (fun i => match e.ret[i]? with
      | none => zeros 64
      | some r => packetImage (some r.pkt) ++ leBytes 16 (packFields [(6, r.mask.toNat), (1, bit01 (r.need = 0))]))
    ++ (List.range 16).flatMap (fun i => match e.tracked[i]? with
      | none => zeros 72
      | some t => (match s.cmdNo core t.cmd with | some c => commandBytes c.c | none => zeros 64) ++ leBytes 8 (t.done.getD 0).toNat)
  | .se =>
    let b := spadBase core (elemIx key)
    s.readBytes 0 b 32768 ++ flagBytes 64 (fun n => e.pend.any (fun p => p.1 = n)) ++ flagBytes 128 (fun n => s.poison.contains (b / 32 + n)) ++ leBytes 8 e.pq.length
  | .ve => []
  | .le =>
    (List.range 258).flatMap (fun j => leBytes 8 (Map.get 0 e.lut j).toNat) ++ flagBytes 40 (fun j => decide (j < 258) && Map.get false e.lutp j)
  | .me => openBytes (s.free + 1024 * elemIx key) 29824
  | .ae =>
    (List.range 2).flatMap (fun i => (e.chain i).bytes) ++ leBytes 8 e.fc
      ++ (List.range 8).flatMap (fun i => match e.inj[i]? with | none => zeros 32 | some w => w.bytes)
      ++ (match e.refRec with
          | none => zeros 16
          | some r => leBytes 16 ((AccWord.refusal r.pkg r.core r.ent r.dix r.gen r.cause key r.chain).word128.toNat)) ++ partialBytes e.pin

/-- A range descriptor as its 24 bytes (spec 14 R319). -/
def RangeDesc.bytes (r : RangeDesc) : List Byte :=
  leBytes 24 (packFields [(15, r.first), (2, 0), (16, r.count), (9, r.x.toNat), (7, r.cause), (1, bit01 r.err), (1, bit01 r.live), (13, r.gen.toNat), (32, r.exp),
    (32, r.arr), (6, 0), (16, r.bnds), (16, r.mrk), (10, r.tcid), (16, r.rid.toNat)])

/-- A saved command: its 64 bytes, its progress, and its state: waiting 0, begun 1, stopped 2 with its status (spec 17 R410). -/
def Cmd.saved (c : Cmd) : List Byte :=
  commandBytes c.c ++ leBytes 8 c.prog ++ leBytes 8 (if c.finished then 2 + 2 ^ 8 * c.status else bit01 c.started)

/-- The save area of a region in this state (spec 17 R410), with the place of its core's area, 0 without one. -/
def State.regionBytes (s : State) (v : Save) : List Byte :=
  let r := v.region
  let l := s.launch? r.launch
  let at_ : Nat := match l with | some l => (l.place.findIdx? (fun c => c = v.core)).getD 0 | none => 0
  let n : Nat := match l with | some l => Nat.max l.ncores 1 | none => 1
  (List.range 8).flatMap (fun i => leBytes 8 (r.word i)) ++ leBytes 8 r.hnd.toNat
    ++ leBytes 8 (packFields [(8, r.rw0), (8, r.cl0), (8, r.nrows), (8, r.ncols)]) ++ leBytes 8 (packFields [(9, at_ % n), (6, at_ / n)])
    ++ leBytes 8 (packFields [(16, v.cmds.length), (16, v.ranges.length), (16, v.binds.length), (16, v.elems.length)]) ++ leBytes 8 v.coreAt ++ zeros 152
    ++ v.cmds.flatMap (fun c => c.2.saved)
    ++ v.ranges.flatMap (fun x => x.2.bytes ++ (List.range x.2.count).flatMap (fun j => leBytes 16 (s.amEntry v.core (x.2.first + j)).toNat))
    ++ v.binds.flatMap (fun x => leBytes 8 (x.2.toNat + 2 ^ 32 * x.1))
    ++ v.elems.flatMap (fun x => s.commonPart (ekey v.core x.1) r.rid ++ s.extension (ekey v.core x.1))

/-- The core save area of a core in this state (spec 17 R412), for so many regions. -/
def State.coreBytes (s : State) (core regions : Nat) : List Byte :=
  let b := winBase core
  leBytes 64 (packFields [(9, core), (6, s.pkgNum), (10, Map.get 0 s.served core), (7, 0), (5, regions)])
    ++ s.memBytes b 0x200000 ++ flagBytes 8192 (fun n => s.poison.contains (b / 32 + n))
    ++ (List.range 256).flatMap (fun n => leBytes 8 (s.sem core n).toNat) ++ (List.range 2048).flatMap (fun n => leBytes 16 (s.bar core n).toNat)
    ++ (List.range 128).flatMap (fun n => leBytes 4 (s.bindingOf core n).toNat)

/-- Bytes of a saved element (spec 17 R410, R411), of a region's save area, and of a core's (R412). -/
def elemArea (t : ElemType) : Nat :=
  4352 + (match t with | .st => 3200 | .se => 32968 | .ve => 0 | .le => 2104 | .me => 29824 | .ae => 1448)
def regionArea (elems : List Nat) (cmds binds : Nat) (counts : List Nat) : Nat :=
  256 + 80 * cmds + counts.foldl (fun n k => n + 24 + 16 * k) 0 + 8 * binds + elems.foldl (fun n e => n + elemArea (siteType e)) 0
def coreAreaSize : Nat := 0x20AA40
def Save.size (v : Save) : Nat := regionArea (v.elems.map (fun x => x.1)) v.cmds.length v.binds.length (v.ranges.map (fun x => x.2.count))

/-- The parts of a process's save pool that are taken: its region save areas, and the area of each core whose units went with them. -/
def State.takenAreas (s : State) (tcid : Nat) : List (Nat × Nat) :=
  (s.saves.filter (fun v => v.region.tcid = tcid)).flatMap (fun v => (v.area, v.size) :: (if v.coreArea.isSome then [(v.coreAt, coreAreaSize)] else []))

/-- Where areas of these sizes go in a pool from lo to hi − 1 of which parts are taken: first fit at the pool's start or behind a part, on
64 B (log 18); none if one does not fit. -/
def placeAreas (lo hi : Nat) : List Nat → List (Nat × Nat) → Option (List Nat)
  | [], _ => some []
  | n :: l, taken =>
    match ((lo :: taken.map (fun x => up64 (x.1 + x.2))).find? (fun a => decide (a + n ≤ hi) && taken.all (fun x => !overlaps a n x.1 x.2))) with
    | none => none
    | some a => (placeAreas lo hi l ((a, n) :: taken)).map (fun r => a :: r)

/-- The places of new areas in the save pool of a process. -/
def State.newAreas (s : State) (tcid : Nat) (sizes : List Nat) : Option (List Nat) :=
  let p := s.proc tcid
  placeAreas p.saveBase (p.saveBase + p.saveSize) sizes (s.takenAreas tcid)

/-- Bytes that Foreveder writes to the save pool of a process, under the process's KID (spec 17 R409, 02 R48). -/
def poolWrite (tcid at_ : Nat) (data : List Byte) : Prog := fun s =>
  s.store ((s.proc tcid).kids.headD 0) at_ data (List.replicate data.length false)

end Sys2Proof.Machine
end

