-- ==== Sys2Proof/Machine/Launch.lean ====
section
/-! DEFINITION. LAUNCH (spec 16 R361 to R374): the checks, the placement, the steps of R372, the scan-out of saved state (17 R409 to R412), the
zeroing of a core for another process (04 R99), and placement of a launch that waited. -/

namespace Sys2Proof.Machine

/-- A part that can fail with a cause. -/
abbrev Attempt := State → Except Nat (List Effect)
/-- Parts in order; the first failure ends them. -/
def Attempt.seq : List Attempt → Attempt
  | [], _ => .ok []
  | p :: l, s =>
    match p s with
    | .error c => .error c
    | .ok e =>
      match Attempt.seq l (s.apply e) with
      | .error c => .error c
      | .ok f => .ok (e ++ f)
def Attempt.forEach {α : Type} (l : List α) (f : α → Attempt) : Attempt := Attempt.seq (l.map f)
/-- A part that cannot fail. -/
def Attempt.of (p : Prog) : Attempt := fun s => .ok (p s)

/-- The first cores of the first cluster that has enough free ones. -/
def takeUnit (size : Nat) (free : List Nat) : Option (List Nat) :=
  (List.range 96).findSome? (fun cl =>
    let l := free.filter (fun c => clusterOf c = cl)
    if size ≤ l.length then some (l.take size) else none)
/-- n cluster units, and the cores that stay free. -/
def takeUnits (size : Nat) : Nat → List Nat → Option (List Nat × List Nat)
  | 0, free => some ([], free)
  | n + 1, free =>
    match takeUnit size free with
    | none => none
    | some u =>
      match takeUnits size n (free.filter (fun c => !u.contains c)) with
      | none => none
      | some r => some (u ++ r.1, r.2)
/-- n die units of k cluster units each, each on the first die that holds it. -/
def takeDies (size k : Nat) : Nat → List Nat → Option (List Nat)
  | 0, _ => some []
  | n + 1, free =>
    match (List.range 4).findSome? (fun d => takeUnits size k (free.filter (fun c => dieOf c = d))) with
    | none => none
    | some u => (takeDies size k n (free.filter (fun c => !u.1.contains c))).map (fun r => u.1 ++ r)

/-- A placement of n logical packages on free cores (spec 16 R363), first fit (log 9). Units are of one size, so one is found if there is one. -/
def Plan.placeOn (p : Plan) (n : Nat) (free : List Nat) : Option (List Nat) :=
  if p.byDie then takeDies p.unit p.perDie (n * p.cores / (p.unit * p.perDie)) free
  else (takeUnits p.unit (n * p.cores / p.unit) free).map (fun r => r.1)

/-- The package, the die and the cluster that an entry of a placement map lies in: a core of this package, or 512·(package + 1) + core (log 48). -/
def placePackage (e : Nat) : Nat := e / 512
def placeDie (e : Nat) : Nat := 4 * (e / 512) + dieOf (e % 512)
def placeCluster (e : Nat) : Nat := 128 * (e / 512) + clusterOf (e % 512)

/-- Whether the cores of each unit lie together (spec 16 R363). -/
def together (f : Nat → Nat) (n : Nat) (l : List Nat) : Bool :=
  (chunksOf n l.length l).all (fun u => match u with | [] => true | c :: cs => cs.all (fun d => f d = f c))

/-- Region blocks of a core, and those that hold no region. -/
def blocksOf (core : Nat) : List Nat := (List.range 16).map (fun i => 16 * core + i)
def State.freeBlocks (s : State) (core : Nat) : List Nat := (blocksOf core).filter (fun b => (s.region b).state = .free)

/-- Whether a region lies under one of these rectangles. -/
def Region.under (r : Region) (l : List CRegion) : Bool :=
  r.state ≠ .free && l.any (fun g => decide (r.rw0 < g.rw0 + g.rows) && decide (g.rw0 < r.rw0 + r.nrows) && decide (r.cl0 < g.cl0 + g.cols)
    && decide (g.cl0 < r.cl0 + r.ncols))

/-- The saved regions that must leave a core before regions at these rectangles come (spec 17 R409). -/
def State.claimed (s : State) (tcid core : Nat) (l : List CRegion) : List Nat :=
  (blocksOf core).filter (fun b => (s.region b).state = .saved && (Map.get 0 s.served core ≠ tcid || (s.region b).under l))

/-- Entries of a sparse map from lo to hi − 1. -/
def entriesIn {α : Type} (m : List (Nat × α)) (lo hi : Nat) : List (Nat × α) := m.filter (fun x => decide (lo ≤ x.1) && decide (x.1 < hi))

/-- The commands that a region's elements have at their engines, and the binding entries into it. -/
def State.cmdsOf (s : State) (blk : Nat) : List (Nat × Cmd) :=
  (List.range 4).flatMap (fun e => ((s.engine (blk / 16) e).running ++ (s.engine (blk / 16) e).queue).filterMap (fun c =>
    if (s.regionElems blk).any (fun k => c.src = .elem k) then some (e, c) else none))
def State.bindsInto (s : State) (blk : Nat) : List (Nat × BitVec 32) :=
  (entriesIn s.binding (128 * (blk / 16)) (128 * (blk / 16) + 128)).filterMap (fun x =>
    if bits x.2.toNat 31 1 = 1 && (s.region blk).covers (bits x.2.toNat 0 7) then some (x.1 - 128 * (blk / 16), x.2) else none)

/-- Whether the save pool of the process that a core serves has room for what a claim scans out of it (spec 17 R409, 02 R48, log 18). -/
def State.saveRoom (s : State) (core : Nat) (whole : Bool) (out : List Nat) : Bool :=
  let t := Map.get 0 s.served core
  let sizes := out.map (fun b => regionArea ((s.regionElems b).map elemIx) (s.cmdsOf b).length (s.bindsInto b).length
    ((s.rangesOf b).map (fun i => (s.range core i).count)))
  out.isEmpty || (s.newAreas t ((if whole then [coreAreaSize] else []) ++ sizes)).isSome

/-- Whether the local port of a core still holds packets of a region (spec 12 R288). -/
def State.portHolds (s : State) (blk : Nat) : Bool :=
  (Map.get [] s.lport (blk / 16)).any (fun x => (s.regionElems blk).any (fun k => x.src = k || (match x.dest with | .elem i => ekey (blk / 16) i = k | _ => false)))

/-- Whether chunks that engines of a core have begun are still under way (spec 17 R409). -/
def State.chunksBegun (s : State) (core : Nat) : Bool :=
  (List.range 4).any (fun e => (s.engine core e).running.any (fun c => c.landing.isSome))

/-- Whether a core can take a process's regions (spec 16 R363, 17 R409): it serves that process, or none whose regions are live; sites,
blocks and labels are free; what it must give up can be scanned out. -/
def State.available (s : State) (tcid core : Nat) (l : List CRegion) : Bool :=
  let out := s.claimed tcid core l
  let live := (blocksOf core).filter (fun b => (s.region b).state ≠ .free && !out.contains b)
  decide (core < 384) && s.powerOf core ≠ .waking && !out.any s.portHolds && !(s.chunksBegun core && !out.isEmpty)
    && s.saveRoom core (Map.get 0 s.served core ≠ tcid) out
    && (if Map.get 0 s.served core = tcid then live.all (fun b => !(s.region b).under l)
          && l.all (fun g => g.binds.all (fun x => (s.bindingOf core x.1).toNat < 2 ^ 31))
        else live.isEmpty)
    && decide (l.length + live.length ≤ 16)

/-- Whether a placement satisfies R363: this package's cores are available; other packages are of the domain, and theirs are not this
package's to see (log 48). -/
def State.placementOk (s : State) (tcid : Nat) (p : Plan) (c : Container) (l : List Nat) : Bool :=
  l.length = p.packages * p.cores && l.Nodup
    && (l.zipIdx).all (fun x =>
        if x.1 < 512 then s.available tcid x.1 (p.regionsOf c (x.2 % p.cores))
        else decide (x.1 % 512 < 384) && x.1 / 512 - 1 ≠ s.pkgNum && s.inDomain (x.1 / 512 - 1))
    && together placeCluster p.unit l && (!p.byDie || together placeDie (p.unit * p.perDie) l) && together placePackage p.cores l

/-- The placement that Foreveder chooses: its proposal if that fits, else first fit on cores that any logical core can take (log 9). -/
def State.choose (s : State) (tcid : Nat) (p : Plan) (c : Container) : Option (List Nat) :=
  if s.placementOk tcid p c s.proposal then some s.proposal
  else p.placeOn p.packages ((List.range 384).filter (fun k => (List.range p.cores).all (fun i => s.available tcid k (p.regionsOf c i))))

/-- The cells of memory from lo to hi − 1, and the poisoned sectors there. -/
def cellsIn (m : List Host.Cell) (lo hi : Nat) : List Host.Cell := m.filter (fun c => decide (lo ≤ c.1) && decide (c.1 < hi))
def State.poisonIn (s : State) (lo hi : Nat) : List Nat := s.poison.filter (fun n => decide (lo / 32 ≤ n) && decide (n < (hi + 31) / 32))
/-- The core save area of a core (spec 17 R412); keys relative to the core. -/
def State.coreAreaOf (s : State) (core : Nat) : CoreArea :=
  let b := winBase core
  { bytes := (cellsIn s.mem b (b + 0x200000)).map (fun c => (c.1 - b, c.2)), poison := (s.poisonIn b (b + 0x200000)).map (fun n => n - b / 32)
    sems := (entriesIn s.sems (256 * core) (256 * core + 256)).map (fun x => (x.1 - 256 * core, x.2))
    bars := (entriesIn s.bars (2048 * core) (2048 * core + 2048)).map (fun x => (x.1 - 2048 * core, x.2))
    binds := (entriesIn s.binding (128 * core) (128 * core + 128)).map (fun x => (x.1 - 128 * core, x.2)) }

/-- The memory that belongs to an element (spec 17 R410, R411): its context images, and its scratchpad if it has one. -/
def unitSpans (key : Nat) : List (Nat × Nat) :=
  (imageBase key 0, imageBase key 0 + 2048) ::
    (if siteType (elemIx key) = .se then [(spadBase (coreOf key) (elemIx key), spadBase (coreOf key) (elemIx key) + 32768)] else [])

/-- SCAN_OUT of a saved region (spec 17 R409 to R411): its save record, the area of its core with its place where that went too. -/
def State.saveOf (s : State) (blk : Nat) (area : Option (CoreArea × Nat)) : Save :=
  let core := blk / 16
  let ks := s.regionElems blk
  { region := s.region blk, block := blk, core := core, elems := ks.map (fun k => (elemIx k, s.elem k))
    images := ks.flatMap (fun k => (unitSpans k).flatMap (fun x => cellsIn s.mem x.1 x.2))
    poison := ks.flatMap (fun k => (unitSpans k).flatMap (fun x => s.poisonIn x.1 x.2))
    ranges := (s.rangesOf blk).map (fun i => (i, s.range core i))
    words := (s.rangesOf blk).flatMap (fun i => (List.range (s.range core i).count).map (fun j => ((s.range core i).first + j, s.amEntry core ((s.range core i).first + j))))
    binds := s.bindsInto blk, cmds := s.cmdsOf blk, coreArea := area.map (fun a => a.1), area := 0
    coreAt := match area with | some a => a.2 | none => 0
    onto := none }

/-- An element whose state has been scanned out: its storage keeps what it holds until another launch writes it (spec 17 R409, 04 R99, 11 R252). -/
def Elem.scanned (e : Elem) : Elem :=
  { Elem.reset with d := e.d, k := e.k, ks := e.ks, hregs := e.hregs, rng := e.rng, lut := e.lut, lutp := e.lutp, me := e.me, pin := e.pin, pend := e.pend
                    pqAt := e.pqAt, cons := e.cons }

/-- Scans a saved region out, writes its save area, and frees its block, its sites, its ranges, labels and commands (spec 17 R409, R410). -/
def scanOut (area : Option (CoreArea × Nat)) (blk : Nat) : Prog := fun s =>
  let core := blk / 16
  let ks := s.regionElems blk
  let keep (c : Cmd) : Bool := !ks.any (fun k => c.src = .elem k)
  let w := s.saveOf blk area
  let tcid := w.region.tcid
  let p := s.proc tcid
  let taken := s.takenAreas tcid ++ (match area with | some a => [(a.2, coreAreaSize)] | none => [])
  let v := { w with area := ((placeAreas p.saveBase (p.saveBase + p.saveSize) [w.size] taken).getD []).headD 0 }
  poolWrite tcid v.area (s.regionBytes v) s ++ [.saves (s.saves ++ [v]), .free (s.free + 131072)]
    ++ ks.map (fun k => .elem k (s.elem k).scanned)
    ++ v.ranges.map (fun x => s.releaseRange core x.1)
    ++ v.binds.map (fun x => .bind (128 * core + x.1) 0)
    ++ (List.range 4).map (fun e => .engine (4 * core + e) { s.engine core e with queue := (s.engine core e).queue.filter keep, running := (s.engine core e).running.filter keep })
    ++ [.region blk { s.region blk with state := .free, launch := 0 }]

/-- An element as Foreveder initialises it (spec 04 R99, 07 R144, 11 R252, 13 R292, R293, 09 R195). -/
def Elem.initialised (e : Elem) : Elem :=
  { e with d := e.d.map (fun x => (x.1, { x.2 with pay := 0, pois := 0 })) |>.filter (fun x => x.2 ≠ DEntry.reset)
           k := [], ks := e.ks.map (fun x => (x.1, { x.2 with val := 0, pois := 0 })) |>.filter (fun x => x.2 ≠ KStage.reset)
           pend := [], pq := [], pqAt := none, lut := [], lutp := [], me := MeState.reset, pin := none }

/-- Zeroes a core before its first launch or for another process (spec 04 R99, 05 R112, R114, 07 R144). -/
def zeroCore (core : Nat) : Prog := fun s =>
  [.clear (winBase core) (winBase core + 0x280000), .amClear (32768 * core) (32768 * core + 32768)]
    ++ (entriesIn s.sems (256 * core) (256 * core + 256)).map (fun x => .sem x.1 0)
    ++ (entriesIn s.bars (2048 * core) (2048 * core + 2048)).map (fun x => .bar x.1 0)
    ++ (entriesIn s.elems (128 * core) (128 * core + 128)).map (fun x => .elem x.1 x.2.initialised)

/-- Hands a core to a process (spec 16 R363, 17 R409, 04 R99); a gated core is woken first (01 R32). -/
def claimCore (tcid core : Nat) (l : List CRegion) : Prog := Prog.seq
  [fun s => if s.powerOf core = .on then [] else [.gate core .on, .consAt core s.cons],
   fun s =>
     let other : Bool := Map.get 0 s.served core ≠ tcid
     let out := s.claimed tcid core l
     let old := Map.get 0 s.served core
     let at_ := ((s.newAreas old [coreAreaSize]).getD []).headD 0
     Prog.seq
       [if other && !out.isEmpty then poolWrite old at_ (s.coreBytes core out.length) else Prog.skip,
        Prog.forEach out (scanOut (if other then some (s.coreAreaOf core, at_) else none)),
        if other then Prog.seq [zeroCore core,
          fun s => (entriesIn s.binding (128 * core) (128 * core + 128)).map (fun x => .bind x.1 0),
          fun _ => [.served core tcid]] else Prog.skip] s]

/-- Whether the free blocks of a core still hold a logical core's image: container address, image index, translation context, rectangles, and
every context loaded (spec 16 R373). -/
def State.holdsImage (s : State) (p : Plan) (tcid lcore : Nat) (l : List CRegion) (core : Nat) : Bool :=
  let bs := s.freeBlocks core
  decide (l.length ≤ bs.length) && (l.zip bs).all (fun x =>
    let r := s.region x.2
    r.cont = p.img && r.imx = p.imageOf lcore && r.tcid = tcid && r.rw0 = x.1.rw0 && r.cl0 = x.1.cl0 && r.nrows = x.1.rows && r.ncols = x.1.cols
      && x.1.elems.all (fun e => e.ctxs.all (fun c => (s.elem (ekey core e.elem)).loaded.getLsbD c.1)))

/-- Places the regions of a logical core in free blocks of its core, in container order (spec 16 R372, R375). -/
def allocate (id lcore : Nat) (p : Plan) (tcid : Nat) (l : List CRegion) (core : Nat) : Prog := fun s =>
  let bs := s.freeBlocks core
  let mine := (l.zip bs).map (fun x =>
    Effect.region x.2 { Region.reset with
      rid := BitVec.ofNat 16 x.2, tcid := tcid, state := .loading, rw0 := x.1.rw0, cl0 := x.1.cl0, nrows := x.1.rows, ncols := x.1.cols
      hnd := p.hnd, cpl := p.cpl, entry := x.1.entry, rix := 0, cont := p.img, imx := p.imageOf lcore, launch := id })
  mine ++ [s.setLaunch id (fun x => { x with regions := x.regions ++ bs.take l.length, labels := x.labels ++ l.flatMap (fun g => g.binds.map (fun b => 128 * core + b.1)) })]

/-- Step 3 on a core (spec 16 R372): the configuration load, unless the core skips it (R373), and the bindings. -/
def loadCore (core : Nat) (l : List CRegion) (skip : Bool) : Attempt := fun s =>
  let img := l.flatMap (fun g => g.elems)
  let binds : List Effect := l.flatMap (fun g => g.binds.map (fun b => .bind (128 * core + b.1) (BitVec.ofNat 32 b.2)))
  if skip then .ok binds
  else match s.imageFail core img with
    | some f => .error f.cause
    | none => .ok (loadImage core img s ++ binds)

/-- The regions of a logical core placed on its core, and step 3 there (spec 16 R372, R373). -/
def placeImage (id lcore : Nat) (p : Plan) (tcid : Nat) (l : List CRegion) (core : Nat) : Attempt := fun s =>
  Attempt.seq [Attempt.of (allocate id lcore p tcid l core), loadCore core l (s.holdsImage p tcid lcore l core)] s

/-- The parameter block of a logical core of a logical package (spec 16 R374). -/
def Plan.block (p : Plan) (lpkg lcore : Nat) : List Byte :=
  leBytes 16 (packFields ([(9, lcore), (6, lpkg), (9, p.cores - 1), (6, p.packages - 1), (34, 0)]
    ++ (List.range 8).map (fun i => (3, match p.levels[i]? with | some x => x.scope | none => 0)) ++ [(24, 0), (16, p.hnd.toNat)]))
  ++ p.params.flatMap (fun w => leBytes 8 w.toNat)

/-- A write on behalf of a process that must pass its checks. -/
def writeFor (tcid va : Nat) (data : List Byte) : Attempt := fun s =>
  if data = [] then .ok []
  else
    match s.checkAccess (s.behalf tcid) .write (va : Int) data.length with
    | .error f => .error (behalfCause f)
    | .ok ps =>
      match s.gateOf ps with
      | some c => .error (wakeCause c)
      | none => (match s.writeChecked (s.behalf tcid) (va : Int) data with | .error f => .error (behalfCause f) | .ok l => .ok l)

/-- The elements of this package that a delta record names: those of its logical core in every logical package, or of every one (spec 16 R382). -/
def DeltaRec.keys (d : DeltaRec) (l : Launch) : List Nat :=
  (l.place.zipIdx).filterMap (fun x => if x.1 < 512 ∧ (d.lcore = 511 ∨ x.2 % l.ncores = d.lcore) then some (ekey x.1 d.elem) else none)

/-- A slot, header or routing item written into a context (spec 16 R382); the header keeps the region's RID (07 R148, log 30). -/
def DeltaRec.write (d : DeltaRec) (key : Nat) (s : State) : List Effect :=
  let base := imageBase key d.ctx
  if d.item < 16 then [.bytes (base + 16 + 12 * d.item) (d.data.take 12)]
  else if d.item = 16 then [.bytes base (withRid (s.ridOf key) (d.data.take 8))]
  else if d.item = 17 then [.bytes (base + 8) (d.data.take 8)]
  else []
/-- A constant item: its register, if the record is one. -/
def DeltaRec.const? (d : DeltaRec) : Option Nat := if 18 ≤ d.item then some (d.item - 18) else none

/-- Whether every record names elements of the launch's own regions. -/
def State.deltaInside (s : State) (l : Launch) (ds : List DeltaRec) : Bool :=
  ds.all (fun d => (d.keys l).all (fun k => match s.regionOf k with | some b => l.regions.contains b | none => false))

/-- Writes the contexts of a delta's records in order. -/
def deltaContexts (l : Launch) (ds : List DeltaRec) : Prog :=
  Prog.forEach ds (fun d => Prog.forEach (d.keys l) (fun k => d.write k))

/-- The contexts that a delta changes, sorted. -/
def deltaChanged (l : Launch) (ds : List DeltaRec) : List (Nat × Nat) :=
  ((ds.filter (fun d => d.const?.isNone)).flatMap (fun d => (d.keys l).map (fun k => (k, d.ctx)))).dedup

/-- The offset of the last record that changes the context of a failed check: the failing record (spec 16 R383, R382). -/
def failingRecord (l : Launch) (ds : List DeltaRec) (f : LoadFail) : Nat :=
  match (ds.filter (fun d => d.const?.isNone && d.ctx = f.ctx && (d.keys l).any (fun k => elemIx k = f.elem))).getLast? with
  | some d => d.off
  | none => 0

/-- The first failure among the changed contexts, as they stand in this state (spec 16 R383, 08 R168, R170). -/
def State.deltaFail (s : State) (cs : List (Nat × Nat)) : Option LoadFail :=
  let l := ctxSort (cs.map (fun c => ctxOfBytes c.1 c.2 (s.memBytes (imageBase c.1 c.2) 208)))
  l.findSome? (fun c => s.contextFail l (fun _ => none) c)

/-- Step 5 (spec 16 R372, R383): the delta on the loaded images, without holds; its constants take their committed value (log 24). -/
def applyAtLaunch (l : Launch) (dlt : Nat) : Attempt := fun s =>
  match s.readDelta (s.foreWho l.tcid) dlt l.ncores with
  | .error c => .error c
  | .ok (ds, e) =>
    if !s.deltaInside l ds then .error 0x08
    else
      let w := deltaContexts l ds s
      match (s.apply w).deltaFail (deltaChanged l ds) with
      | some f => .error f.cause
      | none =>
        .ok (e ++ w ++ Prog.forEach ds (fun d => Prog.forEach (d.keys l) (fun k s =>
          match d.const? with
          | some r => [.elem k (((s.elem k).setK r { val := BitVec.ofNat 256 (leNat d.data), pois := 0 }).setKs r KStage.reset)]
          | none => [])) (s.apply w))

/-- Steps 2 to 5 of a LAUNCH for a launch already entered in the list, at a placement (spec 16 R372). -/
def loadSteps (id : Nat) (p : Plan) (c : Container) (tcid : Nat) (place : List Nat) : Attempt :=
  let cores := (place.zipIdx).filter (fun x => decide (x.1 < 512))
  let at_ (x : Nat × Nat) : List CRegion := p.regionsOf c (x.2 % p.cores)
  Attempt.seq
    [Attempt.forEach cores (fun x => Attempt.of (claimCore tcid x.1 (at_ x))),
     Attempt.forEach cores (fun x => placeImage id (x.2 % p.cores) p tcid (at_ x) x.1),
     Attempt.forEach c.data (fun d => writeFor tcid d.1 d.2),
     Attempt.forEach cores (fun x => fun s =>
       let b := p.block (x.2 / p.cores) (x.2 % p.cores)
       .ok (s.store 0 (winBase x.1 + 64 * p.poff) b (List.replicate b.length false))),
     fun s => if p.dlt = 0 then .ok [] else match s.launch? id with | some l => applyAtLaunch l p.dlt s | none => .ok []]

/-- A launch is refused (spec 16 R365): its record gets STATUS 2 and the cause, its packet completes, its thread goes on. -/
def refuseLaunch (t idx tcid cpl hnd cause id : Nat) : Prog := Prog.seq
  [writeCompletion tcid cpl (completionBits 0 0 0 0 hnd cause 2),
   fun s => [.launches (s.launches.filter (fun l => l.id ≠ id))],
   fun s => if (s.thread t).block = .launch id then [.thread t { s.thread t with block := .none }] else [],
   completePacket t idx]

/-- Step 6 (spec 16 R372, R376): each region starts at its ENTRY; one without a sink is refused with cause 0x0A. -/
def startRegion (blk : Nat) : Prog := fun s =>
  let r := s.region blk
  if s.sinks blk r.entry = 0 then
    Prog.seq [fun s => [.region blk { s.region blk with state := .idle, start := s.cycle, ctx := r.entry }], completionMerge blk 2 0x0A] s
  else startInvocation blk r.entry s

/-- The steps of a LAUNCH from its placement on (spec 16 R372); a failure undoes all but the record. A gated core that the launch must write to
first wakes (01 R32). -/
def launchAt (l : Launch) (p : Plan) (c : Container) (place : List Nat) : Prog := fun s =>
  let n := p.packages * ((List.range p.cores).map (fun i => (p.regionsOf c i).length)).foldl (fun a b => a + b) 0
  let entered : Launch := { l with place := place, rem := n, waiting := false }
  let enter : Prog := Prog.seq
    [fun s => [.launches ((s.launches.filter (fun x => x.id ≠ l.id)) ++ [entered])],
     fun s => if (s.thread l.thread).block = .launch l.id then [.thread l.thread { s.thread l.thread with block := .none }] else [],
     writeCompletion l.tcid p.cpl (completionBits 0 0 0 n 0 0 0)]
  match Attempt.seq [Attempt.of enter, loadSteps l.id p c l.tcid place] s with
  | .error cause =>
    (match causeCore cause with
     | some g => [.gate g .waking]
     | none => refuseLaunch l.thread l.packet l.tcid p.cpl p.hnd.toNat cause l.id s)
  | .ok e =>
    Prog.seq
      [fun _ => e,
       fun s => [.proc l.tcid { s.proc l.tcid with digests := (s.proc l.tcid).digests ++ [digest384 (c.recs.flatMap (fun r => r.bytes))] }],
       fun s => Prog.forEach (match s.launch? l.id with | some x => x.regions | none => []) startRegion s,
       if n = 0 then regionEnded l.id else Prog.skip] s

/-- Step 1 (spec 16 R372): the plan of a record whose header is h, and its container; or the cause that refuses it. -/
def State.readPlan (s : State) (tcid va h : Nat) : Except Nat (Plan × Container × List Effect) :=
  if recordLen h < 4 then .error 0x07
  else
    match s.readChecked (s.foreWho tcid) ((va + 32 : Nat) : Int) (8 * (recordLen h - 4)) with
    | .error f => .error f.cause
    | .ok (b, l) =>
      match planOf va h ((chunksOf 8 b.length b).map (fun w => leNat (w.map (fun x => x.1)))) with
      | none => .error 0x07
      | some p =>
        match s.readContainer (s.foreWho tcid) p.img with
        | .error c => .error c
        | .ok (c, m) => if p.imagesIn c then .ok (p, c, l ++ m) else .error 0x07

/-- Whether the empty packages of the domain could hold a plan at all (spec 16 R365): how many logical packages fit in each, and in all. -/
def State.couldPlace (s : State) (p : Plan) : Bool :=
  let fit := ((List.range 65).filter (fun k => (p.placeOn k (List.range 384)).isSome)).foldl Nat.max 0
  decide (p.packages ≤ fit * (1 + (s.routes.filter (fun r => r.1 ≠ s.pkgNum && r.2.getLsbD 6)).length))

/-- The launch that a packet of a thread asks for, not yet placed. -/
def Plan.launch (p : Plan) (id tcid t idx : Nat) : Launch :=
  { id := id, hnd := p.hnd, tcid := tcid, thread := t, packet := idx, cpl := p.cpl, img := p.img, dlt := p.dlt, poff := p.poff, params := p.params
    levels := p.levels.map (fun x => BitVec.ofNat 64 (x.kind + 2 ^ 8 * x.scope + 2 ^ 16 * (x.ext - 1))), roles := p.roles, res := p.res
    place := [], ncores := p.cores, regions := [], rem := 0, labels := [], waiting := true, delta := none, deltaThread := 0, deltaPacket := 0 }

/-- The plan of a launch that waits. -/
def Launch.plan (l : Launch) : Plan :=
  { cpl := l.cpl, img := l.img, dlt := l.dlt, hnd := l.hnd, poff := l.poff, res := l.res, levels := l.levels.map (fun w => (levelOf w.toNat).1)
    roles := l.roles, params := l.params }

/-- The check of CPL before any other (spec 16 R365): translation, permission, 32 B alignment, R27. -/
def State.cplFail (s : State) (tcid cpl : Nat) : Option Nat :=
  match s.translate 0x1FF tcid (cpl : Int) .write with
  | .error f => some f.cause
  | .ok x =>
    if cpl % 32 ≠ 0 then some 0x11
    else match s.checkAt (s.behalf tcid) .write x cpl 32 with
      | .error f => some (behalfCause f)
      | .ok _ => none

/-- The gated core whose wake a LAUNCH packet waits for: its record or container lies there (spec 01 R32). -/
def State.launchGate (s : State) (tcid va : Nat) : Option Nat :=
  match s.readChecked (s.foreWho tcid) (va : Int) 32 with
  | .error f => causeCore f.cause
  | .ok (b, _) => (match s.readPlan tcid va (leNat (b.map (fun x => x.1))) with | .error c => causeCore c | .ok _ => none)

/-- What a started LAUNCH packet does (spec 16 R365, R372). -/
def launchPacket (t idx : Nat) (p : QPacket) : Prog := fun s =>
  let tcid := (s.thread t).tcid
  let va := bits p.first.w1.toNat 0 48
  let reject (cause : Nat) : Prog := Prog.seq [faultEntry tcid cause 0 (s.thread t).queue idx [] none, completePacket t idx]
  match s.readChecked (s.foreWho tcid) (va : Int) 32 with
  | .error f => reject f.cause s
  | .ok (b, l) =>
    let h := leNat (b.map (fun x => x.1))
    match s.cplFail tcid (recordCpl h) with
    | some c => reject c s
    | none =>
      let refuse (c : Nat) : Prog := refuseLaunch t idx tcid (recordCpl h) (bits h 80 16) c s.nextId
      match s.readPlan tcid va h with
      | .error c => refuse c s
      | .ok (plan, cont, m) =>
        if !s.couldPlace plan then refuse 0x07 s
        else
          let x := plan.launch s.nextId tcid t idx
          Prog.seq
            [fun s => l ++ m ++ [.nextId (s.nextId + 1), .launches (s.launches ++ [x]), .thread t { s.thread t with block := .launch x.id }],
             fun s => match s.choose tcid plan cont with
               | some place => launchAt x plan cont place s
               | none => []] s

/-- LAUNCH_PLACEMENT (spec 16 R365, R369): a launch that waits is placed there if that satisfies R363; its container is read again. -/
def execLaunchPlacement (id : Nat) (place : List Nat) (s : State) : Host.Outcome State Fault Refusal :=
  complete (fun s =>
    match s.launch? id with
    | none => []
    | some l =>
      if !l.waiting then []
      else
        match s.readContainer (s.foreWho l.tcid) l.img with
        | .error c => (match causeCore c with | some g => [.gate g .waking] | none => refuseLaunch l.thread l.packet l.tcid l.cpl l.hnd.toNat c id s)
        | .ok (c, m) =>
          if !l.plan.imagesIn c then refuseLaunch l.thread l.packet l.tcid l.cpl l.hnd.toNat 0x07 id s
          else if s.placementOk l.tcid l.plan c place then m ++ launchAt l l.plan c place (s.apply m)
          else []) s

end Sys2Proof.Machine
end

