-- ==== Sys2Proof/Machine/Queues.lean ====
section
/-! DEFINITION. Queue threads and their packets (spec 16 R367 to R371, R380, R382 to R384), and the run list. -/

namespace Sys2Proof.Machine

/-- Slots of a packet (spec 16 R368). -/
def packetSlots (p : QPacket) : Nat := wfield p.first.w0 16 3 + 1

/-- Whether a thread may start a packet now (spec 16 R369, R371). -/
def State.mayStart (s : State) (t : Nat) (p : QPacket) : Bool :=
  let x := s.thread t
  x.bound && x.mapped && !x.stopped && x.block = .none && (wfield p.first.w0 8 1 = 0 || x.opened.isEmpty)

/-- QUEUE_PACKET_MALFORMED (spec 16 R368, R370): the thread stops the queue and reports the packet at its place. -/
def stopQueue (t idx cause : Nat) : Prog := fun s =>
  let x := s.thread t
  Prog.seq
    [fun s => [.thread t { s.thread t with stopped := true, block := .none }],
     faultEntry x.tcid cause 0 x.queue idx [] none] s

/-- A packet starts: the read index goes past it (spec 16 R369). -/
def startPacket (t n : Nat) : Prog := fun s =>
  let x := s.thread t
  Prog.seq
    [fun s => [.thread t { s.thread t with started := x.started + n, opened := x.opened ++ [x.started] }],
     foreWrite x.tcid (x.ringVa + 8) (leBytes 8 (x.started + n))] s

/-- A turn of the thread in focus on a packet of a type: it starts and does its work, or is malformed, or must wait. -/
def packetTurn (type : Nat) (p : QPacket) (body : Nat → Nat → Prog) : Prog := fun s =>
  match s.focus with
  | .thread t =>
    let idx := (s.thread t).started
    if !s.mayStart t p then []
    else if queuePacketOk type p then Prog.seq [startPacket t (packetSlots p), body t idx] s
    else stopQueue t idx 0x0B s
  | _ => []

/-- A turn of a packet that waits for the wake of a core before it starts (spec 01 R32). -/
def gatedTurn (p : QPacket) (gate : Nat → Option Nat) (turn : Prog) : Prog := fun s =>
  match s.focus with
  | .thread t =>
    (match gate t with
     | some c => if s.mayStart t p then [.gate c .waking] else []
     | none => turn s)
  | _ => []

/-- NOPQ (spec 16 R368). -/
def execNopq (p : QPacket) (s : State) : Host.Outcome State Fault Refusal := complete (packetTurn 0 p completePacket) s

/-- LAUNCH (spec 16 R372). -/
def execLaunch (p : QPacket) (s : State) : Host.Outcome State Fault Refusal :=
  complete (fun s => gatedTurn p (fun t => s.launchGate (s.thread t).tcid (bits p.first.w1.toNat 0 48)) (packetTurn 1 p (fun t idx => launchPacket t idx p)) s) s

/-- COPYH (spec 16 R368, 05 R103): the command is offered to the copy engine of its core; a gated core is woken. -/
def execCopyh (p : QPacket) (s : State) : Host.Outcome State Fault Refusal :=
  complete (packetTurn 3 p (fun t idx s =>
    let core := bits p.first.w1.toNat 0 9
    let g := s.engine core 0
    (if s.powerOf core = .on then [] else [.gate core .waking])
      ++ [.engine (4 * core) { g with offers := g.offers ++ [{ c := p.second, src := .thread t idx, tcid := (s.thread t).tcid, slot := idx }] }])) s

/-- The checks of an access on behalf of a process, naturally aligned (spec 16 R370, 02 R46 to R53). -/
def State.checkBehalf (s : State) (tcid : Nat) (k : Kind) (va n : Nat) : Except Nat (List Piece) :=
  match s.translate 0x1FF tcid (va : Int) k with
  | .error f => .error f.cause
  | .ok x =>
    if va % n ≠ 0 then .error 0x11
    else match s.checkAt (s.behalf tcid) k x va n with
      | .error f => .error (behalfCause f)
      | .ok l => .ok l

/-- Whether a WAITQ's condition holds (spec 16 R368): 0 at least, 1 less, 2 equal, 3 not equal. -/
def waitHolds (cond x v : Nat) : Bool :=
  match cond with
  | 0 => decide (v ≤ x)
  | 1 => decide (x < v)
  | 2 => x = v
  | _ => x ≠ v

/-- The WAITQ of a thread is over. -/
def endWait (t : Nat) : Prog := Prog.seq
  [fun s => [.thread t { s.thread t with block := .none }], fun s => completePacket t ((s.thread t).started - 1) s]

/-- One evaluation of the WAITQ that blocks a thread (spec 16 R370): an acquire read; a semaphore's ERR ends it as an error. -/
def evaluateWait (t : Nat) : Prog := fun s =>
  let x := s.thread t
  match x.block with
  | .waitq va value cond sem =>
    (match s.checkBehalf x.tcid .read va 8 with
     | .error c => stopQueue t (x.started - 1) c s
     | .ok ps =>
       match s.gateOf ps with
       | some c => [.gate c .waking]
       | none =>
         let w := leNat ((s.fetchFrom [] s.free ps).map (fun b => b.1))
         let touched := s.fetchEffects (s.behalf x.tcid).role x.tcid ps
         if sem ∧ bits w 31 1 = 1 then
           Prog.seq [fun _ => touched, faultEntry x.tcid (bits w 24 7) 0 x.queue (x.started - 1) [] none, endWait t] s
         else if waitHolds cond (if sem then bits w 0 24 else w) value.toNat then Prog.seq [fun _ => touched, endWait t] s
         else touched)
  | _ => []

/-- WAITQ (spec 16 R369, R370): the thread is blocked until the condition holds. -/
def execWaitq (p : QPacket) (s : State) : Host.Outcome State Fault Refusal :=
  complete (packetTurn 4 p (fun t _ => Prog.seq
    [fun s => [.thread t { s.thread t with
       block := .waitq (bits p.first.w1.toNat 0 48) p.first.w2 (bits p.first.w3.toNat 0 2) (p.first.w3.getLsbD 8) }],
     evaluateWait t])) s

/-- WAITQ_EVALUATE (spec 16 R370, R371): the waiting packet of a mapped thread is evaluated again. -/
def execWaitqEvaluate (t : Nat) (s : State) : Host.Outcome State Fault Refusal :=
  complete (Prog.when (fun s => (s.thread t).bound && (s.thread t).mapped && !(s.thread t).stopped) (evaluateWait t)) s

/-- What a SIGQ does at its address (spec 16 R370, 05 R112): a semaphore add, or a store of 8 B. It completes when its access is performed: what
goes to another package, when that answers (18 R429). -/
def signalPacket (t idx : Nat) (p : QPacket) (ps : List Piece) : Prog := fun s =>
  let tcid := (s.thread t).tcid
  let v := p.first.w2.toNat
  let act : Prog := fun s =>
    if p.first.w3.getLsbD 0 then s.writePieces (s.behalf tcid).role tcid (cutPieces (clean (leBytes 8 v)) ps)
    else ps.flatMap (fun q =>
      if q.x.pkg = s.pkgNum then
        let n := semAt q.x.pa
        [.sem (256 * n.1 + n.2) (semSignal (s.sem n.1 n.2) (signExt 32 v) none)]
      else [.nextId (s.nextId + 1), .send (.peer (s.peerReq (s.behalf tcid).role q.x.pkg q.x.pa tcid s.nextId 4 .atomic 0 (clean (leBytes 4 v))))])
  match s.cutPiece ps with
  | some f => stopQueue t idx f.cause s
  | none =>
    Prog.seq
      [act,
       fun u =>
         if u.nextId = s.nextId then completePacket t idx u
         else [.thread t { u.thread t with owes := (u.thread t).owes ++ (List.range (u.nextId - s.nextId)).map (fun i => (s.nextId + i, idx)) }]] s

/-- The checks of a SIGQ: the add reaches semaphores only (spec 16 R370). -/
def State.checkSigq (s : State) (tcid : Nat) (p : QPacket) : Except Nat (List Piece) :=
  let va := bits p.first.w1.toNat 0 48
  if p.first.w3.getLsbD 0 then s.checkBehalf tcid .write va 8
  else
    match s.checkBehalf tcid .atomic va 4 with
    | .error c => .error c
    | .ok ps => if ps.any (fun q => q.x.pkg = s.pkgNum && (placeOf q.x.pa).block ≠ .sem) then .error 0x12 else .ok ps

/-- SIGQ (spec 16 R370): a release; it starts once the core that it reaches is awake. -/
def execSigq (p : QPacket) (s : State) : Host.Outcome State Fault Refusal :=
  complete (fun s =>
    match s.focus with
    | .thread t =>
      (match s.checkSigq (s.thread t).tcid p with
       | .error c => packetTurn 5 p (fun t idx => stopQueue t idx c) s
       | .ok ps =>
         match s.gateOf ps with
         | some c => if s.mayStart t p then [.gate c .waking] else []
         | none => packetTurn 5 p (fun t idx => signalPacket t idx p ps) s)
    | _ => []) s

/-- Whether a resident launch may be released (spec 16 R380): its regions idle, no child waiting. -/
def State.releasable (s : State) (l : Launch) : Bool :=
  !l.waiting && l.regions.all (fun b => (s.region b).launch ≠ l.id || ((s.region b).state = .idle && (s.region b).children.isEmpty))

/-- The launch that a process calls by a handle. -/
def State.launchNamed (s : State) (tcid : Nat) (hnd : BitVec 16) : Option Launch := s.launches.find? (fun l => l.tcid = tcid && l.hnd = hnd)

/-- One evaluation of the FENCEQ that blocks a thread (spec 16 R368, R380). -/
def evaluateFence (t : Nat) : Prog := fun s =>
  let x := s.thread t
  match x.block with
  | .fenceq p =>
    let hnd := BitVec.ofNat 16 p.first.w1.toNat
    let rel := p.first.w1.getLsbD 16
    if x.opened.any (fun i => i ≠ x.started - 1) then []
    else if !rel then endWait t s
    else
      match s.launches.find? (fun l => l.tcid = x.tcid && l.hnd = hnd && l.res) with
      | none => endWait t s
      | some l => if s.releasable l then Prog.seq [releaseLaunch l.id, endWait t] s else []
  | _ => []

/-- FENCEQ (spec 16 R368, R369, R380): the thread is blocked; while it is, each turn evaluates the packet again. -/
def execFenceq (p : QPacket) (s : State) : Host.Outcome State Fault Refusal :=
  complete (fun s =>
    match s.focus with
    | .thread t =>
      (match (s.thread t).block with
       | .fenceq _ => Prog.when (fun s => (s.thread t).mapped && !(s.thread t).stopped) (evaluateFence t) s
       | _ => packetTurn 6 p (fun t _ => Prog.seq [fun s => [.thread t { s.thread t with block := .fenceq p }], evaluateFence t]) s)
    | _ => []) s

/-- A delta that is refused (spec 16 R383, R384): reported with the packet, which completes; what R383 and R390 record beside the cause, the failing
record or the handle, goes to the operator (log 49). -/
def refuseDelta (t idx cause value : Nat) : Prog := fun s =>
  Prog.seq [faultEntry (s.thread t).tcid cause 0 (s.thread t).queue idx [] none, fun _ => [.reply (.report 0 cause (BitVec.ofNat 128 value))],
    completePacket t idx] s

/-- Whether a region of a launch is pre-empting or saved (spec 16 R384). -/
def State.launchStopped (s : State) (l : Launch) : Bool :=
  l.regions.any (fun b => (s.region b).launch = l.id && ((s.region b).state = .preempting || (s.region b).state = .saved))

/-- The elements whose current context a slot, header or routing record names (spec 16 R383). -/
def State.deltaHolds (s : State) (l : Launch) (ds : List DeltaRec) : List Nat :=
  ((ds.filter (fun d => d.const?.isNone)).flatMap (fun d => (d.keys l).filter (fun k => (s.elem k).active && (s.elem k).ctx.toNat = d.ctx))).dedup

/-- Step 1 of a delta (spec 16 R383): holds to the elements concerned; cancellable firings are cancelled. -/
def deltaPacket (t idx : Nat) (p : QPacket) : Prog := fun s =>
  let tcid := (s.thread t).tcid
  let hnd := bits p.first.w1.toNat 0 16
  match s.launchNamed tcid (BitVec.ofNat 16 hnd) with
  | none => refuseDelta t idx 0x09 hnd s
  | some l =>
    if l.waiting || s.launchStopped l then refuseDelta t idx 0x09 hnd s
    else
      match s.readDelta (s.foreWho tcid) (bits p.first.w2.toNat 0 48) l.ncores with
      | .error c => refuseDelta t idx c 0 s
      | .ok (ds, e) =>
        if !s.deltaInside l ds then refuseDelta t idx 0x08 0 s
        else
          e ++ (s.deltaHolds l ds).flatMap (fun k => s.dropOffers k ++ [.elem k { s.cancelled k (s.elem k) with held := true }])
            ++ [s.setLaunch l.id (fun l => { l with delta := some ds, deltaThread := t, deltaPacket := idx })]

/-- The gated core whose wake a DELTA packet waits for: its container lies there (spec 01 R32). -/
def State.deltaGate (s : State) (tcid : Nat) (p : QPacket) : Option Nat :=
  match s.launchNamed tcid (BitVec.ofNat 16 p.first.w1.toNat) with
  | none => none
  | some l => (match s.readDelta (s.foreWho tcid) (bits p.first.w2.toNat 0 48) l.ncores with | .error c => causeCore c | .ok _ => none)

/-- Whether a delta of the launch that a packet names is in progress. -/
def State.inDelta (s : State) (tcid : Nat) (p : QPacket) : Bool :=
  match s.launchNamed tcid (BitVec.ofNat 16 p.first.w1.toNat) with | some l => l.delta.isSome | none => false

/-- DELTA, the queue packet (spec 16 R383, R384); a second one waits while one of the same launch is in progress. -/
def execQueueDelta (p : QPacket) (s : State) : Host.Outcome State Fault Refusal :=
  complete (fun s => gatedTurn p (fun t => s.deltaGate (s.thread t).tcid p)
    (fun s => match s.focus with
      | .thread t => if s.inDelta (s.thread t).tcid p then [] else packetTurn 2 p (fun t idx => deltaPacket t idx p) s
      | _ => []) s) s

/-- The elements of a launch that are held. -/
def State.heldBy (s : State) (l : Launch) : List Nat :=
  (l.regions.filter (fun b => (s.region b).launch = l.id)).flatMap (fun b => (s.regionElems b).filter (fun k => (s.elem k).held))

/-- Releases the holds of a launch (spec 16 R383 step 4): loss counters 0. -/
def releaseHolds (l : Launch) (clear : Bool) : Prog := fun s =>
  (s.heldBy l).map (fun k => .elem k { s.elem k with held := false, loss := if clear then [] else (s.elem k).loss })

/-- Stages the constants of a delta, and injects a commit wave into the regions concerned (spec 16 R383 step 3). -/
def deltaConstants (l : Launch) (ds : List DeltaRec) : Prog := Prog.seq
  [Prog.forEach ds (fun d => Prog.forEach (d.keys l) (fun k s =>
     match d.const? with
     | some r => [.elem k ((s.elem k).setKs r { val := BitVec.ofNat 256 (leNat d.data), pois := 0, flag := true })]
     | none => [])),
   fun s =>
     let ks := (ds.filter (fun d => d.const?.isSome)).flatMap (fun d => d.keys l)
     Prog.forEach ((l.regions.filter (fun b => ks.any (fun k => s.regionOf k = some b))).dedup) (fun b => injectWave b (wavePacket 2 0)) s]

/-- DELTA_APPLY (spec 16 R383, R384, 17 R408): once every held element has stopped and no region is completing, the changed contexts are
checked; all is written or nothing. -/
def execDeltaApply (id : Nat) (s : State) : Host.Outcome State Fault Refusal :=
  complete (fun s =>
    match s.launch? id with
    | none => []
    | some l =>
      match l.delta with
      | none => []
      | some ds =>
        let ended : Effect := s.setLaunch id (fun l => { l with delta := none })
        if s.launchStopped l then Prog.seq [fun _ => [ended], releaseHolds l false, refuseDelta l.deltaThread l.deltaPacket 0x09 l.hnd.toNat] s
        else if (s.heldBy l).any (fun k => (s.elem k).busy.isSome) || l.regions.any (fun b => (s.region b).state = .completing) then []
        else
          let w := deltaContexts l ds s
          match (s.apply w).deltaFail (deltaChanged l ds) with
          | some f => Prog.seq [fun _ => [ended], releaseHolds l false, refuseDelta l.deltaThread l.deltaPacket f.cause (failingRecord l ds f)] s
          | none =>
            Prog.seq [fun _ => ended :: w, deltaConstants l ds, releaseHolds l true, completePacket l.deltaThread l.deltaPacket] s) s

/-- QUEUE_DOORBELL (spec 16 R367): a write to WIX wakes the thread of a mapped queue. -/
def execQueueDoorbell (t : Nat) (s : State) : Host.Outcome State Fault Refusal :=
  complete (fun s => if (s.thread t).bound && (s.thread t).mapped then [.thread t { s.thread t with awake := true }] else []) s

/-- The process after this one in the run list: by rising TCID, round again from the lowest (spec 16 R371). -/
def State.nextProc (s : State) (tcid : Nat) : Option Nat :=
  let l := (s.procs.filter (fun x => x.2.live)).map (fun x => x.1)
  match l.find? (fun t => decide (tcid < t)) with
  | some t => some t
  | none => l.head?

end Sys2Proof.Machine
end

