-- ==== Sys2Proof/Machine/Sync.lean ====
section
/-! DEFINITION. Semaphores, named barriers and engine commands as stream elements use them (spec 09 R208 to R213). -/

namespace Sys2Proof.Machine

/-- The semaphore and the barrier that a slot names, and their addresses in the core's window (spec 05 R111, R114). -/
def Fire.semNo (fr : Fire) : Nat := fr.imm 5 8
def Fire.barNo (fr : Fire) : Nat := fr.imm 2 11
def semAddr (core n : Nat) : Nat := winBase core + 0x310000 + 8 * n
def barAddr (core n : Nat) : Nat := winBase core + 0x311000 + 16 * n

/-- An operation of an element on an object of its own core, as an access of the object's size. -/
def State.ownPiece (s : State) (pa size : Nat) : Piece := ⟨⟨s.pkgNum, 0, true, pa⟩, 0, size⟩

/-- A firing that issues one operation on an object of its core (spec 15 R350). -/
def Fire.acts (fr : Fire) (s : State) (pa size : Nat) (op : MemOp) : Done := fr.stores s fr.release [(op, s.ownPiece pa size)] fr.e

/-- Whether the semaphore satisfies the wait (spec 09 R208). -/
def State.swaitReady (s : State) (fr : Fire) : Bool :=
  let w := s.sem fr.core fr.semNo
  s.mayObserve fr.key (semAddr fr.core fr.semNo) 8
    && (match s.opA fr with | some a => semErr w || semCond w (fr.md 2) (a.nat 0) | none => false)

/-- When the slot is ready to fire, beyond the guard (spec 07 R154). -/
def Fire.readySwait (fr : Fire) (s : State) : Bool :=
  s.swaitReady fr

/-- SWAIT (spec 09 R208). -/
def execSwait (f : Slot) (s : State) : Host.Outcome State Fault Refusal :=
  fireWhen f Fire.readySwait (fun fr s => s.withA fr (fun a =>
    let w := s.sem fr.core fr.semNo
    let p := a.bp 0
    .done { fr.result (dataPacket 2 fr.f.ot false [(w.toNat % 2 ^ 32, p), ((semRole w).toNat, p)])
            with stBit := some (fr.imm 2 3, semErr w || p) })) s

/-- SSIG (spec 09 R209): the increment is signed. -/
def execSsig (f : Slot) (s : State) : Host.Outcome State Fault Refusal :=
  fire f (fun fr s => s.withA fr (fun a =>
    .done (fr.acts s (semAddr fr.core fr.semNo) 8 (.signal (a.int 0) (a.bp 0))))) s

/-- SINIT (spec 09 R209). -/
def execSinit (f : Slot) (s : State) : Host.Outcome State Fault Refusal :=
  fire f (fun fr s => s.withA fr (fun a =>
    .done (fr.acts s (semAddr fr.core fr.semNo) 8 (.semInit (Nat.min (a.nat 0) 0xFFFFFF) (a.bp 0))))) s

/-- BINIT (spec 09 R210): the operand has at least two 32-bit lanes; an unpoisoned XARR is at most 4,095. -/
def execBinit (f : Slot) (s : State) : Host.Outcome State Fault Refusal :=
  fire f (fun fr s => s.withA fr (fun a =>
    if a.pkt.lw ≠ 2 then .err 0x22 (widthDetail 2 a.pkt.lw)
    else if a.pkt.lanes < 2 then lengthErr 2 a.pkt.lanes
    else if 4095 < (a.raw 0).1 && !(a.raw 0).2 then rangeErr 0 (a.raw 0).1
    else .done (fr.acts s (barAddr fr.core fr.barNo) 16 (.barInit ((a.raw 0).1 % 4096) (a.raw 1).1 ((a.raw 0).2 || (a.raw 1).2))))) s

/-- BARV (spec 09 R210): an unpoisoned count is from 1 to 4,095. -/
def execBarv (f : Slot) (s : State) : Host.Outcome State Fault Refusal :=
  fire f (fun fr s => s.withA fr (fun a =>
    let n := a.nat 0
    if (n = 0 || 4095 < n) && !a.bp 0 then rangeErr 0 n
    else .done (fr.acts s (barAddr fr.core fr.barNo) 16 (.barArrive (n % 4096) (a.bp 0))))) s

/-- Whether the barrier satisfies the wait (spec 09 R211). -/
def State.bwaitReady (s : State) (fr : Fire) : Bool :=
  let b := barOf (s.bar fr.core fr.barNo)
  s.mayObserve fr.key (barAddr fr.core fr.barNo) 16
    && (match s.opA fr with | some a => b.err || b.phase != maskBit (a.nat 0) 0 | none => false)

/-- When the slot is ready to fire, beyond the guard (spec 07 R154). -/
def Fire.readyBwait (fr : Fire) (s : State) : Bool :=
  s.bwaitReady fr

/-- BWAIT (spec 09 R211). -/
def execBwait (f : Slot) (s : State) : Host.Outcome State Fault Refusal :=
  fireWhen f Fire.readyBwait (fun fr s => s.withA fr (fun a =>
    let b := barOf (s.bar fr.core fr.barNo)
    let p := a.bp 0
    .done { fr.result (dataPacket 2 fr.f.ot false [(bit01 b.phase + 2 * bit01 b.err + 4 * b.cause, p), (b.role.toNat, p)])
            with stBit := some (fr.f.md.toNat / 4, b.err || p) })) s

/-- The command that two 256-bit packets make (spec 09 R212). -/
def commandFrom (a b : BitVec 256) : Command :=
  let w (x : BitVec 256) (i : Nat) : Word := x.extractLsb' (64 * i) 64
  { w0 := w a 0, w1 := w a 1, w2 := w a 2, w3 := w a 3, w4 := w b 0, w5 := w b 1, w6 := w b 2, w7 := w b 3 }

/-- The engine that OPC[7:4] selects; the copy engine takes every other value and rejects it (spec 05 R102). -/
def engineOf (c : Command) : Nat := let g := c.w0.toNat % 256 / 16; if g < 4 then g else 0

/-- The payload of an operand's packet with its lanes in place. -/
def Opnd.payload (o : Opnd) : BitVec 256 := o.pkt.pay

/-- Whether a packet's operand has any poisoned lane. -/
def Opnd.anyPois (o : Opnd) : Bool := o.raws.any (fun x => x.2)

/-- Whether an element has an offer at an engine. -/
def State.offered (s : State) (key eng : Nat) : Bool := (s.engine (coreOf key) eng).offers.any (fun o => o.src = .elem key)

/-- When the slot is ready to fire, beyond the guard (spec 07 R154). -/
def Fire.readyEcmd (fr : Fire) (_ : State) : Bool :=
  !fr.md 0 || decide (fr.e.tracked.length < 16)

/-- ECMD (spec 09 R212, R213): the command is offered to its engine, and the firing lasts until ENGINE_COMMAND_ACCEPT takes it. Under
conservative ordering no access of the command precedes an earlier load (15 R352), so the offer waits for them. -/
def execEcmd (f : Slot) (s : State) : Host.Outcome State Fault Refusal :=
  fireWhen f Fire.readyEcmd (fun fr s => s.withAB fr (fun a b =>
    if a.pkt.lanes * a.pkt.width ≠ 256 ∨ b.pkt.lanes * b.pkt.width ≠ 256 then .err 0x20 (b.pkt.lanes % 16 * 16 + a.pkt.lanes % 16)
    else if a.anyPois || b.anyPois then .err 0x32 0
    else
      let c := commandFrom a.payload b.payload
      let g := s.engine fr.core (engineOf c)
      if s.offered fr.key (engineOf c) || (s.consOf fr.key fr.e && s.pending.any (fun p => p.key = fr.key && p.op.isLoad)) then .wait fr.e []
      else .wait fr.e [.engine (4 * fr.core + engineOf c)
        { g with offers := g.offers ++ [{ c := c, src := .elem fr.key, tcid := s.tcidOf fr.key, slot := fr.n }] }])) s

/-- When the slot is ready to fire, beyond the guard (spec 07 R154). -/
def Fire.readyEresp (fr : Fire) (_ : State) : Bool :=
  match fr.e.tracked with | t :: _ => t.done.isSome | [] => false

/-- ERESP (spec 09 R213): the record of the oldest tracked command. -/
def execEresp (f : Slot) (s : State) : Host.Outcome State Fault Refusal :=
  fireWhen f Fire.readyEresp (fun fr _ =>
    match fr.e.tracked with
    | t :: rest =>
      match t.done with
      | some r =>
        .done { fr.result (dataPacket 3 fr.f.ot false [(r.toNat, false)])
                with e := { fr.e with tracked := rest }, stBit := if fr.md 2 then some (fr.imm 10 3, r.toNat % 256 ≠ 0) else none }
      | none => .nothing
    | [] => .nothing) s

end Sys2Proof.Machine
end

