-- ==== Sys2Proof/Machine/Ready.lean ====
section
/-! DEFINITION. Which slots of an element can fire (spec 07 R154), for the arbiter and for the deadlock detector (17 R403). -/

namespace Sys2Proof.Machine

/-- The guard that an opcode's slot is held to: CARRY tests one queue at a time (spec 12 R274). -/
def guardFor (op : Nat) (fr : Fire) : Slot := if op = 0x77 then carryGuard fr else fr.f

/-- What an opcode waits for beyond its guard. -/
def readyFor (op : Nat) (fr : Fire) (s : State) : Bool :=
  match op with
  | 0x79 => fr.readyDelta s
  | 0x90 => fr.readySld s
  | 0x91 => fr.readySst s
  | 0x92 => fr.readySlds s
  | 0x93 => fr.readySsts s
  | 0x94 => fr.readySgth s
  | 0x95 => fr.storeReady s
  | 0x96 => fr.storeReady s
  | 0x97 => fr.readyPqin s
  | 0x98 => fr.readyPqout s
  | 0x9A => fr.readySzero s
  | 0xB3 => fr.readySwait s
  | 0xB8 => fr.readyBwait s
  | 0xB9 => fr.readyEcmd s
  | 0xBA => fr.readyEresp s
  | 0xC2 => fr.readyMpass s
  | 0xC5 => fr.readyMout s
  | 0xC7 => fr.readyMfeed s
  | 0xD2 => fr.f.md.toNat % 4 ≠ 2 || fr.readyAsendPin s
  | 0xD3 => fr.f.md.toNat % 2 ≠ 1 || fr.readyAaddPin s
  | 0xD9 => fr.readyAwait s
  | _ => true

/-- Whether slot n of an element's current context is eligible now (spec 07 R154). -/
def State.slotReady (s : State) (key n : Nat) : Bool :=
  let fr := s.firingOf key n
  match s.slotOp key fr.ctx n with
  | none => false
  | some op => fr.e.busy.isNone && s.canFire fr (guardFor op) (readyFor op)

/-- The eligible slots of an element. -/
def State.readySlots (s : State) (key : Nat) : List Nat := (List.range 16).filter (s.slotReady key)

/-- Whether an element holds a visible head (spec 07 R153). -/
def State.hasHead (s : State) (key : Nat) : Bool := (List.range 7).any (fun q => (s.viewOf key q false).isSome)

end Sys2Proof.Machine
end

