-- ==== Sys2Proof/Machine/Preempt.lean ====
section
/-! DEFINITION. Operations on regions (spec 17 R399, R400, R405 to R408, R413, R414, 14 R340, R341) and the deadlock detector (17 R402, R403). -/

namespace Sys2Proof.Machine

/-- The region of a core that owns a live range (spec 14 R319). -/
def State.rangeOwner (s : State) (core dix : Nat) : Option Nat :=
  let r := s.range core dix
  if r.live then (blocksOf core).find? (fun b => (s.region b).state ≠ .free && (s.region b).rid = r.rid && (s.region b).tcid = r.tcid) else none

/-- The regions that own the ranges to which the chains of a region's elements are bound. -/
def State.boundTo (s : State) (blk : Nat) : List Nat :=
  (s.regionElems blk).flatMap (fun k => (List.range 2).filterMap (fun i =>
    let c := (s.elem k).chain i
    let q := s.chainSite k c
    if c.bound && q.1 = s.pkgNum && (s.range q.2 c.dix).gen = c.gen then s.rangeOwner q.2 c.dix else none))

/-- The regions that are not free. -/
def State.liveRegions (s : State) : List Nat := (s.regions.filter (fun x => x.2.state ≠ .free)).map (fun x => x.1)

/-- The set that pre-empting these regions pre-empts (spec 14 R340). -/
def State.closure (s : State) : Nat → List Nat → List Nat
  | 0, l => l
  | n + 1, l =>
    let more := s.liveRegions.filter (fun b => !l.contains b && ((s.boundTo b).any l.contains || l.any (fun a => (s.boundTo a).contains b)))
    if more.isEmpty then l else s.closure n (l ++ more)

/-- What pre-emption begins at one region of the set (spec 17 R405): an idle one is saved at once; a running one drains. -/
def beginCut (blk : Nat) : Prog := fun s =>
  let r := s.region blk
  if r.state = .idle then
    (s.rangesOf blk).map (fun i => .range (64 * (blk / 16) + i) { s.range (blk / 16) i with mrk := 0 }) ++ [.region blk { r with state := .saved, fromIdle := true }]
  else if r.state = .running then
    Prog.seq
      [fun s => (s.rangesOf blk).map (fun i => .range (64 * (blk / 16) + i) { s.range (blk / 16) i with mrk := 0 }),
       fun s => [.region blk { s.region blk with state := .preempting, cutAt := if s.cycle = 0 then 1 else s.cycle, fromIdle := false }],
       injectWave blk (wavePacket 1 0),
       fun s => s.pauseCmds blk true] s
  else []

/-- Region operation 1 (spec 17 R399, R405, R408, 14 R340). -/
def preEmpt (blk : Nat) : Prog := fun s =>
  if (s.region blk).state = .idle ∨ (s.region blk).state = .running then
    Prog.forEach (s.closure (s.regions.length + 1) [blk]) beginCut s
  else []

/-- Whether the cut of a region is complete (spec 17 R405): every element has acted, MRK = BNDS for every owned range, the local
port has delivered what it accepted (12 R288); a last sink report before it prevails (R408). -/
def State.cutDone (s : State) (blk : Nat) : Bool :=
  let r := s.region blk
  r.state = .preempting && decide (r.snkd < r.snkx) && (s.regionElems blk).all (fun k => (s.elem k).acted) && !s.portHolds blk
    && (s.rangesOf blk).all (fun i => (s.range (blk / 16) i).mrk = (s.range (blk / 16) i).bnds)

/-- CUT_COMPLETE (spec 17 R405): STATE 7. -/
def execCutComplete (core block : Nat) (s : State) : Host.Outcome State Fault Refusal :=
  complete (fun s =>
    let blk := 16 * core + block
    if s.cutDone blk then [.region blk { s.region blk with state := .saved, cutAt := 0 }] else []) s

/-- A 128-bit mask of element indexes. -/
def elemMask (l : List Nat) : BitVec 128 := l.foldl (fun (m : BitVec 128) k => m ||| (1#128 <<< elemIx k)) 0

/-- CUT_OVERDUE (spec 17 R407): 65,536 cycles after injection, without a cut. -/
def execCutOverdue (core block : Nat) (s : State) : Host.Outcome State Fault Refusal :=
  complete (fun s =>
    let blk := 16 * core + block
    let r := s.region blk
    if r.state = .preempting ∧ !s.cutDone blk ∧ r.cutAt.toNat + 65536 ≤ s.cycle.toNat then
      let late := (s.regionElems blk).filter (fun k => !(s.elem k).acted)
      s.asyncStop blk 0x53 6 (elemIx (late.headD 0)) (elemMask late)
    else []) s

/-- The detector window of a core in cycles; none where it is disabled (spec 17 R402). -/
def State.windowOf (s : State) (core : Nat) : Option Nat :=
  let w := (Map.get 65536#32 s.winReg core).toNat
  if w = 0 then none else some (Nat.max w 1024)

/-- The element that a deadlock names (spec 17 R403). -/
def State.stuckElem (s : State) (blk : Nat) : Nat :=
  let ks := s.regionElems blk
  match ks.find? (fun k => s.hasHead k && (s.readySlots k).isEmpty) with
  | some k => elemIx k
  | none => elemIx ((ks.find? (fun k => hdrSnk (s.header k (s.elem k).ctx.toNat) && !(s.elem k).reported)).getD 0)

/-- DEADLOCK (spec 17 R402, R403): the count has reached the window. -/
def execDeadlock (core block : Nat) (s : State) : Host.Outcome State Fault Refusal :=
  complete (fun s =>
    let blk := 16 * core + block
    let r := s.region blk
    match s.windowOf core with
    | none => []
    | some w =>
      if r.state = .running ∧ w ≤ r.quiet then
        s.asyncStop blk 0x50 3 (s.stuckElem blk) (elemMask ((s.regionElems blk).filter (fun k => (s.elem k).residue ≠ 0)))
      else []) s

/-- Whether a trapped region may be resumed (spec 17 R399, R401). -/
def State.resumable (s : State) (blk : Nat) : Bool :=
  (s.region blk).state = .trapped && (s.region blk).cause ≠ 0x55 && (s.region blk).cause ≠ 0x56

/-- Region operation 2 (spec 17 R399). -/
def resume (blk : Nat) : Prog := fun s => if s.resumable blk then s.resumeEffects blk else []

/-- Whether the firing that an element keeps undone is a TRAP (spec 12 R285). -/
def State.trappedInTrap (s : State) (key : Nat) (t : TrapInfo) : Bool := t.orig = 0 && s.slotOp key t.ctx t.slot = some 0x81

/-- Region operation 3 (spec 17 R399): each trapping TRAP firing first pops its heads and moves its state. -/
def resumeSkipping (blk : Nat) : Prog := fun s =>
  let ks := s.regionElems blk
  if s.resumable blk && ks.all (fun k => match (s.elem k).trap with | some t => s.trappedInTrap k t | none => true) then
    Prog.seq
      [fun s => ks.filterMap (fun k =>
         match (s.elem k).trap with
         | none => none
         | some t =>
           let fr := s.firingOf k t.slot
           some (.elem k { fr.pops fr.f.dqa fr.f.dqb fr.e with st := fr.nextSt none })),
       fun s => s.resumeEffects blk] s
  else []

/-- Commands of a region's elements that have not started complete with "discarded", which their engine then records and signals (05 R107); those
that have started go on (spec 17 R400, log 32). -/
def discardCommands (blk : Nat) : Prog := fun s =>
  let core := blk / 16
  let ks := s.regionElems blk
  let mine (c : Cmd) : Bool := ks.any (fun k => c.src = .elem k)
  Prog.forEach (List.range 4) (fun e =>
    let g := s.engine core e
    Prog.seq
      [fun _ => [.engine (4 * core + e) { g with
         offers := g.offers.filter (fun o => !ks.any (fun k => o.src = .elem k))
         queue := g.queue.filter (fun c => !mine c)
         running := g.running.map (fun c => if mine c then { c with paused := false } else c)
           ++ (g.queue.filter mine).map (fun c => { c.stop 0x0A 0x38 (s.engineRole core e) with paused := false }) }]]) s

/-- Errors on every semaphore and named barrier of a core (spec 17 R400 step 6). -/
def errorAll (core : Nat) : Prog := fun s =>
  let role := roleOf 8 s.pkgNum 0x1FF 0
  (List.range 256).map (fun n => .sem (256 * core + n) (semSignal (s.sem core n) 0 (some (0x31, role))))
    ++ (List.range 2048).map (fun n => .bar (2048 * core + n) (barBits ((barOf (s.bar core n)).setErr 0x37 role)))

/-- Region operation 4 (spec 17 R400). A region in which no invocation of a launch is under way has none to merge. -/
def discardRegion (blk : Nat) : Prog := fun s =>
  let r := s.region blk
  if r.state = .running ∨ r.state = .trapped ∨ r.state = .preempting ∨ r.state = .saved then
    let cause := if r.tv then r.cause else 0x38
    Prog.seq
      [fun s => s.stopRegion blk,
       removeResidue blk,
       discardCommands blk,
       fun s => (s.rangesOf blk).map (fun i => s.releaseRange (blk / 16) i),
       (if r.inChild || r.fromIdle then Prog.skip else completionMerge blk (if r.tv then 1 else 3) cause),
       faultEntry r.tcid cause 5 0 r.hnd.toNat [] none,
       errorAll (blk / 16),
       Prog.when (fun s => (s.region blk).state ≠ .free) (releaseRegion blk)] s
  else []

/-- PRE_EMPT (spec 17 R405). -/
def execPreEmpt (core block : Nat) (s : State) : Host.Outcome State Fault Refusal := complete (preEmpt (16 * core + block)) s
/-- RESUME (spec 17 R399). -/
def execResume (core block : Nat) (s : State) : Host.Outcome State Fault Refusal := complete (resume (16 * core + block)) s
/-- RESUME_SKIPPING (spec 17 R399). -/
def execResumeSkipping (core block : Nat) (s : State) : Host.Outcome State Fault Refusal := complete (resumeSkipping (16 * core + block)) s
/-- REGION_DISCARD (spec 17 R400). -/
def execRegionDiscard (core block : Nat) (s : State) : Host.Outcome State Fault Refusal := complete (discardRegion (16 * core + block)) s

/-- The first element of a region whose saved contexts or descriptors fail their checks (spec 17 R414). -/
def State.restoreFail (s : State) (blk : Nat) : Option Nat :=
  let ks := s.regionElems blk
  let cs := ks.flatMap (fun k => ((List.range 8).filter (fun n => (s.elem k).loaded.getLsbD n)).map (fun n =>
    ctxOfBytes k n (s.memBytes (imageBase k n) 208)))
  (ks.find? (fun k => cs.any (fun c => c.key = k && ((s.contextFail cs (fun _ => none) c).isSome || (s.badRegister k c.n).isSome
      || hdrRid c.h ≠ (s.region blk).rid.toNat)))).map elemIx

/-- The end of a restore (spec 17 R414): WA clear, commands go on, deadlock count from 0, STATE 3; a region saved while idle is idle (log 31). -/
def wakeRegion (blk : Nat) : Prog := fun s =>
  (s.regionElems blk).map (fun k => .elem k { s.elem k with acted := false, stopped := false, stopIn := 0, saveCh := 0 })
    ++ s.pauseCmds blk false
    ++ (s.rangesOf blk).map (fun i => .range (64 * (blk / 16) + i) { s.range (blk / 16) i with mrk := 0 })
    ++ [.region blk { s.region blk with state := if (s.region blk).fromIdle then .idle else .running, fromIdle := false, quiet := 0, cutAt := 0 }]

/-- The report of a restore that is not done (spec 17 R404, R413, R414). -/
def restoreReport (elem value : Nat) : List Effect := [.reply (.report 5 0x54 (detailOf [(7, elem), (24, value)]))]

/-- Region operation 5 on a region saved in place (spec 17 R399, R409, R414). -/
def restoreInPlace (blk : Nat) : Prog := fun s =>
  if (s.region blk).state = .saved then
    match s.restoreFail blk with
    | some e => restoreReport e 0
    | none => wakeRegion blk s
  else []

/-- The header of a context with REP shifted and a new RID (spec 17 R414, 07 R148). -/
def movedHeader (h shift : Nat) (rid : BitVec 16) : Nat :=
  h % 2 ^ 33 + (hdrRep h + shift) % 128 * 2 ^ 33 + bits h 40 8 * 2 ^ 40 + rid.toNat * 2 ^ 48

/-- A word of an accumulate element that comes from a new place. -/
def AccWord.moved (w : AccWord) (key : Nat) : AccWord :=
  match w with
  | .contrib id pkg core ent word dix gen _ chain => .contrib id pkg core ent word dix gen key chain
  | .marker pkg core first dix gen _ => .marker pkg core first dix gen key
  | .unbind pkg core first dix gen _ => .unbind pkg core first dix gen key
  | w => w

/-- The new place of a save record: its region block, and by how much element indexes and addresses move. -/
structure NewPlace where
  blk : Nat
  core : Nat
  row : Nat
  col : Nat
  deriving DecidableEq, Repr

/-- The new index of an element of a save record. -/
def Save.at_ (v : Save) (p : NewPlace) (elem : Nat) : Nat :=
  16 * (elem / 16 - v.region.rw0 + p.row) + (elem % 16 - v.region.cl0 + p.col)
/-- By how much element indexes change (spec 17 R414), modulo 128. -/
def Save.shift (v : Save) (p : NewPlace) : Nat := (128 + 16 * p.row + p.col - (16 * v.region.rw0 + v.region.cl0)) % 128

/-- The new address of a cell of a save record. -/
def Save.addr (v : Save) (p : NewPlace) (a : Nat) : Nat :=
  match v.elems.findSome? (fun x =>
    let old := unitSpans (ekey v.core x.1)
    let new := unitSpans (ekey p.core (v.at_ p x.1))
    (old.zip new).findSome? (fun y => if y.1.1 ≤ a ∧ a < y.1.2 then some (y.2.1 + (a - y.1.1)) else none)) with
  | some b => b
  | none => a

/-- What R413 asks of the new place: the first mismatching site, or the first range descriptor or label that is taken. -/
def State.placeFail (s : State) (v : Save) (p : NewPlace) : Option (Nat × Nat) :=
  let r := v.region
  let rect : CRegion := { rw0 := p.row, cl0 := p.col, rows := r.nrows, cols := r.ncols, entry := 0, elems := [], binds := [] }
  let empty : Bool := (blocksOf p.core).all (fun b => (s.region b).state = .free)
  if 8 < p.row + r.nrows ∨ 16 < p.col + r.ncols ∨ 384 ≤ p.core then some (16 * p.row + p.col, 0)
  else if s.powerOf p.core ≠ .on ∨ !(Map.get 0 s.served p.core = r.tcid || empty)
      ∨ (blocksOf p.core).any (fun b => (s.region b).under [rect]) ∨ (s.freeBlocks p.core).isEmpty
      ∨ v.onto.any (fun c => p.core ≠ c) then some (16 * p.row + p.col, 0)
  else
    match v.elems.find? (fun x => siteType x.1 ≠ siteType (v.at_ p x.1)) with
    | some x => some (v.at_ p x.1, 0)
    | none =>
      match v.ranges.find? (fun x => (s.range p.core x.1).live || (s.rangeMeets p.core x.2.first x.2.count).isSome) with
      | some x => some (16 * p.row + p.col, x.1)
      | none => (v.binds.find? (fun x => bits (s.bindingOf p.core x.1).toNat 31 1 = 1)).map (fun x => (16 * p.row + p.col, x.1))

/-- The core save area written to a core (spec 17 R412): memory, poison, semaphores, barriers; the others saved with it follow it there. -/
def writeCoreArea (v : Save) (core : Nat) : Prog := fun s =>
  match v.coreArea with
  | none => []
  | some a =>
    if v.onto.isSome then []
    else
      let b := winBase core
      [.clear b (b + 0x200000)]
        ++ a.bytes.map (fun c => .bytes (b + c.1) [c.2]) ++ a.poison.map (fun n => .poison (b / 32 + n) true)
        ++ (List.range 256).map (fun n => .sem (256 * core + n) (Map.get 0 a.sems n))
        ++ (List.range 2048).map (fun n => .bar (2048 * core + n) (Map.get 0 a.bars n))
        ++ [.saves (s.saves.map (fun w => if w.core = v.core ∧ w.region.tcid = v.region.tcid ∧ w.coreArea = v.coreArea then
              { w with onto := some core } else w))]

/-- Writes a save record at its new place (spec 17 R413, R414, 14 R341). -/
def writeSave (v : Save) (p : NewPlace) : Prog := fun s =>
  let rid := BitVec.ofNat 16 p.blk
  let sh := v.shift p
  let newKey (k : Nat) : Nat := ekey p.core (v.at_ p (elemIx k))
  let onto (c : Cmd) : Cmd := { c with paused := true, src := match c.src with | .elem k => .elem (newKey k) | x => x }
  Prog.seq
    [fun _ => (v.elems.flatMap (fun x => (unitSpans (ekey p.core (v.at_ p x.1))).map (fun y => .clear y.1 y.2))),
     fun _ => v.images.map (fun c => .bytes (v.addr p c.1) [c.2]),
     fun _ => v.poison.map (fun n => .poison (v.addr p (32 * n) / 32) true),
     fun _ => v.elems.map (fun x =>
       let k := ekey p.core (v.at_ p x.1)
       .elem k { x.2 with inj := x.2.inj.map (fun w => w.moved k), feed := x.2.feed.map (fun l => l.map (fun w => w.moved k)) }),
     fun s => v.elems.flatMap (fun x =>
       let k := ekey p.core (v.at_ p x.1)
       ((List.range 8).filter (fun n => x.2.loaded.getLsbD n)).map (fun n => .bytes (imageBase k n) (leBytes 8 (movedHeader (s.header k n) sh rid)))),
     fun _ => v.ranges.map (fun x => .range (64 * p.core + x.1) { x.2 with rid := rid, mrk := 0 }),
     fun _ => v.words.map (fun x => .am (32768 * p.core + x.1) x.2),
     fun _ => v.binds.map (fun x => .bind (128 * p.core + x.1) (BitVec.ofNat 32 (x.2.toNat / 128 * 128 + (x.2.toNat + sh) % 128))),
     fun s => (List.range 4).map (fun e =>
       let g := s.engine p.core e
       let mine := (v.cmds.filter (fun x => x.1 = e)).map (fun x => onto x.2)
       .engine (4 * p.core + e) { g with running := g.running ++ mine.filter (fun c => c.started || c.finished)
                                         queue := g.queue ++ mine.filter (fun c => !(c.started || c.finished)) }),
     fun s => [.region p.blk { v.region with rid := rid, rw0 := p.row, cl0 := p.col, state := .saved },
       s.setLaunch v.region.launch (fun l => { l with
         place := l.place.map (fun c => if c = v.core then p.core else c)
         regions := l.regions.map (fun b => if b = v.block then p.blk else b)
         labels := l.labels.map (fun k => if v.binds.any (fun x => 128 * v.core + x.1 = k) then 128 * p.core + k % 128 else k) })]] s

/-- RESTORE (spec 17 R412 to R414): the save record with this number, onto a rectangle of a core; without one, the region saved in place
there. Nothing is written unless every check passes. -/
def execRestore (save core row col : Nat) (s : State) : Host.Outcome State Fault Refusal :=
  complete (fun s =>
    match s.saves[save]? with
    | none =>
      (match (blocksOf core).find? (fun b => (s.region b).state = .saved && (s.region b).rw0 = row && (s.region b).cl0 = col) with
       | some b => restoreInPlace b s
       | none => [])
    | some v =>
      let p : NewPlace := { blk := (s.freeBlocks core).headD 0, core := core, row := row, col := col }
      match s.placeFail v p with
      | some f => restoreReport f.1 f.2
      | none =>
        let w : Prog := Prog.seq
          [fun s => [.saves (listDrop s.saves save)],
           if Map.get 0 s.served core = v.region.tcid then Prog.skip else claimCore v.region.tcid core [],
           writeCoreArea v core,
           writeSave v p]
        let l := w s
        match (s.apply l).restoreFail p.blk with
        | some e => restoreReport e 0
        | none => l ++ wakeRegion p.blk (s.apply l)) s

/-- Whether a core would be free for a process once the regions of another one there were pre-empted (spec 16 R371). -/
def State.yields (s : State) (tcid old core : Nat) : Bool :=
  Map.get 0 s.served core = old && old ≠ tcid && s.powerOf core = .on
    && (blocksOf core).all (fun b => [RState.free, .idle, .running, .saved].contains (s.region b).state)

/-- The pre-emptions that a waiting launch of the incoming process calls for (spec 16 R371): none if cores are free for it; else the regions
of the outgoing process on the cores of a placement that its cores would make possible. -/
def yieldCores (tcid old : Nat) (l : Launch) : Prog := fun s =>
  match s.readContainer (s.foreWho tcid) l.img with
  | .error _ => []
  | .ok (c, _) =>
    let p := l.plan
    if (s.choose tcid p c).isSome then []
    else
      let fits (k : Nat) : Bool := (List.range p.cores).all (fun i => s.available tcid k (p.regionsOf c i))
      match p.placeOn p.packages ((List.range 384).filter (fun k => fits k || s.yields tcid old k)) with
      | none => []
      | some place => Prog.forEach (place.filter (fun k => !fits k)) (fun k => Prog.forEach (blocksOf k) preEmpt) s

/-- RUN_LIST_TURN (spec 16 R371): the queues of the incoming process are mapped, all others unmapped, for its quantum; the cores that its waiting
launches need are taken from the outgoing one. Cycles of a quantum at the fabric clock. -/
def runListTurn : Prog := fun s =>
  match s.nextProc s.runPos with
  | none => []
  | some p =>
    let old := s.runPos
    Prog.seq
      [fun s => [.runPos p (s.cycle.toNat + (s.proc p).quantum * s.clock)],
       fun s => s.threads.map (fun x => .thread x.1 { x.2 with mapped := x.2.bound && x.2.tcid = p, awake := x.2.bound && x.2.tcid = p }),
       fun s => Prog.forEach (s.launches.filter (fun l => l.waiting && l.tcid = p)) (yieldCores p old) s] s
def execRunListTurn (s : State) : Host.Outcome State Fault Refusal := complete runListTurn s

/-- The operation that a write of the region command register asks for (spec 17 R399). -/
def regionOp (opr blk : Nat) : Prog :=
  match opr with
  | 1 => preEmpt blk
  | 2 => resume blk
  | 3 => resumeSkipping blk
  | 4 => discardRegion blk
  | 5 => restoreInPlace blk
  | _ => Prog.skip

end Sys2Proof.Machine
end

