-- ==== Sys2Proof/Machine/Window.lean ====
section
/-! DEFINITION. Accesses to core windows and to the control region (spec 01 R23 to R33, 05 R112, R115), the ordering control word
(15 R352, R353), and cores that are gated, wake or fail to wake (01 R32, 17 R401). -/

namespace Sys2Proof.Machine

/-- The physical address of a window access. A core number past the last names the 16 MiB of the map that lie there (spec 01 R18). -/
def winPa (w : WinAccess) : Nat := winBase w.core + w.off
/-- The block that a window access reaches. -/
def winArea (w : WinAccess) : Area := (placeOf (winPa w)).block
/-- The core that a master with this role acts from (spec 05 R111). -/
def roleCore (role : BitVec 26) : Nat := bits role.toNat 7 9

/-- The completion of a window access that is not performed (spec 01 R18, R26, R28). -/
def refused (w : WinAccess) (cause : Nat) : List Effect := [.reply (.done w.role cause (winPa w))]

/-- ORDERING CONTROL (spec 15 R353): the write sets BUSY; one that meets BUSY takes effect after the change in progress. -/
def writeCons (v : Bool) : Prog := fun s =>
  if s.consBusy then [.cons s.cons true (s.consNext ++ [v])] else [.cons v true []]

/-- A write of 8 B to the control region by Foreveder (spec 01 R33): the tables (18 R417, R427, R429), the ordering control word; telemetry
is read only (R441); an offset without a register is reserved (01 R18). -/
def controlWrite (w : WinAccess) : Prog := fun s =>
  let off := (placeOf (winPa w)).off
  if 0x40100000 ≤ off ∧ off < 0x40120000 then
    let n := (off - 0x40100000) / 32
    [.hostKey n (BitVec.ofNat 256 (patchNat (Map.get 0 s.hostKeys n).toNat (off % 32) w.data))]
  else if 0x40200000 ≤ off ∧ off < 0x40200200 then
    let n := (off - 0x40200000) / 8
    [.route n (BitVec.ofNat 64 (leNat w.data))]
  else if 0x40201000 ≤ off ∧ off < 0x40201800 then
    let n := (off - 0x40201000) / 32
    [.window n (BitVec.ofNat 256 (patchNat (Map.get 0 s.windows n).toNat (off % 32) w.data))]
  else if 0x40300000 ≤ off ∧ off < 0x40308000 then refused w 0x12
  else if off = 0x80000000 then writeCons ((leNat w.data) % 2 = 1) s
  else refused w 0x10

/-- Whether a region operation is accepted (spec 17 R399). -/
def State.accepts (s : State) (opr blk : Nat) : Bool :=
  match opr, (s.region blk).state with
  | 1, .idle => true
  | 1, .running => true
  | 2, .trapped => s.resumable blk
  | 3, .trapped => s.resumable blk && (s.regionElems blk).all (fun k => match (s.elem k).trap with | some t => s.trappedInTrap k t | none => true)
  | 4, .running => true
  | 4, .trapped => true
  | 4, .preempting => true
  | 4, .saved => true
  | 5, .saved => true
  | _, _ => false

/-- What a write of the region command register asks (spec 17 R399): OPR reads 0 once the operation is accepted; a write whose operation is not
accepted leaves the register as it was (log 41). `old` is what it held before. -/
def regionCommand (core : Nat) (old : BitVec 64) : Prog := fun s =>
  let v := (Map.get 0 s.opReg core).toNat
  let blk := 16 * core + bits v 0 4
  if s.accepts (bits v 8 4) blk then Prog.seq [fun _ => [.opReg core (BitVec.ofNat 64 (v % 16))], regionOp (bits v 8 4) blk] s
  else [.opReg core old]

/-- The changes of a window write that has passed its checks: what it stores, then the operation of a region command register that it meets. -/
def windowStore (w : WinAccess) : Prog := fun s =>
  let pa := winPa w
  let p := placeOf pa
  let n := w.data.length
  if p.block = .control then controlWrite w s
  else if p.block = .desc ∧ !descOk (leNat w.data) then refused w 0x12
  else
    Prog.seq
      [fun s => s.touchLine 0 pa false true n ++ s.store 0 pa w.data (List.replicate n w.pois),
       if p.block = .regctl ∧ p.off < 0x418 ∧ 0x410 < p.off + n then regionCommand p.core (Map.get 0 s.opReg p.core) else Prog.skip] s

/-- The changes of an atomic add on a semaphore or a barrier (spec 05 R112, R115). -/
def windowAdd (w : WinAccess) : Prog := fun s =>
  (s.atomic 0 (winPa w) w.data.length 0 (leNat w.data) 0 w.pois w.role).2.2

/-- A WINDOW ACCESS (spec 01 R18, R26 to R32): refused with its cause; "—" freezes the master (R28), but the refusal of a peer's goes back to
its package (18 R429); held where the core is gated; else performed. -/
def windowAccess (w : WinAccess) (atomic : Bool) : Prog := fun s =>
  let k : Kind := if atomic then .atomic else .write
  match s.refusal w.master k (winPa w) w.data.length (roleCore w.role) w.scope with
  | some c => if c = 0x52 ∧ w.master ≠ .peer then freezeMaster w.role (winPa w) k s else refused w (if w.master = .peer then 0x52 else c)
  | none =>
    match s.gatedFor s.pkgNum (winPa w) with
    | some c => s.holdAt c (.window w atomic)
    | none => if atomic then windowAdd w s else windowStore w s

/-- A window access of one event: only those to its own blocks. -/
def windowEvent (areas : List Area) (atomic : Bool) (w : WinAccess) (s : State) : Host.Outcome State Fault Refusal :=
  complete (Prog.when (fun _ => areas.contains (winArea w)) (windowAccess w atomic)) s

/-- WINDOW_WRITE (spec 01 R26, R27): the blocks without behaviour of their own, and the addresses that hold nothing. -/
def execWindowWrite (w : WinAccess) (s : State) : Host.Outcome State Fault Refusal :=
  windowEvent [.hbm, .coreMem, .spad, .dfile, .status, .bar, .regctl, .bind, .control, .hole] false w s
/-- CONSTANT_WRITE (spec 01 R29, 07 R146). -/
def execConstantWrite (w : WinAccess) (s : State) : Host.Outcome State Fault Refusal := windowEvent [.const] false w s
/-- DESCRIPTOR_WRITE (spec 01 R23, R30). -/
def execDescriptorWrite (w : WinAccess) (s : State) : Host.Outcome State Fault Refusal := windowEvent [.desc] false w s
/-- CONTEXT_IMAGE_WRITE (spec 08 R172, 01 R30). -/
def execContextImageWrite (w : WinAccess) (s : State) : Host.Outcome State Fault Refusal := windowEvent [.image] false w s
/-- AM_WINDOW_WRITE (spec 01 R31). -/
def execAmWindowWrite (w : WinAccess) (s : State) : Host.Outcome State Fault Refusal := windowEvent [.am] false w s
/-- SEMAPHORE_WRITE (spec 05 R112). -/
def execSemaphoreWrite (w : WinAccess) (s : State) : Host.Outcome State Fault Refusal := windowEvent [.sem] false w s
/-- SEMAPHORE_ATOMIC_ADD (spec 05 R112). -/
def execSemaphoreAtomicAdd (w : WinAccess) (s : State) : Host.Outcome State Fault Refusal := windowEvent [.sem] true w s
/-- BARRIER_ARRIVAL_ADD (spec 05 R115): an add at offset 4. -/
def execBarrierArrivalAdd (w : WinAccess) (s : State) : Host.Outcome State Fault Refusal :=
  windowEvent (if (winPa w) % 16 < 8 then [.bar] else []) true w s
/-- BARRIER_BYTE_ADD (spec 05 R115): an add at offset 12. -/
def execBarrierByteAdd (w : WinAccess) (s : State) : Host.Outcome State Fault Refusal :=
  windowEvent (if (winPa w) % 16 < 8 then [] else [.bar]) true w s

/-- ORDERING_CONTROL_WRITE (spec 15 R353). -/
def execOrderingControlWrite (v : Bool) (s : State) : Host.Outcome State Fault Refusal := complete (writeCons v) s

/-- CONS_CHANGE_COMPLETE (spec 15 R353): every core that is powered has adopted the value; a write made meanwhile takes effect next, the
last one of several. -/
def execConsChangeComplete (s : State) : Host.Outcome State Fault Refusal :=
  complete (fun s =>
    if !s.consBusy then []
    else
      let adopt : List Effect := ((List.range 384).filter (fun c => s.powerOf c = .on && Map.get true s.consAt c ≠ s.cons)).map (fun c => .consAt c s.cons)
      adopt ++ (match s.consNext.getLast? with
        | some v => [.cons v true []]
        | none => [.cons s.cons false []])) s

/-- CORE_POWER_GATING (spec 01 R32): a core with nothing under way is gated (log 33). -/
def execCorePowerGating (core : Nat) (s : State) : Host.Outcome State Fault Refusal :=
  complete (fun s =>
    let busy : Bool :=
      (blocksOf core).any (fun b => !([RState.free, .idle, .saved].contains (s.region b).state))
        || (List.range 4).any (fun e => !((s.engine core e).offers.isEmpty && (s.engine core e).queue.isEmpty && (s.engine core e).running.isEmpty))
        || s.pending.any (fun a => coreOf a.key = core) || s.returned.any (fun r => coreOf r.key = core)
        || !(Map.get [] s.taskWait core).isEmpty || !(Map.get [] s.lport core).isEmpty || s.elems.any (fun x => coreOf x.1 = core && (!x.2.inj.isEmpty || x.2.feed.isSome || x.2.asks ≠ []))
    if core < 384 ∧ s.powerOf core = .on ∧ !busy then [.gate core .gated] else []) s

/-- Whether a window entry permits a request of a peer (spec 18 R429). -/
def windowPermits (w : Nat) (op : PeerOp) : Bool :=
  match op with
  | .read => bits w 97 1 = 1
  | .write => bits w 98 1 = 1
  | .atomic => bits w 99 1 = 1
  | _ => false

/-- The KID under which a peer's request reaches HBM (spec 18 R429): that of the window entry that admits it. -/
def State.peerKid (s : State) (r : PeerReq) : Option Nat :=
  (s.windows.find? (fun x =>
    let w := x.2.toNat
    let base := bits w 0 48
    bits w 96 1 = 1 && maskBit (w / 2 ^ 192) r.srcPkg && bits w 182 10 = r.tcid && windowPermits w r.op && decide (base ≤ r.pa)
      && decide (r.pa + r.size ≤ base + bits w 48 48))).map
    (fun x => bits x.2.toNat 176 6)

/-- The kind of access of a peer's request. -/
def peerKind (op : PeerOp) : Kind := match op with | .read => .read | .atomic => .atomic | _ => .write

/-- Whether a peer's request is addressed to no memory: it tells the other Foreveder something (logs 47, 48). -/
def opTells (op : PeerOp) : Bool := match op with | .collective => true | .ended => true | _ => false

/-- Whether a peer's request passes the checks of spec 18 R429, and the KID it uses. Remote accumulate travels on ACC (01 R27), which reaches AM;
a child launch reaches a core that serves its process. -/
def State.peerPasses (s : State) (r : PeerReq) : Option Nat :=
  let p := placeOf r.pa
  let served : Bool := !([Area.hbm, .hole, .control].contains p.block) && Map.get 0 s.served p.core = r.tcid
  let refused : Bool := (s.refusal .peer (peerKind r.op) r.pa r.size r.srcCore 6).isSome || (r.op = .atomic && atomicRefused r.pa r.arg)
  match r.op with
  | .collective => if (s.proc r.tcid).live then some 0 else none
  | .ended => if (s.proc r.tcid).live then some 0 else none
  | .task => if served then some 0 else none
  | .contribution => if served && p.block = .am && p.off % 16 = 0 then some 0 else none
  | .bind => if served && p.block = .am && p.off % 16 = 0 then some 0 else none
  | .marker => if served && p.block = .am && p.off % 16 = 0 then some 0 else none
  | .unbind => if served && p.block = .am && p.off % 16 = 0 then some 0 else none
  | _ => if refused then none else if p.block = .hbm then s.peerKid r else if served then some 0 else none

/-- The answer to a peer's bind request (spec 14 R329, R339): its code, COUNT, DIX, GEN and the range's exponent. -/
def State.peerBind (s : State) (core first x : Nat) (r : PeerReq) : List Effect :=
  let ans (a count dix : Nat) (gen : BitVec 13) (rx : BitVec 9) : Effect :=
    .send (.answer r (leBytes 1 a ++ leBytes 2 count ++ leBytes 1 dix ++ leBytes 2 gen.toNat ++ leBytes 2 rx.toNat) 0)
  match s.rangeFrom core first with
  | none => [ans 0 0 0 0 0]
  | some d =>
    let q := s.range core d
    if q.tcid ≠ r.tcid then [ans 1 0 d q.gen q.x]
    else if q.x.toNat ≠ x then [ans 2 0 d q.gen q.x]
    else if q.bnds = 65535 then [ans 3 0 d q.gen q.x]
    else [ans 4 q.count d q.gen q.x, .range (64 * core + d) { q with bnds := q.bnds + 1 }]

/-- What a word of the accumulate network does where it arrives. -/
def wordEffect (f : AccWord → Option Prog) (w : AccWord) : Prog := fun s => match f w with | some p => p s | none => []

/-- The chain tag that a request carries: DIX and GEN (log 34). -/
def tagDix (r : PeerReq) : Nat := r.arg / 8192
def tagGen (r : PeerReq) : BitVec 13 := BitVec.ofNat 13 r.arg

/-- The words of a request's data. -/
def reqWords (r : PeerReq) : List Word := (chunksOf 8 r.data.length r.data).map (fun x => BitVec.ofNat 64 (leNat x))

/-- What another Foreveder tells of the regions of a launch that it ran: CYC, ERRT, RESD, CAUSE, STATUS (spec 16 R379, log 48). -/
def peerEnded (r : PeerReq) : Prog := fun s =>
  match s.launches.find? (fun l => l.hnd.toNat = r.arg && l.tcid = r.tcid) with
  | none => []
  | some l => mergeEnd l.id (natAt r.data 0 8) (natAt r.data 8 4) (natAt r.data 12 4) (natAt r.data 16 1) (natAt r.data 17 1) s

/-- A peer's request performed, and its answer (spec 18 R429; 14 R320, R329, R339; 09 R218; 16 R379, R386; logs 34, 47, 48). -/
def peerPerform (kid : Nat) (r : PeerReq) : Prog := fun s =>
  let p := placeOf r.pa
  match r.op with
  | .read =>
    s.touchLine kid r.pa false false r.size
      ++ [.send (.answer r (s.readBytes kid r.pa r.size) (maskOf r.pa ((List.range r.size).map (fun i => s.poisAt (r.pa + i)))))]
  | .write => s.touchLine kid r.pa false true r.size ++ s.store kid r.pa r.data (marksUnder r.pa r.data.length r.pois) ++ [.send (.answer r [] 0)]
  | .atomic =>
    let q := s.atomic kid r.pa r.size r.arg (leNat (r.data.take r.size)) (leNat (r.data.drop r.size)) (r.pois ≠ 0) (BitVec.ofNat 26 r.issuer)
    s.touchLine kid r.pa false true r.size ++ q.2.2 ++ [.send (.answer r (leBytes r.size q.1) (if q.2.1 || r.pois ≠ 0 then 1 else 0))]
  | .contribution =>
    if (s.range p.core (tagDix r)).tagged (tagGen r) && (s.range p.core (tagDix r)).holds (p.off / 16) then
      s.addTo p.core (tagDix r) (p.off / 16) (BitVec.ofNat 128 (leNat r.data)) ++ [.send (.answer r [] 0)]
    else [.send (.answer r [0x44#8] 0)]
  | .bind => s.peerBind p.core (p.off / 16) r.arg r
  | .marker => wordEffect markerProg (.marker s.pkgNum p.core (p.off / 16) (tagDix r) (tagGen r) 0) s
  | .unbind => wordEffect unbindProg (.unbind s.pkgNum p.core (p.off / 16) (tagDix r) (tagGen r) 0) s
  | .collective => [.collPeers (s.collPeers ++ [r])]
  | .ended => peerEnded r s
  | .task => [.taskNet (s.taskNet ++ [.child p.core ((reqWords r).take r.size) ((reqWords r).drop r.size) r.tcid r.srcCore r.tag (some r)])]

/-- A peer's request (spec 18 R429, 01 R32): refused, held at a gated core, or performed. -/
def peerAccess (r : PeerReq) : Prog := fun s =>
  match s.peerPasses r with
  | none => [.send (.refuse r)]
  | some kid =>
    match (if opTells r.op then none else s.gatedFor s.pkgNum r.pa) with
    | some c => s.holdAt c (.peer r)
    | none => peerPerform kid r s

/-- Delivers what was held and is neither an access, a task nor a word (spec 01 R32). -/
def deliverHeld (core : Nat) (h : Held) : Prog := fun s =>
  match h with
  | .window w atomic => windowAccess w atomic s
  | .peer r => peerAccess r s
  | .signal n inc err => [.sem (256 * core + n) (semSignal (s.sem core n) inc err)]
  | .staging x => stageConstant x.src x.core x.elem x.reg x.pkt x.commit s
  | .store _ kid pa data marks => s.touchLine kid pa false true data.length ++ s.store kid pa data marks
  | .merge id cyc errt resd cause status => mergeEnd id cyc errt resd cause status s
  | .report tcid cause src queue index rest vec => faultEntry tcid cause src queue index rest vec s
  | .load img => configLoad core img s
  | .access _ => []
  | .task _ => []
  | .word _ => []

/-- Tasks and words that were held, in order. -/
def heldTasks (l : List Held) : List Task := l.filterMap (fun h => match h with | .task t => some t | _ => none)
def heldWords (l : List Held) : List AccWord := l.filterMap (fun h => match h with | .word w => some w | _ => none)

/-- WAKE_COMPLETE (spec 01 R32): the core runs, has the ordering mode of the package (15 R353), and what was held goes on in order; accesses
are still among those not performed. -/
def execWakeComplete (core : Nat) (s : State) : Host.Outcome State Fault Refusal :=
  complete (fun s =>
    if s.powerOf core ≠ .waking then []
    else
      let l := s.holdOf core
      Prog.seq
        [fun s => [.gate core .on, .consAt core s.cons, .hold core [], .taskNet (heldTasks l ++ s.taskNet), .accNet (heldWords l ++ s.accNet)],
         Prog.forEach l (deliverHeld core)] s) s

/-- A child launch that does not arrive: its command stops (spec 05 R109), or the package that asked is answered so. -/
def childLost (src id : Nat) (peer : Option PeerReq) : Prog := fun s =>
  match peer with
  | some r => [.send (.answer r [6#8] 0)]
  | none => [.engine (4 * src + 3) ((s.engine src 3).update id (fun c => c.stop 6 0x51 (s.engineRole src 3)))]

/-- What a failed wake does to one thing held at the core (spec 01 R32, 17 R401). What Foreveder holds there for a process is reported to it
(16 R365, 18 R420); a configuration load is answered. -/
def heldLost (core : Nat) (h : Held) : Prog := fun s =>
  match h with
  | .access a => Prog.seq [fun s => [.pending (s.pending.filter (fun b => b.id ≠ a.id))], wakeStop a.key core s.pkgNum] s
  | .window w _ => refused w 0x51
  | .signal n _ _ => [.reply (.done (roleOf 8 s.pkgNum 0x1FF 0) 0x51 (semAddr core n))]
  | .task (.data _ _ src _) => wakeStop src core s.pkgNum s
  | .staging x => wakeStop x.src core s.pkgNum s
  | .task (.child _ _ _ _ src id peer) => childLost src id peer s
  | .word w => wordLost w s
  | .peer r => [.send (.refuse r)]
  | .store role _ pa _ _ => [.reply (.done role 0x51 pa)]
  | .merge id _ _ _ _ _ =>
    (match s.launch? id with
     | none => []
     | some l => Prog.seq [faultEntry l.tcid 0x51 1 0 l.hnd.toNat [] none, regionEnded id] s)
  | .report tcid _ _ _ _ _ _ => lostEntry tcid s
  | .load _ => [.reply (.report 6 0x51 (detailOf [(9, core), (6, s.pkgNum)]))]

/-- The firing in progress of an element that waits for this core, trapped (spec 01 R32: LDA and AMO). -/
def firingLost (core key : Nat) : Prog := fun s =>
  match (s.elem key).busy with
  | none => []
  | some n =>
    let fr := s.firingOf key n
    let k : Option Kind := if s.slotOp key fr.ctx n = some 0x9F then some .read else if s.slotOp key fr.ctx n = some 0xA1 then some .atomic else none
    match k with
    | none => []
    | some k =>
      let o := s.withA fr (fun x => passed (s.located (s.fabWho key fr.scope) k (fr.laneItems (x.nat 0))) (fun ps =>
        if ps.any (fun p => s.gatedFor p.2.x.pkg p.2.x.pa = some core) then .trap 0x51 (detailOf [(9, core), (6, s.pkgNum)]) else .nothing))
      match o with
      | .trap c d => fr.settle s (.trap c d)
      | _ => []

/-- A command that waits for a core that does not wake (spec 05 R109): its next chunk is not made; its record is not written. -/
def Cmd.lost (c : Cmd) (core : Nat) (role : BitVec 26) : Cmd :=
  if c.gate ≠ some core then c
  else if !c.finished then { c.stop 6 0x51 role with gate := none }
  else { (if c.status = 0 then c.stop 6 0x51 role else c) with gate := none, replyAt := none }

/-- Commands whose next chunk or record waits for this core stop (spec 05 R109); a host queue's command offered to it is lost with its queue. -/
def commandsLost (core : Nat) : Prog := Prog.seq
  [fun s => s.engines.flatMap (fun x =>
     if x.2.running.any (fun c => c.gate = some core) then
       [.engine x.1 { x.2 with running := x.2.running.map (fun c => c.lost core (s.engineRole (x.1 / 4) (x.1 % 4))) }]
     else []),
   fun s => Prog.forEach (s.engine core 0).offers (fun o s =>
     match o.src with
     | .thread t idx => Prog.seq [fun s => [.engine (4 * core) { s.engine core 0 with offers := (s.engine core 0).offers.filter (fun p => p.src ≠ .thread t idx) }], stopQueue t idx 0x51] s
     | .elem _ => []) s]

/-- Threads whose WAITQ reads this core stop their queues (spec 16 R370). -/
def threadsLost (core : Nat) : Prog := fun s =>
  Prog.forEach (s.threads.map (fun x => x.1)) (fun t s =>
    match (s.thread t).block with
    | .waitq va _ _ _ =>
      (match s.checkBehalf (s.thread t).tcid .read va 8 with
       | .ok ps => if s.gateOf ps = some core then stopQueue t ((s.thread t).started - 1) 0x51 s else []
       | .error _ => [])
    | _ => []) s

/-- WAKE_FAILURE (spec 01 R32, 17 R401): everything held completes with cause 0x51 and its issuer faults; the core stays gated. -/
def execWakeFailure (core : Nat) (s : State) : Host.Outcome State Fault Refusal :=
  complete (fun s =>
    if s.powerOf core ≠ .waking then []
    else
      let l := s.holdOf core
      Prog.seq
        [fun _ => [.hold core []],
         Prog.forEach l (heldLost core),
         fun s => Prog.forEach (s.elems.map (fun x => x.1)) (firingLost core) s,
         commandsLost core, threadsLost core,
         fun _ => [.gate core .gated]] s) s

end Sys2Proof.Machine
end

