-- ==== Sys2Proof/Machine/HostPort.lean ====
section
/-! DEFINITION. The host port (spec 18 R415 to R419): RDMA requests against the host key table, congestion and pause, MACsec. -/

namespace Sys2Proof.Machine

/-- The telemetry record of a port (spec 18 R440): the host port, then the peer ports. -/
def portRecord (port : Nat) : Nat := if port = 12 then 392 else 393 + port

/-- Counts an event of a port in its record: 0 retrains, 1 FCS errors, 2 replays, 3 MACsec drops, 4 link failures (spec 18 R440). -/
def countPort (port i : Nat) : Prog := fun s => [s.countEvent (portRecord port) i]

/-- A queue pair's state. -/
def State.qpOf (s : State) (qp : Nat) : QpState := Map.get .ready s.qps qp

/-- Whether the firmware runs (spec 18 R431): no master but the security root acts before. -/
def State.running (s : State) : Bool := s.root.phase = .normal

/-- A frame that the port discards and counts (spec 18 R415). -/
def dropFrame (port : Nat) : Prog := Prog.seq
  [fun s => [.port port { s.port port with drops := (s.port port).drops + 1 }], countPort port 3]

/-- The host key entry that admits a request of a queue pair (spec 18 R417). -/
def State.hostEntry (s : State) (qp : Nat) (r : HostReq) : Option Nat :=
  (s.hostKeys.find? (fun x =>
    let w := x.2.toNat
    bits w 192 1 = 1 && bits w 224 32 = r.rkey.toNat && bits w 214 10 = qp && decide (bits w 0 48 ≤ r.va)
      && decide (r.va + r.len ≤ bits w 0 48 + bits w 96 48) && (if r.write then bits w 194 1 = 1 else bits w 193 1 = 1))).map (fun x => bits x.2.toNat 204 10)

/-- A host queue pair as a master (spec 01 R27; log 27). -/
def State.hostWho (s : State) (qp tcid : Nat) : Who :=
  { master := .host, core := 0x1FF, scope := 6, role := roleOf 6 s.pkgNum 0x1FF qp, tcid := tcid }

/-- Answers a request with a NAK (spec 18 R416, R417, R419): 0 invalid request, 1 remote access error, 2 remote operational error. -/
def nak (qp kind : Nat) : List Effect := [.reply (.nak qp kind), .qp qp .error]

/-- The queue pair freezes on a request that breaks an isolation rule (spec 18 R417, R438): it keeps the request, and Foreveder reports it. -/
def freezeQueuePair (qp tcid : Nat) (r : HostReq) (pa : Nat) : Prog := fun s =>
  Prog.seq [fun _ => [.qp qp (.frozen [r])], freezeEntry tcid (s.hostWho qp tcid).role pa (if r.write then .write else .read)] s

/-- Whether every granule of a request translates and its page permits it (spec 18 R417, 02 R49). -/
def State.hostTranslates (s : State) (tcid : Nat) (r : HostReq) : Bool :=
  (granules (r.va : Int) r.len).all (fun g => match s.translate 0x1FF tcid g.1 (if r.write then .write else .read) with | .ok _ => true | .error _ => false)

/-- The sectors of a request, each as its virtual address and size (spec 18 R419). -/
def sectorsIn (va : Nat) : Nat → Nat → List (Nat × Nat)
  | 0, _ => []
  | fuel + 1, n =>
    if n = 0 then []
    else
      let z := Nat.min n (32 - va % 32)
      (va, z) :: sectorsIn (va + z) fuel (n - z)

/-- Answers a READ sector by sector (spec 18 R419): no data from a poisoned sector on, a NAK, and a report with SRC 4. -/
def readSectors (qp tcid : Nat) : List (Nat × Nat) → Prog
  | [], _ => []
  | (va, n) :: l, s =>
    match s.readChecked (s.hostWho qp tcid) (va : Int) n with
    | .error _ => []
    | .ok (b, e) =>
      if b.any (fun x => x.2) then e ++ nak qp 2 ++ faultEntry tcid 0x32 4 0 0 [] none (s.apply (e ++ nak qp 2))
      else
        let now := e ++ [.reply (.data qp (b.map (fun x => x.1)))]
        now ++ readSectors qp tcid l (s.apply now)

/-- A HOST REQUEST (spec 18 R417 to R419): refused with a NAK, frozen, or performed whole. -/
def hostRequest (qp : Nat) (r : HostReq) : Prog := fun s =>
  match s.hostEntry qp r with
  | none => nak qp 1
  | some tcid =>
    if !s.hostTranslates tcid r then nak qp 1
    else
      match s.checkAccess (s.hostWho qp tcid) (if r.write then .write else .read) (r.va : Int) r.len with
      | .error f => if f.cause = 0x52 then freezeQueuePair qp tcid r (f.detail.toNat % 2 ^ 48) s else nak qp 1
      | .ok _ =>
        if r.write then (match s.writeChecked (s.hostWho qp tcid) (r.va : Int) r.data with | .ok l => l | .error _ => [])
        else readSectors qp tcid (sectorsIn r.va r.len r.len) s

/-- A request that arrives on a queue pair (spec 18 R415, R416, R438): none passes without MACsec keys; a frozen queue pair keeps it
unprocessed; one in the error state drops it. -/
def hostArrives (qp : Nat) (r : HostReq) : Prog := fun s =>
  if !s.running || decide (1024 ≤ qp) then []
  else if !(s.port 12).keyed then dropFrame 12 s
  else
    match s.qpOf qp with
    | .error => []
    | .frozen l => [.qp qp (.frozen (l ++ [r]))]
    | .ready => hostRequest qp r s
    | .limited => hostRequest qp r s

/-- RDMA_WRITE (spec 18 R417, R418). -/
def execRdmaWrite (qp : Nat) (rkey : BitVec 32) (va : Nat) (data : List Byte) (s : State) : Host.Outcome State Fault Refusal :=
  complete (hostArrives qp { write := true, rkey := rkey, va := va, len := data.length, data := data }) s
/-- RDMA_READ (spec 18 R417 to R419). -/
def execRdmaRead (qp : Nat) (rkey : BitVec 32) (va len : Nat) (s : State) : Host.Outcome State Fault Refusal :=
  complete (hostArrives qp { write := false, rkey := rkey, va := va, len := len, data := [] }) s

/-- RDMA_INVALID_REQUEST (spec 18 R416): a NAK of type "invalid request"; a frozen or failed queue pair does not answer. -/
def execRdmaInvalidRequest (qp : Nat) (s : State) : Host.Outcome State Fault Refusal :=
  complete (fun s =>
    if !s.running || decide (1024 ≤ qp) then []
    else if !(s.port 12).keyed then dropFrame 12 s
    else
      match s.qpOf qp with
      | .ready => [.reply (.nak qp 0)]
      | .limited => [.reply (.nak qp 0)]
      | _ => []) s

/-- CNP_RECEIVE (spec 18 R416): the responses of the queue pair are limited in rate; by how much is not architectural. -/
def execCnpReceive (qp : Nat) (s : State) : Host.Outcome State Fault Refusal :=
  complete (fun s =>
    if !s.running || decide (1024 ≤ qp) then []
    else if !(s.port 12).keyed then dropFrame 12 s
    else match s.qpOf qp with
      | .ready => [.qp qp .limited]
      | _ => []) s

/-- MKA_EXCHANGE (spec 18 R415): a key agreement frame, which goes without MACsec, establishes the link's keys if it is accepted (log 8). The
keys of a peer link come from the attestation (R428). -/
def execMkaExchange (port : Nat) (frame : List Byte) (s : State) : Host.Outcome State Fault Refusal :=
  complete (fun s =>
    if s.running && decide (port ≤ 12) && Config.mkaAccepts port frame && (port = 12 || (s.port port).attested) then
      [.port port { s.port port with keyed := true }]
    else []) s

/-- PRIORITY_FLOW_CONTROL (spec 18 R415): whether the host port may transmit; what is to be sent stays in order behind it. -/
def execPriorityFlowControl (pause : Bool) (s : State) : Host.Outcome State Fault Refusal := complete (fun _ => [.pause pause]) s

/-- MACSEC_DROP (spec 18 R415): the frame is discarded and counted. -/
def execMacsecDrop (port : Nat) (s : State) : Host.Outcome State Fault Refusal :=
  complete (Prog.when (fun _ => decide (port ≤ 12)) (dropFrame port)) s

end Sys2Proof.Machine
end

