-- ==== Sys2Proof/Machine/Manage.lean ====
section
/-! DEFINITION. Management (spec 18 R420 to R423, R434 to R438): the management area, the thirteen operations, page tables (02 R46 to R48),
attestation reports, and the malformed packet. -/

namespace Sys2Proof.Machine

/-- The table pool and the management area at its start (spec 02 R48, 18 R422, log 10). -/
def mgmtBase : Nat := 0
def poolEnd : Nat := 0x10000000

/-- A reply of a management operation (spec 18 R422): status, cause of a refusal, words 1 onward, bytes from REPLY + 64. -/
structure Reply where
  status : Nat
  cause : Nat
  words : List Nat
  extra : List Byte
  deriving DecidableEq, Repr

/-- An operation that is done. -/
def Reply.done (words : List Nat) (extra : List Byte) : Reply := { status := 0, cause := 0, words := words, extra := extra }

/-- What an operation does: its reply and its changes. -/
abbrev MgmtBody := State → Reply × List Effect

/-- A refusal: STATUS 4, and a cause that the spec does not state (log 4). -/
def refuseMgmt : MgmtBody := fun s =>
  ({ status := 4, cause := (Config.freeValue s.free).toNat % 128, words := [], extra := [] }, [.free (s.free + 1)])

/-- Fields of a management packet (spec 18 R422). -/
def mgmtSeqOf (m : MgmtPacket) : Nat := wfield m.slot.w0 32 32
def mgmtReplyAt (m : MgmtPacket) : Nat := wfield m.slot.w2 0 20
def operandOf (m : MgmtPacket) (i : Nat) : Nat := (m.operands.getD i 0).toNat
def operandBytes (m : MgmtPacket) : List Byte := m.operands.flatMap (fun w => leBytes 8 w.toNat)

/-- A write by Foreveder to the management area, under KID 0 (spec 18 R422). -/
def areaWrite (off : Nat) (data : List Byte) : Prog := fun s => s.store 0 (mgmtBase + off) data (List.replicate data.length false)

/-- Writes a reply, then advances the ring's RIX past the packet (spec 18 R422). -/
def writeReply (m : MgmtPacket) (r : Reply) : Prog := Prog.seq
  [areaWrite (mgmtReplyAt m) (wordBytes ((r.status + r.cause % 128 * 2 ^ 8 + mgmtSeqOf m * 2 ^ 32) :: (r.words ++ List.replicate (7 - r.words.length) 0)) ++ r.extra),
   fun s => [.mgmt s.mgmtSeq (s.mgmtRix + 1)],
   fun s => areaWrite 8 (leBytes 8 s.mgmtRix) s]

/-- Whether the owner's signature of a packet verifies (spec 18 R421, R422, R433). -/
def State.ownerSigned (s : State) (m : MgmtPacket) : Bool :=
  match signatureParts m.sig with
  | none => false
  | some (slot, ecdsa, hss) => slot = 255 && s.root.owner.state = 1 && s.root.owner.verifies (commandBytes m.slot ++ operandBytes m) ecdsa hss

/-- A packet that is not performed is counted (spec 18 R421). -/
def rejectMgmt (m : MgmtPacket) (status : Nat) : Prog := Prog.seq
  [fun s => [.rootState { s.root with rejected := s.root.rejected + 1 }], writeReply m { status := status, cause := 0, words := [], extra := [] }]

/-- Whether the turn is that of a packet that passes its checks: the firmware runs, the owner's signature, a number that rises. -/
def State.mgmtPasses (s : State) (m : MgmtPacket) : Bool :=
  s.focus = .management && s.running && s.ownerSigned m && decide (s.mgmtSeq < mgmtSeqOf m)

/-- A turn of the management queue on a packet (spec 18 R421, R422): signature, sequence number, effect, reply. -/
def mgmtTurn (signed : Bool) (m : MgmtPacket) (body : MgmtBody) : Prog := fun s =>
  if s.focus ≠ .management ∨ !(s.running || (!signed && s.root.phase = .recovery)) then []
  else if signed && !s.ownerSigned m then rejectMgmt m 1 s
  else if signed && decide (mgmtSeqOf m ≤ s.mgmtSeq) then rejectMgmt m 2 s
  else
    let seq : List Effect := if signed then [.mgmt (mgmtSeqOf m) s.mgmtRix] else []
    let x := body (s.apply seq)
    let l := seq ++ x.2
    l ++ writeReply m x.1 (s.apply l)

/-- MANAGEMENT_PACKET_MALFORMED (spec 18 R422): STATUS 3, if REPLY lies in the reply area; RIX advances. -/
def execManagementPacketMalformed (m : MgmtPacket) (s : State) : Host.Outcome State Fault Refusal :=
  complete (fun s =>
    if s.focus ≠ .management ∨ !s.running then []
    else if 0xC0000 ≤ mgmtReplyAt m ∧ mgmtReplyAt m + 64 ≤ 0x100000 then writeReply m { status := 3, cause := 0, words := [], extra := [] } s
    else Prog.seq [fun s => [.mgmt s.mgmtSeq (s.mgmtRix + 1)], fun s => areaWrite 8 (leBytes 8 s.mgmtRix) s] s) s

/-- The protected pools (spec 02 R48): the table pool, and the save pool of every process. -/
def State.pools (s : State) : List (Nat × Nat) :=
  (mgmtBase, poolEnd) :: (s.procs.filter (fun x => x.2.live)).map (fun x => (x.2.saveBase, x.2.saveSize))
/-- Whether a range of HBM overlaps a protected pool. -/
def State.meetsPool (s : State) (base size : Nat) : Bool := s.pools.any (fun p => overlaps base size p.1 p.2)

/-- Whether some leaf under a table is met, of those below entries that are near (spec 02 R46, R47): `near` is asked of an entry's level and
first address, `hit` of a leaf with its level. -/
def State.leafUnder (s : State) (near : Nat → Nat → Bool) (hit : Nat → Nat → Bool) : List Nat → Nat → Nat → Bool
  | [], _, _ => false
  | level :: rest, table, base =>
    (List.range (if level = 0 then 32 else 512)).any (fun i =>
      let a := base + i * 2 ^ levelShift level
      let w := s.pteAt (table + 8 * i)
      near level a && bits w 0 1 = 1 && (if bits w 1 1 = 1 then hit level w else s.leafUnder near hit rest (bits w 8 40 * 256) a))

/-- Whether a mapped frame or a valid peer window meets a range of this package's HBM (spec 02 R48). Foreveder's own tables map the management
area, which lies in the table pool. -/
def State.mapsFrames (s : State) (base size : Nat) : Bool :=
  (s.roots.filter (fun x => x.1 ≠ 0)).any (fun x => s.leafUnder (fun _ _ => true)
    (fun level w => bits w 57 6 = s.pkgNum && overlaps (bits w 8 40 * 256) (2 ^ levelShift level) base size) [3, 2, 1, 0] x.2 0)
  || s.windows.any (fun x => bits x.2.toNat 96 1 = 1 && overlaps (bits x.2.toNat 0 48) (bits x.2.toNat 48 48) base size)

/-- The translations of a context and of KIDs leave every buffer, with the pointer entries of the context (spec 02 R45, R52). -/
def State.untranslate (s : State) (p : TlbEntry → Bool) (q : PtrEntry → Bool) : List Effect :=
  s.tlb.map (fun x => .tlb x.1 (x.2.filter (fun e => !p e))) ++ s.pointers.map (fun x => .pointers x.1 (x.2.filter (fun e => !q e)))
def leafKid (e : TlbEntry) : Nat := bits e.leaf.toNat 51 6

/-- Lines of caches that carry a KID, in the dies that a test picks, leave them (spec 02 R45). -/
def State.purged (s : State) (dies : Nat → Bool) (kid : Nat) : List Effect :=
  (s.cache.filter (fun x => x.2.kid = kid && dies (lineDie x.1))).map (fun x => .cacheLine x.1 CacheLine.none)

/-- Whether accesses under a KID are still to be performed in this package (spec 02 R45). -/
def State.usesKid (s : State) (kid : Nat) : Bool := s.pending.any (fun a => a.pkg = s.pkgNum && a.kid = kid)

/-- Removes what is left of KIDs: their translations, then their lines (spec 02 R45). -/
def purgeKids (kids : List Nat) : Prog := Prog.seq
  [fun s => s.untranslate (fun e => kids.contains (leafKid e)) (fun _ => false),
   Prog.forEach kids (fun k s => s.purged (fun _ => true) k)]

/-- The KIDs that no process holds (spec 18 R437). -/
def State.freeKids (s : State) : List Nat :=
  (List.range 63).map (fun i => i + 1) |>.filter (fun k => !s.procs.any (fun x => x.2.live && x.2.kids.contains k))
/-- The first translation context that no process has; 0 is Foreveder's own (spec 18 R422). -/
def State.freeTcid (s : State) : Option Nat := (List.range 1023).map (fun i => i + 1) |>.find? (fun t => !(s.proc t).live)

/-- The KIDs that a CREATE takes. -/
def State.kidsFor (s : State) (m : MgmtPacket) : List Nat := s.freeKids.take (bits (operandOf m 0) 32 2 + 1)

/-- CREATE (spec 18 R421, R423, R437, 02 R45, R48): it waits while accesses under its KIDs are still to be performed, and loads their slots after
the purge. A pool over a mapped frame or a peer window is refused too: no leaf and no window reaches a pool. -/
def execCreate (m : MgmtPacket) (s : State) : Host.Outcome State Fault Refusal :=
  complete (Prog.when (fun s => !(s.mgmtPasses m && (s.kidsFor m).any s.usesKid)) (mgmtTurn true m (fun s =>
    let o (i : Nat) : Nat := operandOf m i
    let quantum := bits (o 0) 0 32
    let kids := s.kidsFor m
    let log := bits (o 1) 48 4 + 4
    let ring := bits (o 1) 0 48
    match s.freeTcid with
    | none => refuseMgmt s
    | some t =>
      if quantum < 100 ∨ 100000 < quantum ∨ kids.length ≠ bits (o 0) 32 2 + 1 ∨ 12 < log ∨ ring % 64 ≠ 0 ∨ o 2 % 512 ≠ 0 ∨ o 3 % 65536 ≠ 0 ∨ o 4 % 65536 ≠ 0
          ∨ 0x6000000000 < o 3 + o 4 ∨ s.meetsPool (o 3) (o 4) = true ∨ s.mapsFrames (o 3) (o 4) = true then refuseMgmt s
      else
        (Reply.done [t, packFields (kids.map (fun k => (6, k)))] [],
         Prog.seq
           [purgeKids kids,
            fun s => .proc t { live := true, quantum := quantum, kids := kids, ringVa := ring, ringLog := log, trapVa := o 2, saveBase := o 3, saveSize := o 4
                               wix := 0, lost := 0, digests := [] }
              :: (kids.zipIdx).map (fun x => .keySlot x.1 (Config.randomKey (s.free + x.2))) ++ [.free (s.free + kids.length)]] s)))) s

/-- Ends a region of a process that goes (spec 18 R421): discarded, or released if it runs nothing. -/
def endRegion (blk : Nat) : Prog := fun s =>
  match (s.region blk).state with
  | .free => []
  | .running => discardRegion blk s
  | .trapped => discardRegion blk s
  | .preempting => discardRegion blk s
  | .saved => discardRegion blk s
  | _ => Prog.seq [removeResidue blk, discardCommands blk, releaseRegion blk] s

/-- A command that ends as discarded: nothing more of its chunk is made (spec 18 R438). -/
def Cmd.discarded (c : Cmd) (role : BitVec 26) : Cmd :=
  if c.finished then c else { c.stop 0x0A 0x38 role with asks := [], owes := [], landing := none, gate := none, paused := false }

/-- The commands of an engine for which a test holds end as discarded; their records and signals follow (spec 05 R107, 18 R438). An engine that one
of them froze is free again. -/
def discardFrom (core eng : Nat) (p : Cmd → Bool) : Prog := fun s =>
  let g := s.engine core eng
  let role := s.engineRole core eng
  [.engine (4 * core + eng) { g with
     queue := g.queue.filter (fun c => !p c)
     running := g.running.map (fun c => if p c then c.discarded role else c) ++ (g.queue.filter p).map (fun c => c.discarded role)
     frozen := g.frozen && !((g.queue ++ g.running).any (fun c => c.id = g.frozenAt && p c)) }]

/-- What holds up a DESTROY (spec 02 R45, R52): regions of the process, commands of it, accesses that use its translations or its KIDs. -/
def State.holdsOn (s : State) (t : Nat) : Bool :=
  s.regions.any (fun x => x.2.tcid = t && x.2.state ≠ .free)
    || s.engines.any (fun x => x.2.offers.any (fun o => o.tcid = t) || (x.2.queue ++ x.2.running).any (fun c => c.tcid = t))
    || s.pending.any (fun a => a.tcid = t) || (s.proc t).kids.any s.usesKid

/-- The process runs nothing any more: regions, launches, queues, commands end (spec 18 R421). -/
def endProcess (t : Nat) : Prog := Prog.seq
  [fun s => Prog.forEach ((s.regions.filter (fun x => x.2.tcid = t && x.2.state ≠ .free)).map (fun x => x.1)) endRegion s,
   fun s => [.launches (s.launches.filter (fun l => l.tcid ≠ t)), .saves (s.saves.filter (fun v => v.region.tcid ≠ t))],
   fun s => (s.threads.filter (fun x => x.2.tcid = t)).map (fun x => .thread x.1 Thread.reset),
   fun s => Prog.forEach (s.engines.filter (fun x => x.2.offers.any (fun o => o.tcid = t) || (x.2.queue ++ x.2.running).any (fun c => c.tcid = t && !c.finished)))
     (fun x => Prog.seq
       [fun s => [.engine x.1 { s.engine (x.1 / 4) (x.1 % 4) with offers := x.2.offers.filter (fun o => o.tcid ≠ t) }],
        discardFrom (x.1 / 4) (x.1 % 4) (fun c => c.tcid = t)]) s]

/-- DESTROY (spec 18 R421, 02 R45, R52): what the process runs ends first; once no access uses its translations and KIDs any more, KIDs, cores,
page tables, host key entries and the save pool are released. -/
def execDestroy (m : MgmtPacket) (s : State) : Host.Outcome State Fault Refusal :=
  let t := bits (operandOf m 0) 0 10
  complete (fun s => if (s.mgmtPasses m && (s.proc t).live && s.holdsOn t) = true then endProcess t s else mgmtTurn true m (fun s =>
    if !(s.proc t).live then refuseMgmt s
    else
      let kids := (s.proc t).kids
      let cores := (s.served.filter (fun x => x.2 = t)).map (fun x => x.1)
      (Reply.done [] [],
       Prog.seq
         [endProcess t,
          Prog.forEach cores (fun c => Prog.seq
            [zeroCore c, fun s => (entriesIn s.binding (128 * c) (128 * c + 128)).map (fun x => .bind x.1 0), fun _ => [.served c 0]]),
          fun s => .root t 0 :: s.untranslate (fun e => e.tcid = t) (fun e => e.tcid = t),
          purgeKids kids,
          fun s => (s.hostKeys.filter (fun x => bits x.2.toNat 204 10 = t && x.1 ≠ 0)).map (fun x => .hostKey x.1 0),
          fun _ => [.proc t Proc.reset]] s)) s) s

/-- The thread that serves a queue of a process. -/
def threadOf (tcid queue : Nat) : Nat := 32 * tcid + queue

/-- MAPQ (spec 18 R421, 16 R367): the ring is served from its RIX on. A ring in the window of a gated core waits for its wake (01 R32). -/
def execMapq (m : MgmtPacket) (s : State) : Host.Outcome State Fault Refusal :=
  let t := bits (operandOf m 0) 0 10
  let wakes (s : State) : Option Nat :=
    match s.readChecked (s.foreWho t) ((operandOf m 1 + 8 : Nat) : Int) 8 with | .ok _ => none | .error f => causeCore f.cause
  complete (fun s => match (if s.mgmtPasses m then wakes s else none) with
   | some c => [.gate c .waking]
   | none => mgmtTurn true m (fun s =>
    let q := bits (operandOf m 0) 16 5
    let va := operandOf m 1
    if !(s.proc t).live ∨ (s.thread (threadOf t q)).bound = true ∨ va % 64 ≠ 0 then refuseMgmt s
    else
      let rix := match s.readChecked (s.foreWho t) ((va + 8 : Nat) : Int) 8 with | .ok x => leNat (x.1.map (fun b => b.1)) | .error _ => 0
      (Reply.done [] [], [.thread (threadOf t q) { Thread.reset with bound := true, mapped := s.runPos = t, tcid := t, queue := q, ringVa := va, started := rix }])) s) s

/-- UNMAPQ (spec 18 R421). -/
def execUnmapq (m : MgmtPacket) (s : State) : Host.Outcome State Fault Refusal :=
  complete (mgmtTurn true m (fun s =>
    let x := threadOf (bits (operandOf m 0) 0 10) (bits (operandOf m 0) 16 5)
    if !(s.thread x).bound then refuseMgmt s else (Reply.done [] [], [.thread x Thread.reset]))) s

/-- KEY (spec 18 R417, R421, R423): an entry from 1 on, of the same process. -/
def execKey (m : MgmtPacket) (s : State) : Host.Outcome State Fault Refusal :=
  complete (mgmtTurn true m (fun s =>
    let t := bits (operandOf m 0) 0 10
    let n := bits (operandOf m 0) 16 12
    let v := packFields ((List.range 4).map (fun i => (64, operandOf m (i + 1))))
    if !(s.proc t).live ∨ n = 0 ∨ bits v 204 10 ≠ t then refuseMgmt s else (Reply.done [] [], [.hostKey n (BitVec.ofNat 256 v)]))) s

/-- Runs the requests of a queue pair in order (spec 18 R438): a thaw retries the violating one; one that freezes again keeps the rest. -/
def runRequests (qp : Nat) : List HostReq → Prog
  | [], _ => []
  | r :: l, s =>
    let now := hostArrives qp r s
    now ++ runRequests qp l (s.apply now)

/-- The frozen queue pairs that a ROLE names (log 27). -/
def State.frozenPairs (s : State) (unit : Nat) : List (Nat × List HostReq) :=
  s.qps.filterMap (fun x => match x.2 with | .frozen l => if x.1 % 128 = unit then some (x.1, l) else none | _ => none)

/-- The region, engine, queue pairs or port that a ROLE names, each frozen, with what a thaw and a discard do to it (spec 18 R438). -/
def State.frozenMaster (s : State) (role : Nat) : Option (Prog × Prog) :=
  let kind := bits role 22 4
  let core := bits role 7 9
  let unit := bits role 0 7
  if kind = 1 then
    (match s.regionOf (ekey core unit) with
     | none => none
     | some b => if (s.region b).state = .trapped ∧ (s.region b).cause = 0x52 then some (resume b, discardRegion b) else none)
  else if 2 ≤ kind ∧ kind ≤ 5 then
    (let e := kind - 2
     let g := s.engine core e
     if g.frozen then
       some (fun _ => [.engine (4 * core + e) { g with frozen := false }],
             Prog.seq [discardFrom core e (fun _ => true), fun s => [.engine (4 * core + e) { s.engine core e with frozen := false }]])
     else none)
  else if kind = 6 then
    (let l := s.frozenPairs unit
     if l = [] then none
     else some (Prog.forEach l (fun x => Prog.seq [fun _ => [.qp x.1 .ready], runRequests x.1 x.2]), fun _ => l.map (fun x => .qp x.1 .error)))
  else if kind = 7 then
    (let p := s.port unit
     if p.frozen then
       some (fun _ => [.port unit { p with frozen := false }],
             fun _ => [.port unit { Port.reset with retraining := true, attested := p.attested, keyed := p.keyed, drops := p.drops }])
     else none)
  else none

/-- THAW (spec 18 R438). -/
def execThaw (m : MgmtPacket) (s : State) : Host.Outcome State Fault Refusal :=
  complete (mgmtTurn true m (fun s =>
    match s.frozenMaster (operandOf m 0) with
    | none => refuseMgmt s
    | some p => (Reply.done [] [], p.1 s))) s

/-- DISCARD (spec 18 R438). -/
def execDiscard (m : MgmtPacket) (s : State) : Host.Outcome State Fault Refusal :=
  complete (mgmtTurn true m (fun s =>
    match s.frozenMaster (operandOf m 0) with
    | none => refuseMgmt s
    | some p => (Reply.done [] [], p.2 s))) s

/-- ENROLL (spec 18 R421, R423, R434): installs or revokes an image key. -/
def execEnroll (m : MgmtPacket) (s : State) : Host.Outcome State Fault Refusal :=
  complete (mgmtTurn true m (fun s =>
    let n := bits (operandOf m 0) 0 4
    let b := (operandBytes m).drop 8
    let k : KeySlot := if bits (operandOf m 0) 8 1 = 1 then { state := 1, ecdsa := b.take 96, hss := (b.drop 96).take 60 } else { s.imageKey n with state := 2 }
    (Reply.done [] [], [.rootState { s.root with images := Map.set KeySlot.empty s.root.images n k }]))) s

/-- DOMAIN (spec 18 R421, R423, R427 to R429, 02 R48): refused where a window overlaps a protected pool. -/
def execDomain (m : MgmtPacket) (s : State) : Host.Outcome State Fault Refusal :=
  complete (mgmtTurn true m (fun s =>
    let o (i : Nat) : Nat := operandOf m i
    let win (i : Nat) : Nat := packFields ((List.range 4).map (fun j => (64, o (77 + 4 * i + j))))
    let digest (i : Nat) : BitVec 384 := BitVec.ofNat 384 (packFields ((List.range 6).map (fun j => (64, o (i + j)))))
    if (List.range 64).any (fun i => bits (win i) 96 1 = 1 && s.meetsPool (bits (win i) 0 48) (bits (win i) 48 48)) then refuseMgmt s
    else
      (Reply.done [] [],
       [.pkgNum (bits (o 0) 0 6), .measure 0 (digest 1), .measure 1 (digest 7)]
         ++ (List.range 64).map (fun i => .route i (BitVec.ofNat 64 (o (13 + i)))) ++ (List.range 64).map (fun i => .window i (BitVec.ofNat 256 (win i)))))) s

/-- The VA bits that index a level (spec 02 R46). -/
def levelBits (level : Nat) : Nat := if level = 0 then 5 else 9
/-- Bytes of a table of a level. -/
def tableBytes (level : Nat) : Nat := if level = 0 then 256 else 4096

/-- Whether some leaf under a table maps an address from lo to hi − 1. -/
def State.leafIn (s : State) (lo hi table : Nat) : Bool :=
  s.leafUnder (fun level a => decide (a < hi) && decide (lo < a + 2 ^ levelShift level)) (fun _ _ => true) [3, 2, 1, 0] table 0

/-- A table entry written under KID 0 (spec 02 R47). -/
def writePte (pa w : Nat) : Prog := fun s => s.store 0 pa (leBytes 8 w) (List.replicate 8 false)

/-- A table of a level taken from the pool, zeroed (spec 02 R48, log 10): where it lies. -/
def State.poolAt (s : State) (level : Nat) : Nat := (s.poolNext + tableBytes level - 1) / tableBytes level * tableBytes level
def takeTable (level : Nat) : Prog := fun s => [.clear (s.poolAt level) (s.poolAt level + tableBytes level), .pool (s.poolAt level + tableBytes level)]

/-- Writes a leaf at a level, making the tables above it (spec 02 R46 to R48). -/
def placeLeaf (va leaf target : Nat) : List Nat → Nat → Prog
  | [], _, _ => []
  | level :: rest, table, s =>
    let pa := table + 8 * bits va (levelShift level) (levelBits level)
    if level = target then writePte pa leaf s
    else
      let w := s.pteAt pa
      if bits w 0 1 = 1 then placeLeaf va leaf target rest (bits w 8 40 * 256) s
      else
        let next := s.poolAt (level - 1)
        let l := takeTable (level - 1) s ++ writePte pa (next + 1) (s.apply (takeTable (level - 1) s))
        l ++ placeLeaf va leaf target rest next (s.apply l)

/-- One page of a process mapped. -/
def mapPage (tcid va leaf target : Nat) : Prog := fun s =>
  let r := Map.get 0 s.roots tcid
  if r = 0 then
    let l := takeTable 3 s ++ [.root tcid (s.poolAt 3)]
    l ++ placeLeaf va leaf target [3, 2, 1, 0] (s.poolAt 3) (s.apply l)
  else placeLeaf va leaf target [3, 2, 1, 0] r s

/-- The level that holds leaves of a page-size code (spec 02 R46). -/
def leafLevel (size : Nat) : Nat := match size with | 0 => 0 | 1 => 1 | _ => 2

/-- MAP (spec 18 R421, R423, 02 R47, R48): refused where a leaf would be malformed, a frame overlaps a protected pool, or a VA is mapped. -/
def execMap (m : MgmtPacket) (s : State) : Host.Outcome State Fault Refusal :=
  complete (mgmtTurn true m (fun s =>
    let t := bits (operandOf m 0) 0 10
    let size := bits (operandOf m 0) 16 2
    let page := 2 ^ pageBits size
    let va := operandOf m 1
    let leaf := operandOf m 2
    let n := bits (operandOf m 3) 0 32
    let at_ (i : Nat) : Nat := leaf + i * page
    if !(s.proc t).live ∨ size = 3 ∨ va % page ≠ 0 ∨ n = 0 ∨ 2 ^ 48 < va + n * page ∨ bits leaf 0 2 ≠ 3 then refuseMgmt s
    else if (List.range n).any (fun i => s.pteBad (leafLevel size) (at_ i)
        || (bits leaf 57 6 = s.pkgNum && s.meetsPool (bits (at_ i) 8 40 * 256) page)) then refuseMgmt s
    else if s.leafIn va (va + n * page) (Map.get 0 s.roots t) && Map.get 0 s.roots t ≠ 0 then refuseMgmt s
    else
      let l := Prog.forEach (List.range n) (fun i => mapPage t (va + i * page) (at_ i) (leafLevel size)) s
      if poolEnd < (s.apply l).poolNext then refuseMgmt s else (Reply.done [] [], l))) s

/-- Removes the leaf of a page at a level, if it is there. -/
def removeLeaf (va target : Nat) : List Nat → Nat → Prog
  | [], _, _ => []
  | level :: rest, table, s =>
    let pa := table + 8 * bits va (levelShift level) (levelBits level)
    let w := s.pteAt pa
    if bits w 0 1 = 0 then []
    else if level = target then (if bits w 1 1 = 1 then writePte pa 0 s else [])
    else if bits w 1 1 = 1 then []
    else removeLeaf va target rest (bits w 8 40 * 256) s

/-- Whether accesses issued with a translation of a range are still to be performed (spec 02 R52). -/
def State.usesRange (s : State) (tcid lo hi : Nat) : Bool :=
  s.pending.any (fun a => a.tcid = tcid && decide (a.va < hi) && decide (lo < a.va + Nat.max a.size 1))

/-- The translations of a range leave every buffer, and the walkers' pointer entries for it (spec 02 R52). -/
def State.invalidated (s : State) (tcid lo hi : Nat) : List Effect :=
  s.untranslate
    (fun e => e.tcid = tcid && decide (e.vpage * 2 ^ pageBits e.size < hi) && decide (lo < (e.vpage + 1) * 2 ^ pageBits e.size))
    (fun e => e.tcid = tcid && decide (e.prefix_ * 2 ^ levelShift e.level < hi) && decide (lo < (e.prefix_ + 1) * 2 ^ levelShift e.level))

/-- TLB_INVALIDATE (spec 02 R52): complete once every access that used such a translation has been performed. -/
def execTlbInvalidate (tcid lo hi : Nat) (s : State) : Host.Outcome State Fault Refusal :=
  complete (fun s => if s.usesRange tcid lo hi then [] else s.invalidated tcid lo hi) s

/-- UNMAP (spec 18 R421, R423, 02 R52): waits until every access that used a translation of the range has been performed; then the leaves
and the translations held go, and it replies. -/
def execUnmap (m : MgmtPacket) (s : State) : Host.Outcome State Fault Refusal :=
  let t := bits (operandOf m 0) 0 10
  let size := bits (operandOf m 0) 16 2
  let page := 2 ^ pageBits size
  let va := operandOf m 1
  let n := bits (operandOf m 3) 0 32
  complete (fun s =>
    if s.usesRange t va (va + n * page) then []
    else mgmtTurn true m (fun s =>
      if !(s.proc t).live ∨ size = 3 ∨ va % page ≠ 0 ∨ n = 0 ∨ 2 ^ 48 < va + n * page then refuseMgmt s
      else
        (Reply.done [] [],
         Prog.seq
           [fun s => if Map.get 0 s.roots t = 0 then [] else
              Prog.forEach (List.range n) (fun i => removeLeaf (va + i * page) (leafLevel size) [3, 2, 1, 0] (Map.get 0 s.roots t)) s,
            fun s => s.invalidated t va (va + n * page)] s)) s) s

/-- A byte string of exactly n bytes. -/
def sized (n : Nat) (l : List Byte) : List Byte := l.take n ++ List.replicate (n - l.length) 0

/-- Bytes of a key slot in the digest of a report (spec 18 R436). -/
def KeySlot.bytes (k : KeySlot) : List Byte :=
  leBytes 1 k.state ++ (if k.state = 0 then List.replicate 156 0 else sized 96 k.ecdsa ++ sized 60 k.hss)

/-- The signed part of an attestation report (spec 18 R436); `t` is the TCID that the request gave. -/
def State.reportBody (s : State) (t : Option Nat) (nonce : List Byte) : List Byte :=
  let ds := match t with | some t => (s.proc t).digests | none => []
  let kept := ds.drop (ds.length - 4096)
  leBytes 4 1 ++ leBytes 4 (3964 + 48 * kept.length) ++ digestBytes (digest384 (sized 96 Config.deviceEcdsa ++ sized 60 Config.deviceHss)) ++ leBytes 4 s.root.version ++ leBytes 4 s.root.minVersion
    ++ digestBytes (digest384 s.root.running) ++ digestBytes (digest384 (sized 96 s.root.owner.ecdsa ++ sized 60 s.root.owner.hss))
    ++ digestBytes (digest384 ((List.range 16).flatMap (fun i => (s.imageKey i).bytes)))
    ++ leBytes 8 (bit01 s.cons + 2 * bit01 s.consBusy) ++ leBytes 4 (match t with | some t => t + 2 ^ 31 | none => 0)
    ++ leBytes 4 kept.length ++ leBytes 8 (ds.length - 4096) ++ kept.flatMap digestBytes ++ nonce

/-- ATTEST (spec 18 R435, R436): the leaf is spent before the signature is released; none left, no report. -/
def execAttest (m : MgmtPacket) (s : State) : Host.Outcome State Fault Refusal :=
  complete (mgmtTurn false m (fun s =>
    if 2 ^ 40 ≤ s.root.leaves then refuseMgmt s
    else
      let w := operandOf m 4
      let b := s.reportBody (if bits w 15 1 = 1 then some (bits w 0 10) else none) ((operandBytes m).take 32)
      (Reply.done [] (b ++ sized 3700 (Config.deviceSign s.root.leaves b)),
       [.rootState { s.root with leaves := s.root.leaves + 1 }, s.countEvent 405 3]))) s

/-- TELEM (spec 18 R440, R441): records as they stand; refused where they do not fit the table or the reply area. In recovery only attestation is
answered (R431). -/
def execTelem (m : MgmtPacket) (s : State) : Host.Outcome State Fault Refusal :=
  complete (Prog.when State.running (mgmtTurn false m (fun s =>
    let first := bits (operandOf m 0) 0 9
    let n := bits (operandOf m 0) 16 10
    if n = 0 ∨ 512 < first + n ∨ 0x100000 < mgmtReplyAt m + 64 + 64 * n then refuseMgmt s
    else (Reply.done [] ((List.range n).flatMap (fun i => leBytes 64 (Map.get 0 s.telemetry (first + i)).toNat)), [])))) s

/-- KEY_SLOT_WRITE (spec 02 R44, R45, 18 R437): a key from the random generator, once no translation, line or access uses the slot. -/
def execKeySlotWrite (kid : Nat) (s : State) : Host.Outcome State Fault Refusal :=
  complete (fun s =>
    if kid = 0 ∨ 64 ≤ kid ∨ (s.tlb.any (fun x => x.2.any (fun e => leafKid e = kid))) = true
        ∨ (s.cache.any (fun x => x.2.kid = kid)) = true ∨ s.usesKid kid = true then []
    else [.keySlot kid (Config.randomKey s.free), .free (s.free + 1)]) s

/-- KID_PURGE (spec 02 R45): complete once every access with the KID that the node accepted has been performed. -/
def execKidPurge (die kid : Nat) (s : State) : Host.Outcome State Fault Refusal :=
  complete (fun s =>
    if s.pending.any (fun a => a.pkg = s.pkgNum && a.kid = kid && a.pa / 0x1800000000 = die) then []
    else s.purged (fun d => d = die) kid) s

/-- The packet that the management ring holds next (spec 18 R422): its slot, BLEN bytes of operands as words, its signature record. -/
def State.nextManagement (s : State) : MgmtPacket :=
  let at_ (off n : Nat) : List Byte := s.readBytes 0 (mgmtBase + off) n
  let slot := Sys2Proof.commandOf (leNat (at_ (0x40 + 64 * (s.mgmtRix % 64)) 64))
  let body := wfield slot.w1 0 20
  let blen := wfield slot.w1 32 20
  let fits : Bool := decide (0x10000 ≤ body) && decide (body + blen ≤ 0xC0000)
  let sig := (body + blen + 63) / 64 * 64
  let n := up64 (112 + (if natAt (at_ sig 16) 9 1 = 2 then 3604 else 1776))
  { slot := slot
    operands := if fits then (List.range (blen / 8)).map (fun i => BitVec.ofNat 64 (leNat (at_ (body + 8 * i) 8))) else []
    sig := if fits then at_ sig n else [] }

end Sys2Proof.Machine
end

