-- ==== Sys2Proof/Machine/Peers.lean ====
section
/-! DEFINITION. Peer ports and the load-store domain (spec 18 R424 to R429): the Daxara link, attestation of neighbours, requests and refusals. -/

namespace Sys2Proof.Machine

/-- Whether a frame number comes before another, modulo 2^24 (spec 18 R424). -/
def seqBefore (a b : Nat) : Bool := decide ((b + 2 ^ 24 - a % 2 ^ 24 - 1) % 2 ^ 24 < 2 ^ 23)
def nextSeq (a : Nat) : Nat := (a + 1) % 2 ^ 24

/-- Whether a peer port carries Daxara traffic (spec 18 R428, R425). -/
def State.portUp (s : State) (port : Nat) : Bool :=
  s.running && decide (port < 12) && (s.port port).attested && (s.port port).keyed && !(s.port port).failed

/-- An acknowledgement (spec 18 R425): the frames before the number expected are done with; progress starts the count of resends again. -/
def Port.ackTo (p : Port) (ack : Nat) : Port :=
  let l := p.replay.filter (fun x => !seqBefore x.1 ack)
  { p with replay := l, acked := ack % 2 ^ 24
           resends := if l.length < p.replay.length then 0 else p.resends
           retraining := p.retraining && decide (p.replay.length ≤ l.length) }

/-- Sends every frame of the replay buffer again, the oldest first, and counts it (spec 18 R425, R440). -/
def resendAll (port : Nat) : Prog := fun s =>
  let p := s.port port
  if p.replay = [] then []
  else p.replay.map (fun x => .reply (.frame port 0 x.1)) ++ [.port port { p with resends := p.resends + 1 }, s.countEvent (portRecord port) 2]

/-- Whether the fields of a data frame are legal and its sequence number is the one expected (spec 18 R424, R425). -/
def Port.takes (p : Port) (f : Frame) : Bool :=
  f.good && f.seq = p.rxNext && decide (f.vc < 7) && f.flits.length % 64 = 0 && decide (64 ≤ f.flits.length) && decide (f.flits.length ≤ 8192)

/-- A tracked request's answer for what was asked of other packages. -/
def Ask.answered (l : List Ask) (a : PeerAnswer) : List Ask :=
  l.map (fun x => if x.tag = a.tag then { x with got := some (sized x.size a.data, a.pois) } else x)

/-- An answer for an access (spec 18 R429): it is performed; load data go back to their element. -/
def accessAnswered (a : PeerAnswer) : Prog := fun s =>
  match s.pending.find? (fun x => x.id = a.tag && x.sent) with
  | none => []
  | some x =>
    .pending (s.pending.filter (fun y => y.id ≠ a.tag))
      :: (match x.op with
          | .load ret at_ => [.returned (s.returned ++ [{ key := x.key, ret := ret, at_ := at_, data := sized x.size a.data, pois := a.pois ≠ 0 }])]
          | _ => [])

/-- Bytes for a firing or a command that has asked for them. -/
def asksAnswered (a : PeerAnswer) : Prog := fun s =>
  (s.elems.filter (fun x => x.2.asks.any (fun y => y.tag = a.tag))).map (fun x => .elem x.1 { x.2 with asks := Ask.answered x.2.asks a })
    ++ (s.engines.filter (fun x => x.2.running.any (fun c => c.asks.any (fun y => y.tag = a.tag)))).map (fun x =>
      .engine x.1 { x.2 with running := x.2.running.map (fun c => { c with asks := Ask.answered c.asks a }) })

/-- The answer to a child launch: 0 has no bytes, else the status with which the command stops (spec 16 R386, log 48). -/
def Landing.childAnswer (d : Landing) (l : List Byte) : Landing :=
  match l with
  | [] => d
  | b :: _ => { d with stop := some (b.toNat, if b.toNat = 6 then 0x51 else 0x35) }

/-- A write of a command is performed (spec 05 R107 to R109): after the last of its chunk the chunk lands. -/
def owedAnswered (a : PeerAnswer) : Prog := fun s =>
  Prog.forEach (s.engines.flatMap (fun x => (x.2.running.filter (fun c => c.owes.contains a.tag)).map (fun c => (x.1, c.id)))) (fun q s =>
    let g := s.engine (q.1 / 4) (q.1 % 4)
    Prog.seq
      [fun _ => [.engine q.1 (g.update q.2 (fun c =>
         { c with owes := c.owes.filter (fun n => n ≠ a.tag)
                  landing := if q.1 % 4 = 3 then c.landing.map (fun d => d.childAnswer a.data) else c.landing }))],
       fun s =>
         if (s.engine (q.1 / 4) (q.1 % 4)).running.any (fun c => c.id = q.2 && c.owes.isEmpty && c.landing.isSome) then landChunk (q.1 / 4) (q.1 % 4) q.2 s
         else []] s) s

/-- An access of a queue's packet is performed: after the last the packet completes (spec 16 R370). -/
def packetAnswered (a : PeerAnswer) : Prog := fun s =>
  Prog.forEach (s.threads.flatMap (fun x => (x.2.owes.filter (fun o => o.1 = a.tag)).map (fun o => (x.1, o.2)))) (fun q s =>
    Prog.seq
      [fun s => [.thread q.1 { s.thread q.1 with owes := (s.thread q.1).owes.filter (fun o => o.1 ≠ a.tag) }],
       fun s => if (s.thread q.1).owes.any (fun o => o.2 = q.2) then [] else completePacket q.1 q.2 s] s) s

/-- The answer for a word of the accumulate network (spec 14 R320, R329, R339): a contribution is added, or refused with a cause; a bind is
answered with its code, COUNT, DIX, GEN and exponent (log 34). -/
def wordAnswered (a : PeerAnswer) : Prog := fun s =>
  match s.asked.find? (fun x => x.1 = a.tag) with
  | none => []
  | some x =>
    .asked (s.asked.filter (fun y => y.1 ≠ a.tag))
      :: (match x.2 with
          | .contrib _ pkg core ent _ dix gen src chain =>
            (match a.data with
             | [] => []
             | c :: _ => [.accNet (s.accNet ++ [.refusal pkg core ent dix gen c.toNat src chain])])
          | .bindReq pkg core _ _ _ src chain =>
            [.accNet (s.accNet ++ [.bindAns pkg core (natAt a.data 0 1) (natAt a.data 1 2) (natAt a.data 3 1) (BitVec.ofNat 13 (natAt a.data 4 2))
              (BitVec.ofNat 9 (natAt a.data 6 2)) src chain])]
          | _ => [])

/-- AN ANSWER OF ANOTHER PACKAGE (spec 18 R429): what waits for the request with its tag goes on. -/
def peerAnswered (a : PeerAnswer) : Prog :=
  Prog.seq [accessAnswered a, asksAnswered a, owedAnswered a, packetAnswered a, wordAnswered a]

/-- Whether a virtual channel carries responses (spec 18 R424, 14 R316): responses, refusals, bind answers. -/
def answerVc (vc : Nat) : Bool := vc = 1 || vc = 4 || vc = 6

/-- DAXARA_DATA_FRAME (spec 18 R425, R426, R438): accepted, acknowledged, its credits returned, the answers in it delivered; any other is dropped
with a NAK. A frozen port accepts none. The requests in a frame are events of their own (PEER_REQUEST). -/
def execDaxaraDataFrame (port : Nat) (fr : Frame) (s : State) : Host.Outcome State Fault Refusal :=
  complete (fun s =>
    let p := s.port port
    if !s.running || decide (12 ≤ port) || p.frozen || p.failed || !p.attested then []
    else if !p.keyed then dropFrame port s
    else if p.takes fr then
      let q := match fr.ack with | some a => p.ackTo a | none => p
      Prog.seq
        [fun _ => [.port port { q with rxNext := nextSeq p.rxNext, retraining := false }, .reply (.frame port 1 (nextSeq p.rxNext)),
           .reply (.frame port 3 (fr.flits.length / 64 * 2 ^ (8 * fr.vc)))],
         if answerVc fr.vc then Prog.forEach (Config.answersOf fr.flits) peerAnswered else Prog.skip] s
    else
      [.port port { p with naks := p.naks + 1 }, .reply (.frame port 2 p.rxNext)] ++ (if fr.good then [] else [s.countEvent (portRecord port) 1])) s

/-- DAXARA_ACK (spec 18 R425). -/
def execDaxaraAck (port ack : Nat) (s : State) : Host.Outcome State Fault Refusal :=
  complete (fun s => if s.portUp port then [.port port ((s.port port).ackTo ack)] else []) s

/-- DAXARA_NAK (spec 18 R425): frames before its number have arrived; the others are sent again. -/
def execDaxaraNak (port ack : Nat) (s : State) : Host.Outcome State Fault Refusal :=
  complete (Prog.when (fun s => s.portUp port) (Prog.seq [fun s => [.port port ((s.port port).ackTo ack)], resendAll port])) s

/-- DAXARA_CREDIT (spec 18 R424, R426): flits returned for VC 0 to 6. -/
def execDaxaraCredit (port : Nat) (credits : List Nat) (s : State) : Host.Outcome State Fault Refusal :=
  complete (fun s =>
    let p := s.port port
    if s.portUp port then
      [.port port { p with credits := (List.range 7).foldl (fun m v => Map.set 0 m v (Map.get 0 m v + credits.getD v 0 % 256)) p.credits }]
    else []) s

/-- REPLAY_TIMEOUT (spec 18 R425): the oldest frame has gone unacknowledged for 20 µs. -/
def execReplayTimeout (port : Nat) (s : State) : Host.Outcome State Fault Refusal :=
  complete (Prog.when (fun s => s.portUp port) (resendAll port)) s

/-- LINK_RETRAIN (spec 18 R425): after 16 resends without progress. -/
def execLinkRetrain (port : Nat) (s : State) : Host.Outcome State Fault Refusal :=
  complete (fun s =>
    let p := s.port port
    if s.portUp port && decide (16 ≤ p.resends) && !p.retraining then
      [.port port { p with retraining := true, resends := 0 }, s.countEvent (portRecord port) 0]
    else []) s

/-- Whether the request with this number left through a port. -/
def State.sentThrough (s : State) (port tag : Nat) : Bool :=
  s.replies.any (fun m => match m with | .peer r => r.tag = tag && r.port = port | _ => false)

/-- What commands and packets await from requests that will not be answered (spec 05 R109, 16 R370): a command stops with status 6 and cause 0x51, a
queue with the cause; firings and commands that asked for bytes meet the failed link at their next turn. -/
def requestsLost (lost : Nat → Bool) : Prog := Prog.seq
  [fun s => (s.elems.filter (fun x => x.2.asks.any (fun a => a.got.isNone && lost a.tag))).map (fun x =>
     .elem x.1 { x.2 with asks := x.2.asks.filter (fun a => a.got.isSome || !lost a.tag) }),
   fun s => (s.engines.filter (fun x => x.2.running.any (fun c => c.owes.any lost || c.asks.any (fun a => a.got.isNone && lost a.tag)))).map (fun x =>
     .engine x.1 { x.2 with running := x.2.running.map (fun c =>
       let c := { c with asks := c.asks.filter (fun a => a.got.isSome || !lost a.tag) }
       if !c.owes.any lost then c
       else if c.finished then { c with owes := [] }
       else { c.stop 6 0x51 (s.engineRole (x.1 / 4) (x.1 % 4)) with owes := [], landing := none }) }),
   fun s => Prog.forEach (s.threads.flatMap (fun x => (x.2.owes.filter (fun o => lost o.1)).map (fun o => (x.1, o.2)))) (fun q s =>
     Prog.seq
       [fun s => [.thread q.1 { s.thread q.1 with owes := (s.thread q.1).owes.filter (fun o => !lost o.1) }],
        stopQueue q.1 q.2 0x51] s) s]

/-- The words that will not be answered: contributions are refused, an ACHAIN traps (spec 14 R337, 17 R401). -/
def wordsLost (lost : Nat → Bool) : Prog := fun s =>
  let l := s.asked.filter (fun x => lost x.1)
  .asked (s.asked.filter (fun x => !lost x.1)) :: Prog.forEach l (fun x => wordLost x.2) (s.perform (.asked (s.asked.filter (fun x => !lost x.1))))

/-- LINK_FAILED (spec 18 R425, 17 R401): what the link was to deliver completes with cause 0x51 and the package that cannot be reached. -/
def execLinkFailed (port : Nat) (s : State) : Host.Outcome State Fault Refusal :=
  complete (fun s =>
    let p := s.port port
    if s.portUp port && p.retraining then
      Prog.seq
        [fun s => [.port port { p with failed := true, retraining := false, replay := [], outq := [] }, s.countEvent (portRecord port) 4],
         fun s => Prog.forEach (s.pending.filter (fun a => a.pkg ≠ s.pkgNum && s.portTo a.pkg = port)) (fun a s => s.loseAccess a (linkFail a.pkg a.pa)) s,
         requestsLost (s.sentThrough port), wordsLost (s.sentThrough port)] s
    else []) s

/-- PEER_ATTESTATION (spec 18 R428, R436): the neighbour's report against the measurements of DOMAIN; a port that passes is admitted, with the
keys bound to the reports and the credits of R426; one that fails carries nothing (log 35). -/
def execPeerAttestation (port : Nat) (report : List Byte) (s : State) : Host.Outcome State Fault Refusal :=
  complete (fun s =>
    if !s.running || decide (12 ≤ port) then []
    else
      let ok : Bool := natAt report 0 4 = 1 && natAt report 64 48 = (Map.get 0 s.measures 0).toNat && natAt report 112 48 = (Map.get 0 s.measures 1).toNat
        && Config.reportGenuine report
      .port port { s.port port with attested := ok, keyed := ok }
        :: (if ok then [.reply (.frame port 3 (packFields (List.replicate 7 (8, 64))))] else [])) s

/-- PEER_REQUEST (spec 18 R429). A frozen port accepts no frame. -/
def execPeerRequest (r : PeerReq) (s : State) : Host.Outcome State Fault Refusal :=
  complete (Prog.when (fun s => s.portUp r.port && !(s.port r.port).frozen) (peerAccess r)) s

/-- What waits for a request that another package refused waits no more (spec 18 R429, 17 R401): an access is not performed; an LDA or AMO in
progress ends without its steps; a command's chunk has not moved a byte (05 R109), and is made again after a thaw. -/
def requestRefused (tag : Nat) : Prog := Prog.seq
  [fun s => [.pending (s.pending.filter (fun a => !(a.id = tag && a.sent))), .asked (s.asked.filter (fun x => x.1 ≠ tag))],
   fun s => (s.elems.filter (fun x => x.2.asks.any (fun a => a.tag = tag))).map (fun x => .elem x.1 { x.2 with asks := [], busy := none }),
   fun s => s.engines.flatMap (fun x =>
     match x.2.running.find? (fun c => c.owes.contains tag || c.asks.any (fun a => a.tag = tag)) with
     | none => []
     | some d => [.engine x.1 { x.2.update d.id (fun c => { c with owes := [], asks := [], landing := none, sent := c.sent && x.1 % 4 ≠ 3 }) with frozenAt := d.id }]),
   fun s => Prog.forEach (s.threads.flatMap (fun x => (x.2.owes.filter (fun o => o.1 = tag)).map (fun o => (x.1, o.2)))) (fun q s =>
     Prog.seq
       [fun s => [.thread q.1 { s.thread q.1 with owes := (s.thread q.1).owes.filter (fun o => o.1 ≠ tag) }],
        stopQueue q.1 q.2 0x12] s) s]

/-- An ACHAIN whose bind request was refused ends without its steps: its region stops (spec 17 R401). -/
def bindRefused (tag : Nat) : Prog := fun s =>
  match s.asked.find? (fun x => x.1 = tag) with
  | some (_, .bindReq _ _ _ _ _ src chain) =>
    (match s.bindFiring src chain with
     | some fr => [.elem src { fr.e.setBind chain .idle with busy := none }]
     | none => [])
  | _ => []

/-- PEER_REFUSAL (spec 18 R429, 17 R401): the issuer of the request is frozen. -/
def execPeerRefusal (r : PeerReq) (s : State) : Host.Outcome State Fault Refusal :=
  complete (Prog.when (fun s => s.portUp r.port && !(s.port r.port).frozen && r.srcPkg = s.pkgNum)
    (Prog.seq [bindRefused r.tag, requestRefused r.tag, freezeMaster (BitVec.ofNat 26 r.issuer) r.pa (peerKind r.op)])) s

/-- The frames that wait at a port and may leave now (spec 18 R425, R426): while the link works, the replay buffer has room for them and their
VC has credits. -/
def sendFrames (port : Nat) : Nat → Prog
  | 0, _ => []
  | fuel + 1, s =>
    let p := s.port port
    match p.outq with
    | [] => []
    | f :: rest =>
      let n := f.flits.length / 64
      if p.retraining || p.failed || !s.portUp port || decide (256 ≤ p.replay.length) || decide (Map.get 0 p.credits f.vc < n) then []
      else
        let l : List Effect := [.port port { p with outq := rest, replay := p.replay ++ [(p.txNext, { f with seq := p.txNext })], txNext := nextSeq p.txNext
                                                    credits := Map.set 0 p.credits f.vc (Map.get 0 p.credits f.vc - n) },
          .reply (.frame port 0 p.txNext)]
        l ++ sendFrames port fuel (s.apply l)

end Sys2Proof.Machine
end

