-- ==== Sys2Proof/Machine/Power.lean ====
section
/-! DEFINITION. Boot and the owner keys (spec 18 R431, R434), lifetime telemetry (R440), the fabric clock, emergencies and loss of power (R442). -/

namespace Sys2Proof.Machine

/-- Whether a firmware image may run (spec 18 R431): both signatures of the Azdal keys, and its version. -/
def State.imageRuns (s : State) (img : List Byte) : Bool :=
  ({ state := 1, ecdsa := Config.azdalEcdsa, hss := Config.azdalHss } : KeySlot).verifies (Config.firmwareBody img) (Config.firmwareEcdsa img) (Config.firmwareHss img)
    && decide (s.root.minVersion ≤ Config.firmwareVersion img)

/-- Foreveder's own page table (spec 18 R422, log 10): 16 pages of 64 KiB at virtual address 0, read and write. -/
def ownTables : Prog := fun s =>
  let t := mgmtBase + 0x100000
  let w (pa v : Nat) : Prog := writePte pa v
  Prog.seq
    [fun _ => [.clear t (t + 0x3100)],
     w t (t + 0x1000 + 1), w (t + 0x1000) (t + 0x2000 + 1), w (t + 0x2000) (t + 0x3000 + 1),
     Prog.forEach (List.range 16) (fun i => w (t + 0x3000 + 8 * i) (mgmtBase + 0x10000 * i + 0x1B)),
     fun _ => [.root 0 t, .pool (t + 0x3100)]] s

/-- Host key entry 0 (spec 18 R422): RKEY 1, QPN 1, TCID 0, VA 0, LEN 1 MiB, RD and W. -/
def managementKey : BitVec 256 := BitVec.ofNat 256 (packFields [(48, 0), (48, 0), (48, 0x100000), (48, 0), (1, 1), (1, 1), (1, 1), (9, 0), (10, 0), (10, 1), (32, 1)])

/-- Foreveder starts (spec 18 R422, R431): the management area with its ring, its own page table, host key entry 0. -/
def startFirmware (img : List Byte) : Prog := Prog.seq
  [fun s => [.rootState { s.root with phase := .normal, version := Config.firmwareVersion img, running := img }, .clear mgmtBase (mgmtBase + 0x100000)],
   areaWrite 16 (leBytes 8 6),
   ownTables,
   fun _ => [.hostKey 0 managementKey]]

/-- BOOT (spec 18 R431): the first image that verifies runs; if none does, the device stays in recovery. -/
def execBoot (s : State) : Host.Outcome State Fault Refusal :=
  complete (fun s =>
    if s.root.phase ≠ .reset then []
    else
      Prog.seq
        [fun s => [s.countEvent 405 1],
         if s.imageRuns s.root.primary then startFirmware s.root.primary
         else if s.imageRuns s.root.backup then startFirmware s.root.backup
         else fun s => [.rootState { s.root with phase := .recovery }]] s) s

/-- OWNER_KEY_PROVISIONING (spec 18 R434): once, by verified firmware. -/
def execOwnerKeyProvisioning (ecdsa hss : List Byte) (s : State) : Host.Outcome State Fault Refusal :=
  complete (fun s =>
    if s.running && s.root.owner.state = 0 && ecdsa.length = 96 && hss.length = 60 then
      [.rootState { s.root with owner := { state := 1, ecdsa := ecdsa, hss := hss } }]
    else []) s

/-- TELEMETRY_UPDATE (spec 18 R440): a record takes its counts; the reserved records read as zero. -/
def execTelemetryUpdate (rec : Nat) (counts : BitVec 512) (s : State) : Host.Outcome State Fault Refusal :=
  complete (fun _ => if rec < 406 then [.telemetry rec counts] else []) s

/-- CLOCK_THROTTLE (spec 18 R442): one step down, not below 1.5 GHz; how far a step goes is a free value (log 4). Clock in MHz. -/
def execClockThrottle (s : State) : Host.Outcome State Fault Refusal :=
  complete (fun s =>
    if s.clock ≤ 1500 then [] else [.clock (1500 + (Config.freeValue s.free).toNat % (s.clock - 1500)), .free (s.free + 1)]) s

/-- CLOCK_RESTORE (spec 18 R442): one step up, not above 2.25 GHz (00 R5); how far is a free value (log 4). -/
def execClockRestore (s : State) : Host.Outcome State Fault Refusal :=
  complete (fun s =>
    if 2250 ≤ s.clock then [] else [.clock (s.clock + 1 + (Config.freeValue s.free).toNat % (2250 - s.clock)), .free (s.free + 1)]) s

/-- EMERGENCY_STOP (spec 18 R442, 17 R401): every running region stops with cause 0x56, and may be discarded only. -/
def execEmergencyStop (s : State) : Host.Outcome State Fault Refusal :=
  complete (Prog.seq
    [fun s => [s.countEvent 405 2],
     fun s => Prog.forEach (s.liveRegions.filter (fun b => (s.region b).state = .running || (s.region b).state = .preempting)) (fun b s =>
       s.asyncStop b 0x56 5 (elemIx ((s.regionElems b).headD 0)) 0) s]) s

/-- POWER_LOSS (spec 18 R435, R440): the device stops; an HSS leaf may be skipped, never used again: whether one is, is a free value (log 4). -/
def execPowerLoss (s : State) : Host.Outcome State Fault Refusal :=
  complete (fun s =>
    [.power false, .rootState { s.root with leaves := s.root.leaves + (Config.freeValue s.free).toNat % 2 }, .free (s.free + 1)]) s

end Sys2Proof.Machine
end

