-- ==== Sys2Proof/Machine/Duration.lean ====
section
/-! DEFINITION. Which slot of an element fires (spec 07 R154 to R157); how many cycles a firing takes (spec 07 R158, 09 R190, R198, 11 R253, 13 R298, 14 R318, R323), and what an element does in the
cycles of a firing before its last (log 3). -/

namespace Sys2Proof.Machine

/-- Whether a slot of the current context is strict, and its priority class (spec 08 R165). -/
def State.slotField (s : State) (key n : Nat) : Slot := (slotOf (s.slotBitsAt key (s.elem key).ctx.toNat n)).2

/-- The loss counter of a slot; it is promoted from 16 on (spec 07 R156). -/
def Elem.lossOf (e : Elem) (n : Nat) : Nat := Map.get 0 e.loss n

/-- The better of two eligible slots, the second of a higher index (spec 07 R155). -/
def better (loss pcl : Nat → Nat) (a b : Nat) : Nat :=
  if 16 ≤ loss a ∨ 16 ≤ loss b then (if loss a < loss b then b else a) else if pcl b < pcl a then b else a

/-- The slot that fires among the eligible ones (spec 07 R155): the promoted one with the largest counter, else the lowest class. -/
def chooseSlot (loss pcl : Nat → Nat) : List Nat → Option Nat
  | [] => none
  | n :: l => some (l.foldl (better loss pcl) n)

/-- The slot that an element's turn runs: the firing in progress, or the choice among the eligible (spec 07 R155, R158). -/
def State.slotToRun (s : State) (key : Nat) : Option Nat :=
  match (s.elem key).busy with
  | some n => some n
  | none => chooseSlot (s.elem key).lossOf (fun n => (s.slotField key n).pcl.toNat) (s.readySlots key)

/-- Whether the lanes of a packet, of an operand that is no constant, exceed 128 bits. -/
def Packet.wide (p : Packet) : Bool := decide (128 < p.lanes * lwBits p.lw)
def Opnd.wide (o : Opnd) : Bool := !o.isConst && o.pkt.wide

/-- Whether an operand that the instruction reads exceeds 128 bits. -/
def State.operandWide (s : State) (i : Instr) (fr : Fire) : Bool :=
  match i.encRow with
  | none => false
  | some r =>
    (r.aSel ≠ 0 && (match s.opA fr with | some a => a.wide | none => false)) || (r.bSel ≠ 0 && (match s.opB fr with | some b => b.wide | none => false))

/-- Whether the result exceeds 128 bits: the packet that the firing pushes or the entry that it writes; `e` is the element after it. -/
def Fire.resultWide (fr : Fire) (e : Elem) : Bool :=
  (List.range 6).any (fun o => fr.f.om.getLsbD o && (fr.e.out o).isNone && (match e.out o with | some p => p.wide | none => false))
    || (fr.f.dwe && decide (128 < (e.dReg fr.f.dd.toNat).len.toNat * lwBits (e.dReg fr.f.dd.toNat).lw))

/-- The scratchpad offsets that a firing of a scratchpad element touches (spec 09 R190 to R194, 12 R277). -/
def State.padSpan (s : State) (op : Nat) (fr : Fire) : List Int :=
  match op with
  | 0x79 => (match s.opA fr with
    | some a => if a.pkt.isData && a.pkt.crd then fr.desc.touched (a.entries.map (fun x => (x.1.key.toNat, x.2))) else []
    | none => [])
  | 0x90 => fr.fixedBytes (fr.f.md.toNat % 8 + 1)
  | 0x91 => (match s.opA fr with | some a => (fr.fixedBytes a.pkt.lanes).filter (fun x => decide (x < 32768)) | none => [])
  | 0x92 => fr.affine
  | 0x93 => fr.affine
  | 0x94 => (match s.opA fr with | some x => fr.desc.touched x.indices | none => [])
  | 0x95 => (match s.opA fr, s.opB fr with | some x, some b => fr.desc.touched ((fr.storeIndices x b).getD []) | _, _ => [])
  | 0x96 => (match s.opA fr, s.opB fr with | some x, some b => fr.desc.touched ((fr.storeIndices x b).getD []) | _, _ => [])
  | _ => []

/-- The distinct lines of offsets. -/
def linesIn (l : List Int) : List Nat := l.foldl (fun m a => Nats.add m (spadOff a / 64)) []

/-- The cycles that entries take at the eight adders of a core: entry n at adder n mod 8, one a cycle each (spec 04 R95, 14 R318). -/
def adderCycles (l : List Nat) : Nat := (List.range 8).foldl (fun m i => Nat.max m (l.filter (fun n => n % 8 = i)).length) 1

/-- The entries that an AADD, AWR or ACLR reaches (spec 14 R331, R333). -/
def State.adderSpan (s : State) (op : Nat) (fr : Fire) : List Nat :=
  if op = 0xD7 then
    (match s.descLanes fr 2 with | .ok l => (List.range (l.getD 1 0)).map (fun i => l.getD 0 0 + i) | .error _ => [])
  else if op = 0xD3 ∧ fr.md 0 = true then
    (match s.opB fr, s.pinOf fr.key with | some b, some p => if b.bp 0 then [] else (List.range p.n).map (fun i => b.nat 0 + i) | _, _ => [])
  else
    (match s.opA fr, s.opB fr with
     | some a, some b =>
       (List.range (Nat.max (if fr.fmt = 16 then a.pkt.lanes / 2 else a.count) b.count)).filterMap (fun i => if b.bp i then none else some (b.bl i))
     | _, _ => [])

/-- THE DURATION of a firing that completes (spec 07 R158); `e` is the element after it. -/
def State.firingCycles (s : State) (i : Instr) (fr : Fire) (e : Elem) : Nat :=
  let op := (i.encRow.map (fun r => r.op)).getD 0
  match siteType (elemIx fr.key) with
  | .ve => if s.operandWide i fr || fr.resultWide e then 2 else 1
  | .le => if s.operandWide i fr || fr.resultWide e then 2 else 1
  | .se => if op = 0x9A then (fr.lineCount + 3) / 4 else Nat.max 1 (linesIn (s.padSpan op fr)).length
  | .me => if op = 0xC2 then (if fr.fmt = 1 then 16 else if fr.fmt = 13 ∨ fr.fmt = 14 then 4 else 8) else if op = 0xC8 then 8 else 1
  | .ae =>
    if op = 0xD3 ∨ op = 0xD4 ∨ op = 0xD7 then adderCycles (s.adderSpan op fr)
    else if (op = 0xD5 ∨ op = 0xD6) ∧ fr.resultWide e then 2 else 1
  | .st => 1

/-- The firing that begins in this turn and takes more than one cycle, if any: its slot and its cycles. A firing that waits for something outside
the element, and one that traps, has no duration of its own. -/
def State.longFiring (old new : State) (i : Instr) (key : Nat) : Option (Nat × Nat) :=
  if (old.elem key).busy.isSome || (new.elem key).busy.isSome || (new.elem key).trap.isSome then none
  else
    match old.slotToRun key with
    | none => none
    | some n =>
      let d := old.firingCycles i (old.firingOf key n) (new.elem key)
      if 2 ≤ d then some (n, d) else none

/-- The lines of a scratchpad that a firing reads, as they stand (spec 09 R190). -/
def State.latched (s : State) (key : Nat) (op n : Nat) : List (Nat × List Byte × BitVec 2) :=
  (linesIn (s.padSpan op (s.firingOf key n))).map (fun line =>
    let a := spadBase (coreOf key) (elemIx key) + 64 * line
    (a, (List.range 64).map (fun j => s.spadByte key (a + j)), BitVec.ofNat 2 (bit01 (s.sectorPoisoned (a / 32)) + 2 * bit01 (s.sectorPoisoned (a / 32 + 1)))))

/-- A firing of d cycles begins (spec 07 R158): none of its steps happens before its last (R159). -/
def beginLong (i : Instr) (key n d : Nat) : Prog := fun s =>
  let e := s.elem key
  [.elem key { e with busy := some n, left := d - 2, cons := s.consOf key e
                      latch := if siteType (elemIx key) = .se then s.latched key ((i.encRow.map (fun r => r.op)).getD 0) n else [] },
   .move key]

/-- A cycle of a firing before its last. -/
def passCycle (key : Nat) : Prog := fun s => [.elem key { s.elem key with left := (s.elem key).left - 1 }, .move key]

end Sys2Proof.Machine
end

