-- ==== Sys2Proof/Machine/Arbiter.lean ====
section
/-! DEFINITION. What moves when: the loss counters (spec 07 R156), the events of a cycle in the model's order (log 3), what the
controllers do at the start of each cycle, and the fetch of what a turn executes. -/

namespace Sys2Proof.Machine

/-- The loss counters after a free cycle in which `ready` were eligible and `fired` fired (spec 07 R156). -/
def Elem.recount (e : Elem) (str : Nat → Bool) (ready : List Nat) (fired : Option Nat) : Elem :=
  { e with loss := (List.range 16).foldl (fun m n =>
      Map.set 0 m n (if str n ∨ fired = some n ∨ !ready.contains n then 0 else Nat.min (e.lossOf n + 1) 511)) [] }

/-- What ends an element's turn (spec 07 R156): the counters of a free cycle, held otherwise. A slot that trapped did not fire. `old` is the
state before the turn. -/
def endElement (old : State) (key : Nat) : Prog := fun s =>
  let e := s.elem key
  if !old.isFree key then (if e.busy.isNone && e.latch ≠ [] then [.elem key { e with latch := [] }] else [])
  else
    let fired := if (s.elem key).trap.isSome then none else old.slotToRun key
    [.elem key ((s.elem key).recount (fun n => (old.slotField key n).str) (old.readySlots key) fired)]

/-- The read and write index of a queue's ring, if it can be read (spec 16 R367). -/
def State.ringWord (s : State) (t i : Nat) : Option Nat :=
  match s.readChecked (s.foreWho (s.thread t).tcid) (((s.thread t).ringVa + 8 * i : Nat) : Int) 8 with
  | .ok x => some (leNat (x.1.map (fun b => b.1)))
  | .error _ => none

/-- The 64 B slot with a number of a queue's ring (spec 16 R367). -/
def State.ringSlot (s : State) (t n : Nat) : Option Command :=
  let log := bits ((s.ringWord t 2).getD 0) 0 5
  match s.readChecked (s.foreWho (s.thread t).tcid) (((s.thread t).ringVa + 64 + 64 * (n % 2 ^ log) : Nat) : Int) 64 with
  | .ok x => some (Sys2Proof.commandOf (leNat (x.1.map (fun b => b.1))))
  | .error _ => none

/-- The packet that a thread's turn runs: the one not started yet, or the FENCEQ that blocks it (spec 16 R369). -/
def State.ringPacket (s : State) (t : Nat) : Option QPacket :=
  let x := s.thread t
  match x.block with
  | .fenceq p => some p
  | _ =>
    match s.ringSlot t x.started with
    | none => none
    | some c => some { first := c, second := (if wfield c.w0 16 3 = 1 then s.ringSlot t (x.started + 1) else none).getD (Sys2Proof.commandOf 0) }

/-- The gated core whose window holds what a thread must read of its ring, if any (spec 01 R32). -/
def State.ringGate (s : State) (t : Nat) : Option Nat :=
  let x := s.thread t
  let gate (off n : Nat) : Option Nat :=
    match s.readChecked (s.foreWho x.tcid) ((x.ringVa + off : Nat) : Int) n with | .ok _ => none | .error f => causeCore f.cause
  let slot (n : Nat) : Nat := 64 + 64 * (n % 2 ^ bits ((s.ringWord t 2).getD 0) 0 5)
  if !(x.bound && x.mapped && !x.stopped) then none
  else [(0, 8), (16, 8), (slot x.started, 64), (slot (x.started + 1), 64)].findSome? (fun q => gate q.1 q.2)

/-- Whether a mapped queue holds packets that its thread has not started (spec 16 R367). -/
def State.hasPackets (s : State) (t : Nat) : Bool :=
  let x := s.thread t
  x.bound && x.mapped && !x.stopped && (match s.ringWord t 0 with | some w => decide (x.started < w) | none => false)

/-- Whether the management ring holds a packet (spec 18 R422). -/
def State.hasManagement (s : State) : Bool := s.root.phase ≠ .reset && decide (s.mgmtRix < leNat (s.readBytes 0 mgmtBase 8))

/-- Elements whose core runs. -/
def State.liveKeys (s : State) : List Nat := (s.elems.map (fun x => x.1)).filter (fun k => s.powerOf (coreOf k) = .on)

/-- Links and header latches (spec 06 R125, R130). -/
def State.linkTurns (s : State) (k : Nat) : List Turn :=
  (List.range 5).filterMap (fun o => if ((s.elem k).out o).isSome || ((s.elem k).byp o).isSome then some (.event (.linkTransfer k o)) else none)
def State.latchTurns (s : State) (k : Nat) : List Turn :=
  (List.range 6).filterMap (fun q => match (s.elem k).queue q with | p :: _ => if p.kind = kHdr then some (.event (.headerLatch k q)) else none | [] => none)

/-- Waves (spec 06 R138, R139). -/
def State.waveTurns (s : State) (k : Nat) : List Turn :=
  let e := s.elem k
  if (List.range 6).any (fun q => match e.queue q with | p :: _ => p.kind = kWave | [] => false) ∨ e.commits ≠ [] then
    [.event (.commitWave k), .event (.switchWave k), .event (.withy k)]
  else []

/-- Firings, and what an accumulate element does on its own (spec 07 R155, 14 R329, R337). -/
def State.fireTurns (s : State) (k : Nat) : List Turn :=
  let e := s.elem k
  (if e.refRec.isSome then [.event (.refusalTrap k)] else [])
    ++ e.binds.filterMap (fun b => match b.2 with | .again _ => some (.event (.bindRetry k b.1)) | _ => none)
    ++ (if e.active || e.busy.isSome then [.element k] else [])

/-- Join unit, return buffer, row intake (spec 06 R132, 09 R199, 13 R295). -/
def State.unitTurns (s : State) (k : Nat) : List Turn :=
  let e := s.elem k
  (if e.active && hdrJm (s.header k e.ctx.toNat) ≠ 0 then [.event (.joinStep k)] else [])
    ++ (if e.ret.isEmpty then [] else [.event (.returnBufferDrain k)])
    ++ (if siteType (elemIx k) = .me && !(e.queue 3).isEmpty then [.event (.rowIntake k)] else [])

/-- The element whose oy the region controller of a core accepts next, round-robin (spec 12 R279). -/
def State.portNext (s : State) (core : Nat) : Option Nat :=
  let last := Map.get 127 s.portLast core
  ((List.range 128).map (fun i => ekey core ((last + 1 + i) % 128))).find? (fun k => ((s.elem k).out 5).isSome)

/-- The acceptance of a core's local port, and what it and the waiting tasks deliver (spec 12 R279, R280). -/
def State.acceptTurns (s : State) (core : Nat) : List Turn := match s.portNext core with | some k => [.event (.localPortAccept k)] | none => []
def State.portTurns (s : State) (core : Nat) : List Turn :=
  (if (Map.get [] s.lport core).isEmpty then [] else [.event (.localPortDeliver core)])
    ++ ((List.range (Map.get [] s.taskWait core).length).reverse).map (fun n => .event (.taskDeliver core n))

/-- The engines of a core (spec 05 R103 to R108). -/
def State.engineTurns (s : State) (k : Nat) (g : Engine) : List Turn :=
  let c := k / 4
  let e := k % 4
  if s.powerOf c ≠ .on then []
  else
    (if g.offers.isEmpty then [] else [.event (.engineCommandAccept c e)])
      ++ (if g.queue.isEmpty then [] else [.event (.engineCommandStart c e)])
      ++ (List.range g.running.length).filterMap (fun i => match g.running[i]? with | some m => if g.mayRun m then some (.command c e i) else none | none => none)
      ++ ((List.range g.running.length).reverse).map (fun i => .event (.engineCommandComplete c e i))

/-- The event of a word of the accumulate network (spec 14 R316). -/
def wordTurn (n : Nat) (w : AccWord) : Turn :=
  match w with
  | .contrib _ _ _ _ _ _ _ _ _ => .event (.contributionArrival n)
  | .marker _ _ _ _ _ _ => .event (.markerArrival n)
  | .unbind _ _ _ _ _ _ => .event (.unbindArrival n)
  | .refusal _ _ _ _ _ _ _ _ => .event (.refusalArrival n)
  | .bindReq _ _ _ _ _ _ _ => .event (.bindRequest n)
  | .bindAns _ _ _ _ _ _ _ _ _ => .event (.bindAnswer n)

/-- Memory, networks and load data (spec 15 R343, 14 R316, 09 R199, 16 R386). -/
def State.fabricTurns (s : State) : List Turn :=
  s.pending.map (fun a => .event (.memoryAccess a.id))
    ++ (s.accNet.zipIdx.reverse).map (fun x => wordTurn x.2 x.1)
    ++ ((List.range s.returned.length).reverse).map (fun n => .event (.loadDataReturn n))
    ++ (s.taskNet.zipIdx.reverse).filterMap (fun x => match x.1 with | .child _ _ _ _ _ _ _ => some (.event (.childLaunchReceive x.2)) | _ => none)

/-- The turns of Foreveder (spec 16 R365 to R371, R383, 18 R422). -/
def State.queueTurns (s : State) : List Turn :=
  (s.threads.map (fun x => x.1)).filterMap (fun t =>
    match (s.thread t).block with
    | .waitq _ _ _ _ => some (.event (.waitqEvaluate t))
    | .fenceq _ => some (.thread t)
    | .launch _ => none
    | .none => if (s.thread t).awake then some (.thread t) else none)
  ++ (if s.hasManagement then [.management] else [])
  ++ s.launches.flatMap (fun l =>
    (if l.delta.isSome then [.event (.deltaApply l.id)] else [])
      ++ (if l.waiting then
            (match s.readContainer (s.foreWho l.tcid) l.img with
             | .ok (c, _) => (match s.choose l.tcid l.plan c with | some p => [.event (.launchPlacement l.id p)] | none => [])
             | .error _ => [.event (.launchPlacement l.id [])])
          else []))

/-- The turns of a region block (spec 16 R377, R386, 17 R403 to R407). -/
def State.regionTurns (s : State) (b : Nat) : List Turn :=
  let r := s.region b
  let c := b / 16
  let i := b % 16
  let late : Bool := match s.windowOf c with | some w => decide (w ≤ r.quiet) | none => false
  match r.state with
  | .running => [.event (.invocationCompletion c i)] ++ (if late then [.event (.deadlock c i)] else [])
  | .preempting => [.event (.invocationCompletion c i), .event (.cutComplete c i), .event (.cutOverdue c i)]
  | .completing => [.event (.invocationCompletion c i)]
  | .idle => if r.children.isEmpty then [] else [.event (.childStart c i)]
  | _ => []

/-- Lines that have been pending for 2^20 counted cycles (spec 04 R93). -/
def State.timeoutTurns (s : State) (k : Nat) : List Turn :=
  (s.elem k).pend.filterMap (fun p => if 2 ^ 20 ≤ p.2.2 then some (.event (.pendingLineTimeout (coreOf k) (spadIndex (elemIx k)) p.1)) else none)

/-- THE EVENTS OF A CYCLE, in the model's order (log 3): ports and links, whose registers then have space (06 R125), and deliveries, which see the
queues as the cycle began; latches, waves; wakes and what came from outside, which a commit of the cycle leaves staged (07 R146);
firings, units, engines, memory and networks, Foreveder, regions. -/
def State.cycleTurns (s : State) : List Turn :=
  let ks := s.liveKeys
  let cores := (List.range 384).filter (fun c => s.powerOf c = .on && (!(Map.get [] s.lport c).isEmpty || !(Map.get [] s.taskWait c).isEmpty
    || s.elems.any (fun x => coreOf x.1 = c && (x.2.out 5).isSome)))
  cores.flatMap s.acceptTurns ++ ks.flatMap s.linkTurns ++ cores.flatMap s.portTurns ++ ks.flatMap s.latchTurns ++ ks.flatMap s.waveTurns
    ++ (s.gated.filterMap (fun x => if x.2 = .waking then some (.event (.wakeComplete x.1)) else none))
    ++ (s.inputs.take 1).map Turn.event
    ++ ks.reverse.flatMap s.fireTurns ++ ks.flatMap s.unitTurns ++ s.engines.flatMap (fun x => s.engineTurns x.1 x.2) ++ s.fabricTurns ++ s.queueTurns
    ++ s.regions.flatMap (fun x => s.regionTurns x.1) ++ ks.flatMap s.timeoutTurns
    ++ (if s.consBusy then [.event .consChangeComplete] else [])

/-- Whether a region has requests under way, for the detector (spec 17 R403). -/
def State.awaits (s : State) (b : Nat) : Bool :=
  let ks := s.regionElems b
  let mine (w : AccWord) : Bool := match w.contributor with | some k => ks.contains k | none => false
  let task (t : Task) : Bool := match t with | .data _ _ src _ => ks.contains src | .child _ _ _ _ _ _ _ => false
  s.pending.any (fun a => ks.contains a.key) || s.returned.any (fun r => ks.contains r.key)
    || (List.range 4).any (fun e => (s.engine (b / 16) e).running.any (fun c => ks.any (fun k => c.src = .elem k)))
    || s.accNet.any mine || s.asked.any (fun x => mine x.2) || ks.any (fun k => (s.elem k).inj.any mine || (s.elem k).feed.isSome || (s.elem k).asks ≠ [])
    || s.heldq.any (fun x => x.2.any (fun h => match h with | .word w => mine w | .task t => task t | .staging x => ks.contains x.src | _ => false))
    || s.cfgNet.any (fun x => ks.contains x.src) || s.taskNet.any task || s.taskWait.any (fun x => x.2.any task) || s.lport.any (fun x => x.2.any (fun p => ks.contains p.src))

/-- The detector's count of a region over the cycle that ends (spec 17 R403). -/
def countQuiet (b : Nat) : Prog := fun s =>
  let r := s.region b
  if r.state ≠ .running then []
  else
    let ks := s.regionElems b
    let still : Bool := !(ks.any s.moved.contains) && !s.awaits b && (decide (r.snkd < r.snkx) || ks.any (fun k => !(s.elem k).qs.isEmpty || !(s.elem k).qj.isEmpty))
    let n := if still then r.quiet + 1 else 0
    if n = r.quiet then [] else [.region b { r with quiet := n }]

/-- Whether the next word of an element's injection buffer stays in its core (spec 14 R318). -/
def State.localWord (s : State) (k : Nat) : Option Bool :=
  match (s.elem k).inj with
  | [] => none
  | w :: _ => some (decide ((w.path s.pkgNum).toPkg = s.pkgNum) && decide ((w.path s.pkgNum).toCore = coreOf k))

/-- The next word of an element's injection buffer goes on the network. -/
def injectWord (k : Nat) : Prog := fun s =>
  let e := s.elem k
  match e.inj with
  | [] => []
  | w :: rest => [.accNet (s.accNet ++ [w]), .elem k { e with inj := rest }]

/-- The words that the accumulate elements of a core send in a cycle (spec 14 R318, R340): each one to its own core; of those for the router one,
round-robin. -/
def sendWords (core : Nat) : Prog := fun s =>
  let last := Map.get 127 s.injLast core
  let ks := (List.range 128).map (fun i => ekey core ((last + 1 + i) % 128))
  Prog.seq
    [Prog.forEach (ks.filter (fun k => s.localWord k = some true)) injectWord,
     match ks.find? (fun k => s.localWord k = some false) with
     | some k => Prog.seq [injectWord k, fun _ => [.injLast core (elemIx k)]]
     | none => Prog.skip] s

/-- The cores with words to send. -/
def State.sendingCores (s : State) : List Nat :=
  (s.liveKeys.filter (fun k => !(s.elem k).inj.isEmpty)).foldl (fun acc k => Nats.add acc (coreOf k)) []

/-- A wave that the controller injects reaches qy, one a cycle (spec 06 R140). -/
def injectNext (k : Nat) : Prog := fun s =>
  match (s.elem k).inject with
  | [] => []
  | p :: rest =>
    let gone : Effect := .elem k { s.elem k with inject := rest }
    match (s.perform gone).arrive k 5 p with
    | none => []
    | some l => gone :: l ++ [.fresh (qyMark k)]

/-- Whether a region is pre-empting or saved. -/
def State.cutting (s : State) (b : Option Nat) : Bool :=
  match b with
  | some b => (s.region b).state = .preempting || (s.region b).state = .saved
  | none => false

/-- Whether the command with this number is stopped because the region that issued it is pre-empting or saved (spec 04 R93, 05 R110). -/
def State.cmdCut (s : State) (id : Nat) : Bool :=
  s.engines.any (fun g => (g.2.queue ++ g.2.running).any (fun c =>
    c.id = id && c.paused && (match c.src with | .elem k => s.cutting (s.regionOf k) | .thread _ _ => false)))
  || s.saves.any (fun v => v.cmds.any (fun x => x.2.id = id))

/-- The counted cycles of pending lines (spec 04 R93): held while the marking command is stopped so, or the element's region pre-empting or saved. -/
def countPending (k : Nat) : Prog := fun s =>
  let e := s.elem k
  if e.pend.isEmpty ∨ s.cutting (s.regionOf k) = true then []
  else [.elem k { e with pend := e.pend.map (fun p => if s.cmdCut p.2.1 then p else (p.1, p.2.1, p.2.2 + 1)) }]

/-- A write index that is ahead wakes the thread of a mapped queue; a thread that has caught up sleeps (spec 16 R367). A ring in the window of a
gated core wakes it. -/
def wakeThread (t : Nat) : Prog := fun s =>
  let x := s.thread t
  let w := s.hasPackets t
  (match s.ringGate t with | some c => [.gate c .waking] | none => []) ++ (if x.awake = w then [] else [.thread t { x with awake := w }])

/-- The turn of the run list, once the quantum is over and some process lives (spec 16 R371). -/
def turnRunList : Prog :=
  Prog.when (fun s => decide (s.turnAt ≤ s.cycle.toNat) && s.procs.any (fun x => x.2.live)) runListTurn

/-- A NEW CYCLE (log 3): the detector's counts, the cycle counter (12 R286), what the controllers and networks do of themselves, the agenda. -/
def newCycle : Prog := Prog.seq
  [fun s => stageAll s.cfgNet s,
   fun s => Prog.forEach (s.regions.map (fun x => x.1)) countQuiet s,
   fun s => [.newCycle (s.cycle + 1)],
   fun s => Prog.forEach ((s.elems.filter (fun x => x.2.stopIn ≠ 0)).map (fun x => x.1)) stopArrives s,
   fun s => Prog.forEach s.sendingCores sendWords s,
   fun s => Prog.forEach s.liveKeys injectNext s,
   fun s => s.routeTasks s.taskNet [],
   fun s => Prog.forEach ((s.regions.filter (fun x => x.2.tv && !x.2.told && s.stopsDone x.1)).map (fun x => x.1)) trapEntry s,
   fun s => Prog.forEach s.liveKeys countPending s,
   turnRunList,
   fun s => Prog.forEach (s.threads.map (fun x => x.1)) wakeThread s,
   fun s => Prog.forEach (s.ports.map (fun x => x.1)) (fun p s => sendFrames p (s.port p).outq.length s) s,
   fun s => [.inputs (s.inputs.drop 1), .agenda s.cycleTurns, .focus .none]]

/-- What a turn executes, and the focus that it gives (spec 07 R155, 05 R103, 16 R369, 18 R422): the slot chosen from the element's image,
the command, the packet, the event. -/
def State.fetch (s : State) (t : Turn) : Option (Instr × Focus) :=
  match t with
  | .element k =>
    let ctx := (s.elem k).ctx.toNat
    (match (if (s.elem k).busy.isSome && (s.elem k).left ≠ 0 then none else s.slotToRun k) with
     | none => none
     | some n => (match decodeSlot (s.slotBitsAt k ctx n) with | .ok i => some (i, .slot k ctx n) | .error _ => none))
  | .command c e i =>
    (match (s.engine c e).running[i]? with
     | none => none
     | some m => (match decodeCommand m.c with | .ok j => some (j, .command c e i) | .error _ => none))
  | .thread x =>
    (match s.ringPacket x with
     | none => none
     | some p => (match decodeQueue p with | .ok i => some (i, .thread x) | .error _ => none))
  | .management => some (decodeManagement s.nextManagement, .management)
  | .event i => some (i, .none)

/-- What ends a turn, or is done where it executes nothing: loss counters, a cycle of a firing in progress; a packet that is no packet stops its
queue (spec 16 R368). -/
def endTurn (old : State) (ran : Bool) (t : Turn) : Prog :=
  match t with
  | .element k => if (old.elem k).busy.isSome && (old.elem k).left ≠ 0 then passCycle k else endElement old k
  | .thread x =>
    if ran then Prog.skip else fun s => if old.hasPackets x && (old.ringGate x).isNone then stopQueue x (s.thread x).started 0x0B s else []
  | _ => Prog.skip

/-- The state after a turn that executed i: `old` is the state before it, `new` what the meaning of i made of it. A firing of several cycles only
begins: it is executed in its last (spec 07 R158, R159). -/
def afterTurn (old new : State) (i : Instr) (t : Turn) : State :=
  match t with
  | .element k =>
    (match old.longFiring new i k with
     | some x => old.run (Prog.seq [beginLong i k x.1 x.2, endElement old k])
     | none => new.run (endTurn old true t))
  | _ => new.run (endTurn old true t)

/-- The parity trap of an element that is free again (spec 06 R120, R122): before its turn. -/
def beginTurn (t : Turn) : Prog := fun s =>
  match t with
  | .element k => ((List.range 6).findSome? (fun q => if s.parityTrap k q = [] then none else some (s.parityTrap k q))).getD []
  | _ => []

end Sys2Proof.Machine
end

