-- ==== Sys2Proof/Machine/Lookup.lean ====
section
/-! DEFINITION. The lookup element: its function table, range reduction and recombination (spec 11 R252 to R259). -/

namespace Sys2Proof.Machine

/-- A word of the function table and its flag (spec 11 R252). -/
def Elem.lutWord (e : Elem) (j : Nat) : Nat := (Map.get 0 e.lut j).toNat
def Elem.lutFlag (e : Elem) (j : Nat) : Bool := Map.get false e.lutp j

/-- Fields of the table: intercept and slope of entry j, LO and SH, SLO and SHI. -/
def Elem.lutIcpt (e : Elem) (j : Nat) : Val := floatVal 8 (e.lutWord j % 2 ^ 32)
def Elem.lutSlope (e : Elem) (j : Nat) : Val := floatVal 8 (e.lutWord j / 2 ^ 32)
def Elem.lutLo (e : Elem) : Val := floatVal 8 (e.lutWord 256 % 2 ^ 32)
def Elem.lutSh (e : Elem) : Int := signExt 8 (bits (e.lutWord 256) 32 8)
def Elem.lutSlo (e : Elem) : Val := floatVal 8 (e.lutWord 257 % 2 ^ 32)
def Elem.lutShi (e : Elem) : Val := floatVal 8 (e.lutWord 257 / 2 ^ 32)

/-- The integer part (towards −∞) of a finite value. -/
def floorOf : Val → Int
  | .fin n m e => if 0 ≤ e then sgn n m * ((2 ^ e.toNat : Nat) : Int) else sgn n m / ((2 ^ (-e).toNat : Nat) : Int)
  | _ => 0

/-- The table's function at x before rounding, and the flags it reads (spec 11 R255); an exactly zero sum takes its sign from the mode
(R241). -/
def Elem.lutEval (e : Elem) (rm : RMode) (x : Val) : Val × Bool :=
  if x.isNan then (.nan, false)
  else if Val.lt x e.lutLo then (e.lutSlo, e.lutFlag 257)
  else if Val.le (Val.add .rne e.lutLo (.fin false 1 (8 - e.lutSh))) x then (e.lutShi, e.lutFlag 257)
  else
    let u := (Val.add .rne x e.lutLo.negate).scale e.lutSh
    let j := (floorOf u).toNat
    let t := Val.add .rne u (Val.ofInt (-(j : Int)) 0)
    (Val.add rm (Val.mul (e.lutSlope j) t) (e.lutIcpt j), e.lutFlag j)

/-- One evaluated lane of LUTE. -/
def luteLane (fr : Fire) (x : LaneIn) (r : BitVec 32) : Nat × Bool :=
  let y := fr.e.lutEval fr.rm (x.va fr.fmt)
  (fr.rho r y.1, x.pa || fr.e.lutFlag 256 || y.2)

/-- Pair mode of LUTE: even lanes are evaluated, odd lanes copied (spec 11 R255). -/
def lutePairs (fr : Fire) (a : Opnd) : List Nat → BitVec 32 → List (Nat × Bool) × BitVec 32
  | [], r => ([], r)
  | i :: l, r =>
    if i % 2 = 1 then
      let q := lutePairs fr a l r
      (a.raw i :: q.1, q.2)
    else if fr.active true i then
      let r' := if fr.rm = .sr then srNext r else r
      let q := lutePairs fr a l r'
      (luteLane fr { laneIn none none none i with a := (a.raw i).1, pa := (a.raw i).2, ha := a.hdr.pay } r' :: q.1, q.2)
    else
      let q := lutePairs fr a l r
      ((if fr.zeroing then (0, false) else a.raw i) :: q.1, q.2)

/-- LUTE (spec 11 R255). -/
def execLute (f : Slot) (s : State) : Host.Outcome State Fault Refusal :=
  fire f (fun fr s => s.withA fr (fun a =>
    if fr.md 0 then fr.widthOk [a] (
      if a.pkt.lanes % 2 = 1 then lengthErr 2 a.pkt.lanes
      else
        let q := lutePairs fr a (List.range a.pkt.lanes) fr.e.rng
        .done (fr.lanesRng q.1 q.2))
    else fr.laneWise (some a) none none true true (luteLane fr) (fun _ _ d => .done d))) s

/-- LUTI (spec 11 R256): a poisoned index gives zero, poisoned (09 R189). -/
def execLuti (f : Slot) (s : State) : Host.Outcome State Fault Refusal :=
  oneOp f (fun fr _ a =>
    let l := a.values
    let bad := packFields (l.map (fun x => (1, bit01 (!x.2 && decide (255 < x.1)))))
    if bad ≠ 0 then rangeErr bad ((l.find? (fun x => !x.2 && decide (255 < x.1))).getD (0, false)).1
    else
      let vs := l.map (fun x =>
        if x.2 then (Val.fin false 0 0, true)
        else (if fr.md 0 then fr.e.lutSlope x.1 else fr.e.lutIcpt x.1, fr.e.lutFlag x.1))
      let q := fr.roundAll fr.fmt vs
      .done (let d := fr.result (fr.pack (some a) q.1); { d with e := { d.e with rng := q.2 } })) s

/-- Whether a word may not be TC0 (spec 11 R254). -/
def tc0Bad (w : Nat) : Bool :=
  bits w 40 24 ≠ 0 || !(floatVal 8 (w % 2 ^ 32)).isFinite || decide (signExt 8 (bits w 32 8) < -16) || decide (24 < signExt 8 (bits w 32 8))

/-- LUTW (spec 11 R254): a constant A has 64-bit lanes (07 R147); a poisoned start writes nothing and is counted (09 R189). -/
def execLutw (f : Slot) (s : State) : Host.Outcome State Fault Refusal :=
  fire f (fun fr s => s.withAAt fr 64 (fun a => s.withB fr (fun b =>
    match badWidth 3 [a] with
    | some p => .err 0x22 (widthDetail 3 p.lw)
    | none =>
      let l := a.raws
      let start := b.nat 0
      if b.bp 0 then .done { fr.plain with errs := 1 }
      else if start + l.length - 1 > 257 || (l.zipIdx).any (fun x => start + x.2 = 256 && tc0Bad x.1.1) then rangeErr 1 start
      else
        let e := (l.zipIdx).foldl (fun e x =>
          { e with lut := Map.set 0 e.lut (start + x.2) (BitVec.ofNat 64 x.1.1), lutp := Map.set false e.lutp (start + x.2) x.1.2 }) fr.e
        .done { fr.plain with e := e }))) s

/-- LCLAMP (spec 11 R257). -/
def execLclamp (f : Slot) (s : State) : Host.Outcome State Fault Refusal :=
  fire f (fun fr s => s.withAB fr (fun a b => fr.widthOk [a, b] (
    if b.pkt.lanes < 2 then lengthErr 2 a.pkt.lanes
    else
      let lo := b.value fr.fmt (b.raw 0).1
      let hi := b.value fr.fmt (b.raw 1).1
      let bp := (b.raw 0).2 || (b.raw 1).2
      fr.laneWise (some a) none none false true (fun x r =>
        let v := x.va fr.fmt
        let y := if v.isNan || lo.isNan || hi.isNan || Val.lt hi lo then Val.nan
                 else if Val.lt v lo then lo else if Val.lt hi v then hi else v
        (fr.rho r y, x.pa || bp)) (fun _ _ d => .done d)))) s

/-- The pair (r, k) of a value (spec 11 R258); an exactly zero difference takes its sign from the mode (R241). -/
def reduceVal (rm : RMode) (mode : Nat) (mag : Bool) (x : Val) : Val × Val :=
  let one : Val := .fin false 1 0
  if mode = 0 then
    match x with
    | .nan => (.nan, .nan)
    | .inf n => (.fin false 0 0, .inf n)
    | .fin n m e => if m = 0 then (.fin false 0 0, .fin false 0 0)
                    else
                      let k := floorOf (.fin n m e)
                      (Val.add rm x (Val.ofInt (-k) 0), Val.ofInt k 0)
  else
    let x := if mag then x.abs else x
    match x with
    | .nan => (.nan, .nan)
    | .inf n => if n then (.nan, .nan) else (one, .inf false)
    | .fin n m e =>
      if m = 0 then (one, .inf true)
      else if n then (.nan, .nan)
      else
        let k := expoOf m e - 1
        let k := if mode = 2 ∧ k % 2 ≠ 0 then k - 1 else k
        ((Val.fin false m e).scale (-k), Val.ofInt k 0)

/-- RRED (spec 11 R258). -/
def execRred (f : Slot) (s : State) : Host.Outcome State Fault Refusal :=
  oneOp f (fun fr _ a =>
    let n := a.pkt.lanes
    if 2 * n > fr.most then lengthErr (fr.most / 2) n
    else
      let vs := a.raws.flatMap (fun x =>
        let q := reduceVal fr.rm (fr.f.md.toNat % 4) (fr.md 2) (a.value fr.fmt x.1)
        [(q.1, x.2), (q.2, x.2)])
      let q := fr.roundAll fr.fmt vs
      .done (fr.lanesRng q.1 q.2)) s

/-- Whether a finite value is an integer. -/
def wholeOf : Val → Option Int
  | .fin n m e =>
    if 0 ≤ e then some (sgn n m * ((2 ^ (Int.toNat (min e 200)) : Nat) : Int))
    else if Nat.log2 m < (-e).toNat then (if m = 0 then some 0 else none)
    else if m % 2 ^ (-e).toNat = 0 then some (sgn n (m / 2 ^ (-e).toNat)) else none
  | _ => none

/-- RCOMB's value of a pair (spec 11 R259). -/
def recombine (rm : RMode) (mode : Nat) (y k : Val) : Val :=
  if mode = 3 then Val.add rm y k
  else
    let neg := mode = 1 ∨ mode = 2
    match k with
    | .nan => .nan
    | .inf n => Val.mul y (if decide neg != n then .fin false 0 0 else .inf false)
    | .fin _ _ _ =>
      match wholeOf k with
      | none => .nan
      | some i =>
        if mode = 2 then (if i % 2 = 0 then y.scale (-(i / 2)) else .nan)
        else y.scale (if mode = 1 then -i else i)

/-- RCOMB (spec 11 R259). -/
def execRcomb (f : Slot) (s : State) : Host.Outcome State Fault Refusal :=
  oneOp f (fun fr _ a =>
    let n := a.pkt.lanes
    if n % 2 = 1 then lengthErr 2 n
    else
      let mode := fr.f.md.toNat % 4
      let vs := (List.range (n / 2)).map (fun i =>
        let y := a.value fr.fmt (a.raw (2 * i)).1
        let k := a.value fr.fmt (a.raw (2 * i + 1)).1
        (recombine fr.rm mode y k, (a.raw (2 * i)).2 || (a.raw (2 * i + 1)).2))
      let q := fr.roundAll fr.fmt vs
      .done (fr.lanesRng q.1 q.2)) s

end Sys2Proof.Machine
end

