-- ==== Sys2Proof/Machine/Dispatch.lean ====
section
/-! DEFINITION. The meaning of every instruction: one arm a constructor, each a call of its meaning. -/

namespace Sys2Proof.Machine

def exec (i : Instr) (s : State) : Host.Outcome State Fault Refusal :=
  match i with
  | .nop f => Sys2Proof.Machine.execNop f s
  | .add f => Sys2Proof.Machine.execAdd f s
  | .sub f => Sys2Proof.Machine.execSub f s
  | .adds f => Sys2Proof.Machine.execAdds f s
  | .subs f => Sys2Proof.Machine.execSubs f s
  | .mul f => Sys2Proof.Machine.execMul f s
  | .mulh f => Sys2Proof.Machine.execMulh f s
  | .mulhn f => Sys2Proof.Machine.execMulhn f s
  | .madd f => Sys2Proof.Machine.execMadd f s
  | .abs f => Sys2Proof.Machine.execAbs f s
  | .neg f => Sys2Proof.Machine.execNeg f s
  | .min f => Sys2Proof.Machine.execMin f s
  | .max f => Sys2Proof.Machine.execMax f s
  | .minn f => Sys2Proof.Machine.execMinn f s
  | .maxn f => Sys2Proof.Machine.execMaxn f s
  | .and f => Sys2Proof.Machine.execAnd f s
  | .or f => Sys2Proof.Machine.execOr f s
  | .xor f => Sys2Proof.Machine.execXor f s
  | .andn f => Sys2Proof.Machine.execAndn f s
  | .shl f => Sys2Proof.Machine.execShl f s
  | .shr f => Sys2Proof.Machine.execShr f s
  | .sha f => Sys2Proof.Machine.execSha f s
  | .rol f => Sys2Proof.Machine.execRol f s
  | .clz f => Sys2Proof.Machine.execClz f s
  | .ctz f => Sys2Proof.Machine.execCtz f s
  | .popc f => Sys2Proof.Machine.execPopc f s
  | .brev f => Sys2Proof.Machine.execBrev f s
  | .biti f => Sys2Proof.Machine.execBiti f s
  | .bitd f => Sys2Proof.Machine.execBitd f s
  | .bfx f => Sys2Proof.Machine.execBfx f s
  | .bfi f => Sys2Proof.Machine.execBfi f s
  | .cmpeq f => Sys2Proof.Machine.execCmpeq f s
  | .cmpne f => Sys2Proof.Machine.execCmpne f s
  | .cmplt f => Sys2Proof.Machine.execCmplt f s
  | .cmpltn f => Sys2Proof.Machine.execCmpltn f s
  | .cmple f => Sys2Proof.Machine.execCmple f s
  | .cmplen f => Sys2Proof.Machine.execCmplen f s
  | .sel f => Sys2Proof.Machine.execSel f s
  | .selLane f => Sys2Proof.Machine.execSelLane f s
  | .mov f => Sys2Proof.Machine.execMov f s
  | .movi f => Sys2Proof.Machine.execMovi f s
  | .movh f => Sys2Proof.Machine.execMovh f s
  | .movx f => Sys2Proof.Machine.execMovx f s
  | .movxLane f => Sys2Proof.Machine.execMovxLane f s
  | .movxw f => Sys2Proof.Machine.execMovxw f s
  | .movxwLane f => Sys2Proof.Machine.execMovxwLane f s
  | .shuf f => Sys2Proof.Machine.execShuf f s
  | .bcast f => Sys2Proof.Machine.execBcast f s
  | .extl f => Sys2Proof.Machine.execExtl f s
  | .insl f => Sys2Proof.Machine.execInsl f s
  | .pack f => Sys2Proof.Machine.execPack f s
  | .unpk f => Sys2Proof.Machine.execUnpk f s
  | .reda f => Sys2Proof.Machine.execReda f s
  | .redm f => Sys2Proof.Machine.execRedm f s
  | .scana f => Sys2Proof.Machine.execScana f s
  | .len f => Sys2Proof.Machine.execLen f s
  | .setlen f => Sys2Proof.Machine.execSetlen f s
  | .fadd f => Sys2Proof.Machine.execFadd f s
  | .fsub f => Sys2Proof.Machine.execFsub f s
  | .fmul f => Sys2Proof.Machine.execFmul f s
  | .ffma f => Sys2Proof.Machine.execFfma f s
  | .ffms f => Sys2Proof.Machine.execFfms f s
  | .fnma f => Sys2Proof.Machine.execFnma f s
  | .fmin f => Sys2Proof.Machine.execFmin f s
  | .fmax f => Sys2Proof.Machine.execFmax f s
  | .fabs f => Sys2Proof.Machine.execFabs f s
  | .fneg f => Sys2Proof.Machine.execFneg f s
  | .fcpys f => Sys2Proof.Machine.execFcpys f s
  | .fcmpeq f => Sys2Proof.Machine.execFcmpeq f s
  | .fcmplt f => Sys2Proof.Machine.execFcmplt f s
  | .fcmple f => Sys2Proof.Machine.execFcmple f s
  | .fcmpun f => Sys2Proof.Machine.execFcmpun f s
  | .fclass f => Sys2Proof.Machine.execFclass f s
  | .fcvt f => Sys2Proof.Machine.execFcvt f s
  | .fcvti f => Sys2Proof.Machine.execFcvti f s
  | .icvtf f => Sys2Proof.Machine.execIcvtf f s
  | .frnd f => Sys2Proof.Machine.execFrnd f s
  | .frcpe f => Sys2Proof.Machine.execFrcpe f s
  | .frsqe f => Sys2Proof.Machine.execFrsqe f s
  | .fscl f => Sys2Proof.Machine.execFscl f s
  | .fexpt f => Sys2Proof.Machine.execFexpt f s
  | .freda f => Sys2Proof.Machine.execFreda f s
  | .fdot f => Sys2Proof.Machine.execFdot f s
  | .falgn f => Sys2Proof.Machine.execFalgn f s
  | .falgnExp f => Sys2Proof.Machine.execFalgnExp f s
  | .falgnHdr f => Sys2Proof.Machine.execFalgnHdr f s
  | .lute f => Sys2Proof.Machine.execLute f s
  | .luti f => Sys2Proof.Machine.execLuti f s
  | .lutw f => Sys2Proof.Machine.execLutw f s
  | .rred f => Sys2Proof.Machine.execRred f s
  | .rcomb f => Sys2Proof.Machine.execRcomb f s
  | .lclamp f => Sys2Proof.Machine.execLclamp f s
  | .pass f => Sys2Proof.Machine.execPass f s
  | .drop f => Sys2Proof.Machine.execDrop f s
  | .emit f => Sys2Proof.Machine.execEmit f s
  | .eose f => Sys2Proof.Machine.execEose f s
  | .steer f => Sys2Proof.Machine.execSteer f s
  | .steerData f => Sys2Proof.Machine.execSteerData f s
  | .merge f => Sys2Proof.Machine.execMerge f s
  | .split f => Sys2Proof.Machine.execSplit f s
  | .carry f => Sys2Proof.Machine.execCarry f s
  | .delay f => Sys2Proof.Machine.execDelay f s
  | .delta f => Sys2Proof.Machine.execDelta f s
  | .count f => Sys2Proof.Machine.execCount f s
  | .sink f => Sys2Proof.Machine.execSink f s
  | .tsend f => Sys2Proof.Machine.execTsend f s
  | .tsendFar f => Sys2Proof.Machine.execTsendFar f s
  | .cfgk f => Sys2Proof.Machine.execCfgk f s
  | .cfgkFar f => Sys2Proof.Machine.execCfgkFar f s
  | .mark f => Sys2Proof.Machine.execMark f s
  | .errt f => Sys2Proof.Machine.execErrt f s
  | .errtMake f => Sys2Proof.Machine.execErrtMake f s
  | .repair f => Sys2Proof.Machine.execRepair f s
  | .repairBack f => Sys2Proof.Machine.execRepairBack f s
  | .trap f => Sys2Proof.Machine.execTrap f s
  | .time f => Sys2Proof.Machine.execTime f s
  | .who f => Sys2Proof.Machine.execWho f s
  | .tagof f => Sys2Proof.Machine.execTagof f s
  | .hdr f => Sys2Proof.Machine.execHdr f s
  | .sld f => Sys2Proof.Machine.execSld f s
  | .sst f => Sys2Proof.Machine.execSst f s
  | .slds f => Sys2Proof.Machine.execSlds f s
  | .ssts f => Sys2Proof.Machine.execSsts f s
  | .sgth f => Sys2Proof.Machine.execSgth f s
  | .ssct f => Sys2Proof.Machine.execSsct f s
  | .samo f => Sys2Proof.Machine.execSamo f s
  | .pqin f => Sys2Proof.Machine.execPqin f s
  | .pqout f => Sys2Proof.Machine.execPqout f s
  | .spnd f => Sys2Proof.Machine.execSpnd f s
  | .szero f => Sys2Proof.Machine.execSzero f s
  | .lds f => Sys2Proof.Machine.execLds f s
  | .sts f => Sys2Proof.Machine.execSts f s
  | .ldx f => Sys2Proof.Machine.execLdx f s
  | .stx f => Sys2Proof.Machine.execStx f s
  | .lda f => Sys2Proof.Machine.execLda f s
  | .sta f => Sys2Proof.Machine.execSta f s
  | .amo f => Sys2Proof.Machine.execAmo f s
  | .mcst f => Sys2Proof.Machine.execMcst f s
  | .pref f => Sys2Proof.Machine.execPref f s
  | .fence f => Sys2Proof.Machine.execFence f s
  | .xfence f => Sys2Proof.Machine.execXfence f s
  | .drain f => Sys2Proof.Machine.execDrain f s
  | .swait f => Sys2Proof.Machine.execSwait f s
  | .ssig f => Sys2Proof.Machine.execSsig f s
  | .sinit f => Sys2Proof.Machine.execSinit f s
  | .binit f => Sys2Proof.Machine.execBinit f s
  | .barv f => Sys2Proof.Machine.execBarv f s
  | .bwait f => Sys2Proof.Machine.execBwait f s
  | .ecmd f => Sys2Proof.Machine.execEcmd f s
  | .eresp f => Sys2Proof.Machine.execEresp f s
  | .mwld f => Sys2Proof.Machine.execMwld f s
  | .mwsel f => Sys2Proof.Machine.execMwsel f s
  | .mpass f => Sys2Proof.Machine.execMpass f s
  | .mpassFeed f => Sys2Proof.Machine.execMpassFeed f s
  | .mzpc f => Sys2Proof.Machine.execMzpc f s
  | .mscl f => Sys2Proof.Machine.execMscl f s
  | .mout f => Sys2Proof.Machine.execMout f s
  | .mclr f => Sys2Proof.Machine.execMclr f s
  | .mfeed f => Sys2Proof.Machine.execMfeed f s
  | .msumw f => Sys2Proof.Machine.execMsumw f s
  | .mstat f => Sys2Proof.Machine.execMstat f s
  | .achain f => Sys2Proof.Machine.execAchain f s
  | .arsv f => Sys2Proof.Machine.execArsv f s
  | .asend f => Sys2Proof.Machine.execAsend f s
  | .asendIdx f => Sys2Proof.Machine.execAsendIdx f s
  | .asendPin f => Sys2Proof.Machine.execAsendPin f s
  | .aadd f => Sys2Proof.Machine.execAadd f s
  | .aaddPin f => Sys2Proof.Machine.execAaddPin f s
  | .awr f => Sys2Proof.Machine.execAwr f s
  | .ard f => Sys2Proof.Machine.execArd f s
  | .aflsh f => Sys2Proof.Machine.execAflsh f s
  | .aclr f => Sys2Proof.Machine.execAclr f s
  | .arel f => Sys2Proof.Machine.execArel f s
  | .await f => Sys2Proof.Machine.execAwait f s
  | .axs f => Sys2Proof.Machine.execAxs f s
  | .copy c => Sys2Proof.Machine.execCopy c s
  | .copym c => Sys2Proof.Machine.execCopym c s
  | .copyv c => Sys2Proof.Machine.execCopyv c s
  | .fill c => Sys2Proof.Machine.execFill c s
  | .cksm c => Sys2Proof.Machine.execCksm c s
  | .binap c => Sys2Proof.Machine.execBinap c s
  | .binpl c => Sys2Proof.Machine.execBinpl c s
  | .cred c => Sys2Proof.Machine.execCred c s
  | .card c => Sys2Proof.Machine.execCard c s
  | .caga c => Sys2Proof.Machine.execCaga c s
  | .cbcs c => Sys2Proof.Machine.execCbcs c s
  | .lnch c => Sys2Proof.Machine.execLnch c s
  | .engineCommandAccept core eng => Sys2Proof.Machine.execEngineCommandAccept core eng s
  | .engineCommandStart core eng => Sys2Proof.Machine.execEngineCommandStart core eng s
  | .engineChunk core eng idx => Sys2Proof.Machine.execEngineChunk core eng idx s
  | .engineCommandComplete core eng idx => Sys2Proof.Machine.execEngineCommandComplete core eng idx s
  | .linkTransfer key out => Sys2Proof.Machine.execLinkTransfer key out s
  | .headerLatch key inp => Sys2Proof.Machine.execHeaderLatch key inp s
  | .joinStep key => Sys2Proof.Machine.execJoinStep key s
  | .switchWave key => Sys2Proof.Machine.execSwitchWave key s
  | .withy key => Sys2Proof.Machine.execWithy key s
  | .commitWave key => Sys2Proof.Machine.execCommitWave key s
  | .returnBufferDrain key => Sys2Proof.Machine.execReturnBufferDrain key s
  | .loadDataReturn n => Sys2Proof.Machine.execLoadDataReturn n s
  | .rowIntake key => Sys2Proof.Machine.execRowIntake key s
  | .localPortAccept key => Sys2Proof.Machine.execLocalPortAccept key s
  | .localPortDeliver core => Sys2Proof.Machine.execLocalPortDeliver core s
  | .taskDeliver core n => Sys2Proof.Machine.execTaskDeliver core n s
  | .contributionArrival n => Sys2Proof.Machine.execContributionArrival n s
  | .markerArrival n => Sys2Proof.Machine.execMarkerArrival n s
  | .unbindArrival n => Sys2Proof.Machine.execUnbindArrival n s
  | .bindRequest n => Sys2Proof.Machine.execBindRequest n s
  | .bindAnswer n => Sys2Proof.Machine.execBindAnswer n s
  | .bindRetry key chain => Sys2Proof.Machine.execBindRetry key chain s
  | .refusalArrival n => Sys2Proof.Machine.execRefusalArrival n s
  | .refusalTrap key => Sys2Proof.Machine.execRefusalTrap key s
  | .memoryAccess n => Sys2Proof.Machine.execMemoryAccess n s
  | .translationWalk walker va => Sys2Proof.Machine.execTranslationWalk walker va s
  | .patrolScrub sector => Sys2Proof.Machine.execPatrolScrub sector s
  | .wakeComplete core => Sys2Proof.Machine.execWakeComplete core s
  | .wakeFailure core => Sys2Proof.Machine.execWakeFailure core s
  | .pendingLineTimeout core spad line => Sys2Proof.Machine.execPendingLineTimeout core spad line s
  | .deadlock core block => Sys2Proof.Machine.execDeadlock core block s
  | .stateStorageError core elem unit => Sys2Proof.Machine.execStateStorageError core elem unit s
  | .windowWrite w => Sys2Proof.Machine.execWindowWrite w s
  | .constantWrite w => Sys2Proof.Machine.execConstantWrite w s
  | .descriptorWrite w => Sys2Proof.Machine.execDescriptorWrite w s
  | .contextImageWrite w => Sys2Proof.Machine.execContextImageWrite w s
  | .amWindowWrite w => Sys2Proof.Machine.execAmWindowWrite w s
  | .semaphoreWrite w => Sys2Proof.Machine.execSemaphoreWrite w s
  | .semaphoreAtomicAdd w => Sys2Proof.Machine.execSemaphoreAtomicAdd w s
  | .barrierArrivalAdd w => Sys2Proof.Machine.execBarrierArrivalAdd w s
  | .barrierByteAdd w => Sys2Proof.Machine.execBarrierByteAdd w s
  | .configurationLoad core img => Sys2Proof.Machine.execConfigurationLoad core img s
  | .tlbInvalidate tcid lo hi => Sys2Proof.Machine.execTlbInvalidate tcid lo hi s
  | .kidPurge die kid => Sys2Proof.Machine.execKidPurge die kid s
  | .keySlotWrite kid => Sys2Proof.Machine.execKeySlotWrite kid s
  | .orderingControlWrite v => Sys2Proof.Machine.execOrderingControlWrite v s
  | .consChangeComplete => Sys2Proof.Machine.execConsChangeComplete s
  | .queueDoorbell thread => Sys2Proof.Machine.execQueueDoorbell thread s
  | .nopq p => Sys2Proof.Machine.execNopq p s
  | .launch p => Sys2Proof.Machine.execLaunch p s
  | .launchPlacement launch place => Sys2Proof.Machine.execLaunchPlacement launch place s
  | .queueDelta p => Sys2Proof.Machine.execQueueDelta p s
  | .deltaApply launch => Sys2Proof.Machine.execDeltaApply launch s
  | .copyh p => Sys2Proof.Machine.execCopyh p s
  | .waitq p => Sys2Proof.Machine.execWaitq p s
  | .waitqEvaluate thread => Sys2Proof.Machine.execWaitqEvaluate thread s
  | .sigq p => Sys2Proof.Machine.execSigq p s
  | .fenceq p => Sys2Proof.Machine.execFenceq p s
  | .runListTurn => Sys2Proof.Machine.execRunListTurn s
  | .invocationCompletion core block => Sys2Proof.Machine.execInvocationCompletion core block s
  | .childLaunchReceive n => Sys2Proof.Machine.execChildLaunchReceive n s
  | .childStart core block => Sys2Proof.Machine.execChildStart core block s
  | .preEmpt core block => Sys2Proof.Machine.execPreEmpt core block s
  | .cutComplete core block => Sys2Proof.Machine.execCutComplete core block s
  | .cutOverdue core block => Sys2Proof.Machine.execCutOverdue core block s
  | .resume core block => Sys2Proof.Machine.execResume core block s
  | .resumeSkipping core block => Sys2Proof.Machine.execResumeSkipping core block s
  | .regionDiscard core block => Sys2Proof.Machine.execRegionDiscard core block s
  | .restore save core row col => Sys2Proof.Machine.execRestore save core row col s
  | .rdmaWrite qp rkey va data => Sys2Proof.Machine.execRdmaWrite qp rkey va data s
  | .rdmaRead qp rkey va len => Sys2Proof.Machine.execRdmaRead qp rkey va len s
  | .rdmaInvalidRequest qp => Sys2Proof.Machine.execRdmaInvalidRequest qp s
  | .cnpReceive qp => Sys2Proof.Machine.execCnpReceive qp s
  | .mkaExchange port frame => Sys2Proof.Machine.execMkaExchange port frame s
  | .create m => Sys2Proof.Machine.execCreate m s
  | .destroy m => Sys2Proof.Machine.execDestroy m s
  | .mapq m => Sys2Proof.Machine.execMapq m s
  | .unmapq m => Sys2Proof.Machine.execUnmapq m s
  | .key m => Sys2Proof.Machine.execKey m s
  | .thaw m => Sys2Proof.Machine.execThaw m s
  | .discard m => Sys2Proof.Machine.execDiscard m s
  | .enroll m => Sys2Proof.Machine.execEnroll m s
  | .domain m => Sys2Proof.Machine.execDomain m s
  | .map m => Sys2Proof.Machine.execMap m s
  | .unmap m => Sys2Proof.Machine.execUnmap m s
  | .attest m => Sys2Proof.Machine.execAttest m s
  | .telem m => Sys2Proof.Machine.execTelem m s
  | .daxaraDataFrame port fr => Sys2Proof.Machine.execDaxaraDataFrame port fr s
  | .daxaraAck port ack => Sys2Proof.Machine.execDaxaraAck port ack s
  | .daxaraNak port ack => Sys2Proof.Machine.execDaxaraNak port ack s
  | .daxaraCredit port credits => Sys2Proof.Machine.execDaxaraCredit port credits s
  | .replayTimeout port => Sys2Proof.Machine.execReplayTimeout port s
  | .linkRetrain port => Sys2Proof.Machine.execLinkRetrain port s
  | .linkFailed port => Sys2Proof.Machine.execLinkFailed port s
  | .peerAttestation port report => Sys2Proof.Machine.execPeerAttestation port report s
  | .peerRequest r => Sys2Proof.Machine.execPeerRequest r s
  | .peerRefusal r => Sys2Proof.Machine.execPeerRefusal r s
  | .boot => Sys2Proof.Machine.execBoot s
  | .telemetryUpdate rec counts => Sys2Proof.Machine.execTelemetryUpdate rec counts s
  | .clockThrottle => Sys2Proof.Machine.execClockThrottle s
  | .emergencyStop => Sys2Proof.Machine.execEmergencyStop s
  | .corePowerGating core => Sys2Proof.Machine.execCorePowerGating core s
  | .clockRestore => Sys2Proof.Machine.execClockRestore s
  | .priorityFlowControl pause => Sys2Proof.Machine.execPriorityFlowControl pause s
  | .macsecDrop port => Sys2Proof.Machine.execMacsecDrop port s
  | .ownerKeyProvisioning ecdsa hss => Sys2Proof.Machine.execOwnerKeyProvisioning ecdsa hss s
  | .managementPacketMalformed m => Sys2Proof.Machine.execManagementPacketMalformed m s
  | .powerLoss => Sys2Proof.Machine.execPowerLoss s

end Sys2Proof.Machine
end

