-- ==== Sys2Proof/Machine/Place.lean ====
section
/-! DEFINITION. Where an instruction's bits are put so that the next turn fetches and runs them (log 13): the part loads its programs itself,
by launches, so this stands for such a load. -/

namespace Sys2Proof.Machine

/-- An element of core 0 whose type implements an opcode (spec 08 R174, 01 R13). -/
def hostElem (op : Nat) : Nat := ([3, 0, 1, 8, 72, 88].find? (fun k => implements (siteType k) op)).getD 3

/-- A head that a guard's test of kind and tag accepts (spec 07 R154). -/
def headFor (k : BitVec 2) (te : Bool) (t : BitVec 3) : Packet :=
  { pay := 0, crd := false, pois := 0, tag := if te then t else 0, kind := if k = 1 then kEos else if k = 2 then kErr else kData,
    lw := 2, lenm := 0, perr := false }

/-- An element with a packet at the head of the queue a code names; 6 is the join queue. -/
def Elem.withHead (e : Elem) (q : Nat) (p : Packet) : Elem :=
  if q = 6 then { e with qj := [{ a := p, b := p, ha := HReg.neutral, hb := HReg.neutral }] }
  else if q < 6 then e.setQueue q [p] else e

/-- An element that is ready to run slot 0 of its context 0: active, loaded, free, its state and heads as the guard asks. -/
def Elem.readied (e : Elem) (f : Slot) : Elem :=
  ({ e with active := true, opening := none, ctx := 0, loaded := 1, st := f.sv &&& f.sm, qs := [], qj := [], outs := [], ret := [],
            trap := none, stopped := false, stopIn := 0, held := false, acted := false, busy := none, left := 0, latch := [], feed := none, asks := [], refRec := none, loss := [] }
    |>.withHead f.qb.toNat (headFor f.kb f.teb f.tb)).withHead f.qa.toNat (headFor f.ka f.tea f.ta)

/-- A slot as slot 0 of an element that implements it, the element's turn next: its firing is in progress, in its last cycle. -/
def putSlot (x : Nat) : Prog := fun s =>
  let op := (slotOf x).1
  let f := (slotOf x).2
  let k := hostElem op
  Prog.seq
    [fun s => [.newCycle s.cycle, .gate 0 .on, .lport 0 [], .clear (imageBase k 0) (imageBase k 0 + 208),
       .bytes (imageBase k 0 + 16) (leBytes 12 x), .elem k ((s.elem k).readied f), .agenda [.element k]],
     fun s => [.elem k { s.elem k with busy := some 0 }]] s

/-- A started command. -/
def startedCommand (id : Nat) (c : Command) : Cmd :=
  { id := id, c := c, src := .elem 0, tcid := 0, replyAt := none, bad := false, started := true, prog := 0, finished := false, status := 0
    cause := 0, role := 0, pois := false, paused := false, recheck := false, gate := none, sent := false, asks := [], owes := [], landing := none
    coll := none }

/-- An engine command as the first that an engine of core 0 runs, its turn next. -/
def putCommand (eng : Nat) (c : Command) : Prog := fun s =>
  [.nextId (s.nextId + 1), .gate 0 .on, .engine eng { s.engine 0 eng with frozen := false, running := [startedCommand s.nextId c] },
   .agenda [.command 0 eng 0]]

/-- The physical page that holds the ring of the thread below: 1 GiB at 0x4000_0000 of this package, all permissions. -/
def ringLeaf (pkg : Nat) : Word := BitVec.ofNat 64 (pkg * 2 ^ 57 + 0x40000000 + 0x3B)

/-- A queue packet as the first of thread 0's ring, its turn next (spec 16 R367). -/
def putPacket (p : QPacket) : Prog := fun s =>
  [.clear 0x40000000 0x40000200, .tlb 384 [{ tcid := 0, vpage := 0, size := 2, leaf := ringLeaf s.pkgNum }],
   .bytes 0x40000000 (leBytes 8 2 ++ leBytes 8 0 ++ leBytes 8 2),
   .bytes 0x40000040 (leBytes 64 (commandBits p.first) ++ leBytes 64 (commandBits p.second)),
   .thread 0 { Thread.reset with bound := true, mapped := true, awake := true },
   .agenda [.thread 0]]
    ++ (sectorsOf 0x40000000 0x200).map (fun n => .sectorKey n 0)

/-- The engine that serves an opcode (spec 05 R102). -/
def engineFor (c : Command) : Nat := match wfield c.w0 0 8 with | 0x30 => 3 | n => if n < 0x10 then 0 else if n < 0x20 then 1 else 2

/-- The bits of an instruction put where the next turn takes it. -/
def putWord (nbits w : Nat) : Prog :=
  if nbits ≤ 96 then putSlot (leNat (leBytes 12 w))
  else if nbits ≤ 512 then
    let c := commandOf (leNat (leBytes 64 w))
    match decodeCommand c with
    | .ok _ => putCommand (engineFor c) c
    | .error _ => putPacket (queueOf 512 (leNat (leBytes 64 w)))
  else putPacket (queueOf 1024 (leNat (leBytes 128 w)))

end Sys2Proof.Machine
end

