-- ==== Sys2Proof/Machine/Step.lean ====
section
/-! DEFINITION. One step: the next turn of the cycle fetches its instruction and runs it, or, when none is left, a new cycle begins (log 3). -/

namespace Sys2Proof.Machine

/-- The outcome of a turn on state s, its entry already off the agenda: what it fetches is executed, then the turn ends; a firing of several
cycles is executed in its last (Machine.afterTurn). -/
def runTurn (t : Turn) (s : State) : Host.Outcome State Fault Refusal :=
  match s.fetch t with
  | none => .next (s.run (endTurn s false t))
  | some (i, f) =>
    match exec i (s.perform (.focus f)) with
    | .next s2 => .next ((afterTurn s s2 i t).perform (.focus .none))
    | .fault r => .fault r
    | .refused r => .refused r

/-- One step of the machine: nothing runs without power (spec 18 R440); with no turn left a new cycle begins; else the first turn runs. -/
def step (s : State) : Host.Outcome State Fault Refusal :=
  if s.powered then
    match s.agenda with
    | [] => .next (s.run newCycle)
    | t :: rest => runTurn t ((s.perform (.agenda rest)).run (beginTurn t))
  else .fault .poweredOff

/-- The state in which the next step fetches and runs the instruction with these bits (log 13). -/
def State.withFetchWord (s : State) (nbits w : Nat) : State := s.run (putWord nbits w)

end Sys2Proof.Machine
end

