-- ==== Sys2Proof/Safety.lean ====
section
/-! DEFINITION. The terms that statements about every state use: the one canonical form of memory and of every sparse map, and what no step
may reach. -/

namespace Sys2Proof.Machine

/-- The canonical form of memory: addresses strictly rising, no byte equal to the zero that an unlisted address reads as. -/
def Memory.wf (m : List Host.Cell) : Bool := Map.wf 0 m

/-- The numbers of a list rise strictly. -/
def Nats.wf : List Nat → Bool
  | [] => true
  | n :: l => l.all (fun k => decide (n < k)) && Nats.wf l

/-- Every map of the memories is in canonical form: bytes, soft errors, sector keys, cache lines, translations, accumulator memory, semaphores,
barriers. -/
def State.memoriesWf (s : State) : Bool :=
  Memory.wf s.mem && Map.wf 0 s.softErr && Map.wf 0 s.sectorKey && Nats.wf s.poison && Map.wf 0 s.am && Map.wf 0 s.sems && Map.wf 0 s.bars
    && Map.wf CacheLine.none s.cache && Map.wf [] s.tlb && Map.wf [] s.pointers && Map.wf 0 s.amErr

/-- Every map of the cores is in canonical form. -/
def State.coresWf (s : State) : Bool :=
  Map.wf Elem.reset s.elems && Map.wf Region.reset s.regions && Map.wf RangeDesc.reset s.ranges && Map.wf Engine.reset s.engines
    && Map.wf 0 s.binding && Map.wf 65536#32 s.winReg && Map.wf 0 s.waveReg && Map.wf 0 s.opReg && Map.wf [] s.lport
    && Map.wf 127 s.portLast && Map.wf 127 s.pickLast && Map.wf [] s.taskWait && Map.wf 0 s.served && Map.wf true s.consAt && Map.wf .on s.gated && Map.wf [] s.heldq
    && Map.wf 127 s.injLast

/-- Every map of Foreveder, the root and the ports is in canonical form. -/
def State.rootWf (s : State) : Bool :=
  Map.wf 0 s.keySlots && Map.wf 0 s.roots && Map.wf 0 s.telemetry && Map.wf Proc.reset s.procs && Map.wf Thread.reset s.threads
    && Map.wf 0 s.hostKeys && Map.wf .ready s.qps && Map.wf 0 s.routes && Map.wf 0 s.windows && Map.wf 0 s.measures
    && Map.wf Port.reset s.ports

/-- The canonical form of a state: of each of its maps. -/
def State.canonical (s : State) : Bool := s.memoriesWf && s.coresWf && s.rootWf

/-- The slot that the focus names is the firing fr, and it can fire (spec 07 R154, R162): it is eligible under its guard and ready for
what its instruction waits for, or it is the firing in progress. -/
def Fires (f : Slot) (guard : Fire → Slot) (ready : Fire → State → Bool) (s : State) (fr : Fire) : Prop :=
  s.fireOf f = some fr ∧ s.canFire fr guard ready = true

/-- The state after a completed firing that changes nothing but its element: the element, and the note that it moved something in this
cycle, which the deadlock detector reads (spec 07 R159, 17 R403). -/
def Fire.landed (fr : Fire) (d : Done) (s : State) : State :=
  { s with elems := Map.set Elem.reset s.elems fr.key (fr.after d), moved := Nats.add s.moved fr.key }

/-- The lanes 0 to n − 1 of a lane-wise result: lane i is g i where it takes part; a masked lane is zero, or lane i of A (spec 07 R163). -/
def Fire.lanesOf (fr : Fire) (a : Opnd) (n : Nat) (g : Nat → Nat × Bool) : List (Nat × Bool) :=
  (List.range n).map (fun i => if fr.active true i then g i else if fr.zeroing then (0, false) else (a.bl i, a.bp i))

end Sys2Proof.Machine
end

