-- ==== Sys2Proof/Certificates/Slice0/Obligations.lean ====
section
/-! DEFINITION. The statements for the provers: what the rules of the spec say that instructions and the machine do. -/

open Sys2Proof Sys2Proof.Machine

/-- ADD to MOVH, the binary integer instructions (spec 10 R225, 07 R159, R163): with operands of the slot's width and agreeing lengths the
firing completes, lane i of the result is the operation on lanes i of A and B, poisoned with either; masked lanes are zero or A's;
nothing but the element changes. -/
def Obligations.IntegerPairsComplete : Prop :=
  ∀ (s : State) (f : Slot) (fr : Fire) (a b : Opnd) (n : Nat), Fires f ownGuard always s fr → s.opA fr = some a → s.opB fr = some b →
    badWidth (fmtLw fr.fmt) [a, b] = none → outLen fr.w [a, b] = some n →
    let w := fr.w
    let made (g : Nat → Nat → Nat) : Host.Outcome State Fault Refusal :=
      .next (fr.landed (fr.result (fr.pack (some a) (fr.lanesOf a n (fun i => (g (a.bl i) (b.bl i), a.bp i || b.bp i))))) s)
    exec (.add f) s = made (fun x y => (x + y) % 2 ^ w)
    ∧ exec (.sub f) s = made (fun x y => lowBits w ((x : Int) - y))
    ∧ exec (.adds f) s = made (fun x y => lowBits w (saturateInt fr.fmt (laneInt fr.fmt x + laneInt fr.fmt y)))
    ∧ exec (.subs f) s = made (fun x y => lowBits w (saturateInt fr.fmt (laneInt fr.fmt x - laneInt fr.fmt y)))
    ∧ exec (.mul f) s = made (fun x y => x * y % 2 ^ w)
    ∧ exec (.mulh f) s = made (fun x y => lowBits w (signExt w x * signExt w y / ((2 ^ w : Nat) : Int)))
    ∧ exec (.mulhn f) s = made (fun x y => x * y / 2 ^ w)
    ∧ exec (.min f) s = made (fun x y => if signExt w y < signExt w x then y else x)
    ∧ exec (.max f) s = made (fun x y => if signExt w x < signExt w y then y else x)
    ∧ exec (.minn f) s = made (fun x y => Nat.min x y)
    ∧ exec (.maxn f) s = made (fun x y => Nat.max x y)
    ∧ exec (.and f) s = made (fun x y => x &&& y)
    ∧ exec (.or f) s = made (fun x y => x ||| y)
    ∧ exec (.xor f) s = made (fun x y => x ^^^ y)
    ∧ exec (.andn f) s = made (fun x y => x &&& (2 ^ w - 1 - y))
    ∧ exec (.shl f) s = made (fun x y => if y ≥ w then 0 else x * 2 ^ y % 2 ^ w)
    ∧ exec (.shr f) s = made (fun x y => if y ≥ w then 0 else x / 2 ^ y)
    ∧ exec (.sha f) s = made (fun x y => lowBits w (signExt w x / ((2 ^ Nat.min y (w - 1) : Nat) : Int)))
    ∧ exec (.rol f) s = made (fun x y => x * 2 ^ (y % w) % 2 ^ w + x / 2 ^ (w - y % w))
    ∧ exec (.movh f) s = made (fun x y => x % 2 ^ (w / 2) + y % 2 ^ (w / 2) * 2 ^ (w / 2))

/-- ABS, NEG, CLZ, CTZ, POPC, BREV and MOV complete on every operand of the slot's width (spec 10 R225): lane i of the result is the
operation on lane i of A. MOD[0] of ABS and NEG saturates; else the low bits are kept. -/
def Obligations.IntegerSinglesComplete : Prop :=
  ∀ (s : State) (f : Slot) (fr : Fire) (a : Opnd) (n : Nat), Fires f ownGuard always s fr → s.opA fr = some a →
    badWidth (fmtLw fr.fmt) [a] = none → outLen fr.w [a] = some n →
    let w := fr.w
    let keep (x : Int) : Nat := lowBits w (if fr.md 0 then saturateInt fr.fmt x else x)
    let made (g : Nat → Nat) : Host.Outcome State Fault Refusal :=
      .next (fr.landed (fr.result (fr.pack (some a) (fr.lanesOf a n (fun i => (g (a.bl i), a.bp i))))) s)
    exec (.abs f) s = made (fun x => keep ((laneInt fr.fmt x).natAbs : Int))
    ∧ exec (.neg f) s = made (fun x => keep (-(laneInt fr.fmt x)))
    ∧ exec (.clz f) s = made (fun x => ((bitsOf w x).reverse.takeWhile (fun b => !b)).length)
    ∧ exec (.ctz f) s = made (fun x => ((bitsOf w x).takeWhile (fun b => !b)).length)
    ∧ exec (.popc f) s = made (fun x => ((bitsOf w x).filter (fun b => b)).length)
    ∧ exec (.brev f) s = made (fun x => ofBits (bitsOf w x).reverse)
    ∧ exec (.mov f) s = made (fun x => x)

/-- MADD and SEL in lane mode read the destination entry as a third operand and complete on operands of the slot's width with agreeing
lengths (spec 10 R223, R226, R228). -/
def Obligations.IntegerTriplesComplete : Prop :=
  ∀ (s : State) (f : Slot) (fr : Fire) (a b : Opnd) (n : Nat), Fires f ownGuard always s fr → s.opA fr = some a → s.opB fr = some b →
    badWidth (fmtLw fr.fmt) [a, b, fr.opD] = none → outLen fr.w [a, b, fr.opD] = some n →
    let c := fr.opD
    let made (g : Nat → Nat × Bool) : Host.Outcome State Fault Refusal :=
      .next (fr.landed (fr.result (fr.pack (some a) (fr.lanesOf a n g))) s)
    exec (.madd f) s = made (fun i => ((c.bl i + a.bl i * b.bl i) % 2 ^ fr.w, a.bp i || b.bp i || c.bp i))
    ∧ exec (.selLane f) s = made (fun i => if c.bl i ≠ 0 then (a.bl i, a.bp i || c.bp i) else (b.bl i, b.bp i || c.bp i))

/-- The outcome bit of a compare (spec 07 R161): over the lanes that take part, AND with MOD[1] = 0, OR with MOD[1] = 1. -/
def compareBit (fr : Fire) (n : Nat) (p : Nat → Bool) : Bool :=
  let on := (List.range n).filter (fun i => fr.active true i)
  if fr.md 1 then on.any p else on.all p

/-- The six integer compares complete (spec 10 R227, 07 R161): a lane is all ones where its predicate holds and 0 elsewhere. With MOD[0] = 1
and no poisoned lane taking part, bit IMM[15:13] of st becomes the outcome, after NS. -/
def integerComparesComplete : Prop :=
  ∀ (s : State) (f : Slot) (fr : Fire) (a b : Opnd) (n : Nat), Fires f ownGuard always s fr → s.opA fr = some a → s.opB fr = some b →
    badWidth (fmtLw fr.fmt) [a, b] = none → outLen fr.w [a, b] = some n →
    (fr.md 0 = true → ∀ i < n, fr.active true i = true → (a.bp i || b.bp i) = false) →
    let w := fr.w
    let made (p : Nat → Nat → Bool) : Host.Outcome State Fault Refusal :=
      let l := fr.lanesOf a n (fun i => (if p (a.bl i) (b.bl i) then 2 ^ w - 1 else 0, a.bp i || b.bp i))
      let bit := if fr.md 0 then some (fr.imm 13 3, compareBit fr n (fun i => p (a.bl i) (b.bl i))) else none
      .next (fr.landed { fr.result (fr.pack (some a) l) with stBit := bit } s)
    exec (.cmpeq f) s = made (fun x y => x = y)
    ∧ exec (.cmpne f) s = made (fun x y => x ≠ y)
    ∧ exec (.cmplt f) s = made (fun x y => signExt w x < signExt w y)
    ∧ exec (.cmpltn f) s = made (fun x y => x < y)
    ∧ exec (.cmple f) s = made (fun x y => signExt w x ≤ signExt w y)
    ∧ exec (.cmplen f) s = made (fun x y => x ≤ y)

/-- A compare with MOD[0] = 1 over a poisoned lane that takes part (spec 07 R161): under EPOL = 1 it traps with cause 0x23 and the mask of
those lanes; under EPOL = 0 it completes from the stored bits and one error is counted. Stated of CMPEQ. -/
def Obligations.PoisonedPredicate : Prop :=
  ∀ (s : State) (f : Slot) (fr : Fire) (a b : Opnd) (n : Nat), Fires f ownGuard always s fr → s.opA fr = some a → s.opB fr = some b →
    badWidth (fmtLw fr.fmt) [a, b] = none → outLen fr.w [a, b] = some n → fr.md 0 = true →
    let mask := packFields ((List.range n).map (fun i => (1, bit01 ((a.bp i || b.bp i) && fr.active true i))))
    mask ≠ 0 →
    (fr.epol = true → exec (.cmpeq f) s = .next (s.apply (s.trapEffects fr.key (fr.trapInfo 0x23 (detailOf [(8, mask)])))))
    ∧ (fr.epol = false →
        let l := fr.lanesOf a n (fun i => (if decide (a.bl i = b.bl i) then 2 ^ fr.w - 1 else 0, a.bp i || b.bp i))
        let d := { fr.result (fr.pack (some a) l) with
                   stBit := some (fr.imm 13 3, compareBit fr n (fun i => decide (a.bl i = b.bl i))), errs := 1 }
        exec (.cmpeq f) s = .next (s.apply (fr.finish d s)))

/-- SEL by a state bit, BFX, BFI and MOVI complete (spec 10 R228, R229, R231): SEL reads only the operand that bit IMM[15:13] of st selects; BFX
takes L = IMM[15:10] + 1 bits of a from p = IMM[9:4], sign-extended with MOD[0]; BFI puts the low L bits of b at p of a; MOVI puts IMM in
the 16 bits of a at 16·MOD[1:0]. -/
def Obligations.FieldsComplete : Prop :=
  ∀ (s : State) (f : Slot) (fr : Fire), Fires f ownGuard always s fr →
    let lw := fmtLw fr.fmt
    let p := fr.imm 4 6
    let l := fr.imm 10 6 + 1
    let q := 16 * (f.md.toNat % 4)
    (∀ o, (if fr.e.st.getLsbD (fr.imm 13 3) then s.opA fr else s.opB fr) = some o → badWidth lw [o] = none →
      exec (.sel f) s = .next (fr.landed (fr.result { o.pkt with tag := f.ot, pois := if o.hdr.pois then BitVec.ofNat 8 (2 ^ o.pkt.lanes - 1) else o.pkt.pois }) s))
    ∧ (∀ a n, s.opA fr = some a → badWidth lw [a] = none → outLen fr.w [a] = some n →
      let made (g : Nat → Nat) : Host.Outcome State Fault Refusal :=
        .next (fr.landed (fr.result (fr.pack (some a) ((List.range n).map (fun i => (g (a.bl i), a.bp i))))) s)
      exec (.bfx f) s = made (fun x => if fr.md 0 then lowBits fr.w (signExt l (x / 2 ^ p % 2 ^ l)) else x / 2 ^ p % 2 ^ l)
      ∧ exec (.movi f) s = made (fun x => x % 2 ^ q + f.imm.toNat * 2 ^ q + x / 2 ^ (q + 16) * 2 ^ (q + 16)))
    ∧ (∀ a b n, s.opA fr = some a → s.opB fr = some b → badWidth lw [a, b] = none → outLen fr.w [a, b] = some n →
      exec (.bfi f) s = .next (fr.landed (fr.result (fr.pack (some a) ((List.range n).map (fun i =>
        (a.bl i % 2 ^ p + b.bl i % 2 ^ l * 2 ^ p + a.bl i / 2 ^ (p + l) * 2 ^ (p + l), a.bp i || b.bp i))))) s))

/-- SHUF, BCAST, EXTL, INSL, LEN and SETLEN complete (spec 10 R233 to R235): the lanes of the result are raw lanes of A as listed; SHUF and
SETLEN supply zero for a lane that A does not have; BCAST, EXTL and INSL need lane IMM[6:4] within A. -/
def Obligations.LaneMovesComplete : Prop :=
  ∀ (s : State) (f : Slot) (fr : Fire) (a : Opnd), Fires f ownGuard always s fr → s.opA fr = some a → badWidth (fmtLw fr.fmt) [a] = none →
    let n := a.pkt.lanes
    let t := fr.imm 4 3
    let lanes (l : List (Nat × Bool)) : Host.Outcome State Fault Refusal := .next (fr.landed (fr.lanesOut l) s)
    exec (.shuf f) s = lanes ((List.range n).map (fun i =>
      let j := 4 * ((i / 4) ^^^ (if fr.md 0 then 1 else 0)) + f.imm.toNat / 2 ^ (2 * i) % 4
      if j < n then a.raw j else (0, false)))
    ∧ exec (.len f) s = lanes [(n, false)]
    ∧ exec (.setlen f) s = lanes ((List.range (t + 1)).map (fun i => if i < n then a.raw i else (0, false)))
    ∧ (t < n →
      exec (.bcast f) s = lanes (List.replicate (fr.imm 7 3 + 1) (a.raw t))
      ∧ exec (.extl f) s = lanes [a.raw t]
      ∧ ∀ b, s.opB fr = some b → badWidth (fmtLw fr.fmt) [a, b] = none →
          exec (.insl f) s = lanes (listSet ((List.range n).map a.raw) t (b.raw 0)))

/-- MOVX and MOVXW complete for an unpoisoned index x in lane 0 of A (spec 10 R232): in register mode x names one of the four data entries, which
is read, or written in place of d0; in lane mode it names a lane of B to read, or of the destination entry to replace by lane 0 of B. -/
def Obligations.IndexedMovesComplete : Prop :=
  ∀ (s : State) (f : Slot) (fr : Fire) (a : Opnd) (x : Nat), Fires f ownGuard always s fr → s.opA fr = some a → a.raw 0 = (x, false) →
    let lw := fmtLw fr.fmt
    (x ≤ 3 → badWidth lw [a] = none → (fr.e.dReg x).lw = lw →
      exec (.movx f) s = .next (fr.landed (fr.result ((fr.e.dReg x).packet f.ot)) s))
    ∧ ∀ b, s.opB fr = some b → badWidth lw [a, b] = none →
      (x < b.pkt.lanes → exec (.movxLane f) s = .next (fr.landed (fr.lanesOut [b.raw x]) s))
      ∧ (x ≤ 3 →
          let p := { b.whole f.ot with crd := false }
          exec (.movxw f) s = .next (fr.landed { fr.plain with out := some (fr.outPacket p), e := fr.e.setD x p.entry } s))
      ∧ (x < fr.opD.pkt.lanes → badWidth lw [a, b, fr.opD] = none →
          exec (.movxwLane f) s = .next (fr.landed (fr.lanesOut (listSet ((List.range fr.opD.pkt.lanes).map fr.opD.raw) x (b.raw 0))) s))

/-- BITI, BITD, PACK, UNPK, REDA, REDM and SCANA complete (spec 10 R230, R236, R237). BITI interleaves the low M = IMM[8:4] bits of groups of
g = 2 or 3 lanes, BITD the reverse. PACK narrows each lane to the format F = IMM[8:4], saturated with MOD[0]; UNPK widens lanes of F, as
which it also reads a constant (07 R147).
REDA sums, REDM takes the extreme that MOD[1:0] names, SCANA the running sums, without lane i itself with MOD[0]. -/
def Obligations.PackAndReduceComplete : Prop :=
  ∀ (s : State) (f : Slot) (fr : Fire) (a : Opnd), Fires f ownGuard always s fr → s.opA fr = some a →
    let n := a.pkt.lanes
    let g := if fr.md 0 then 3 else 2
    let m := fr.imm 4 5
    let bit (x p : Nat) : Bool := x / 2 ^ p % 2 = 1
    let lanes (l : List (Nat × Bool)) : Host.Outcome State Fault Refusal := .next (fr.landed (fr.lanesOut l) s)
    let sum (sat : Bool) (l : List (Nat × Bool)) : Nat × Bool :=
      let x := (l.map (fun y => laneInt fr.fmt y.1)).foldl (· + ·) 0
      (lowBits fr.w (if sat then saturateInt fr.fmt x else x), l.any (fun y => y.2))
    (badWidth (fmtLw fr.fmt) [a] = none →
      (n % g = 0 → exec (.biti f) s = lanes ((List.range (n / g)).map (fun k =>
        (ofBits ((List.range (g * m)).map (fun p => bit (a.raw (k * g + p % g)).1 (p / g))), (List.range g).any (fun j => (a.raw (k * g + j)).2)))))
      ∧ (n * g ≤ maxLanes fr.w → exec (.bitd f) s = lanes ((List.range n).flatMap (fun k => (List.range g).map (fun j =>
        (ofBits ((List.range m).map (fun i => bit (a.raw k).1 (i * g + j))), (a.raw k).2)))))
      ∧ (let y := ((List.range n).map a.raw).map (fun x =>
          let i := laneInt fr.fmt x.1
          (lowBits (elemBits m) (if fr.md 0 then saturateInt m i else i), x.2))
         exec (.pack f) s = .next (fr.landed (fr.result (dataPacket (fmtLw m) f.ot false (if m = 14 then pairUp y else y))) s))
      ∧ exec (.reda f) s = lanes [sum (fr.md 0) a.values]
      ∧ (∀ x l, a.values = x :: l → exec (.redm f) s = lanes [((l.map (fun y => y.1)).foldl (redmPick fr) x.1, (x :: l).any (fun y => y.2))])
      ∧ (a.pkt.crd = false → exec (.scana f) s = lanes ((List.range n).map (fun i => sum (fr.md 1) (((List.range n).map a.raw).take (if fr.md 0 then i else i + 1))))))
    ∧ ∀ u, s.operandAt fr (lwBits (fmtLw m)) f.sa false = some u → badWidth (fmtLw m) [u] = none →
      let l := (List.range u.pkt.lanes).map u.raw
      (m ≠ 14 → u.pkt.lanes ≤ maxLanes fr.w → exec (.unpk f) s = lanes (l.map (fun x => (lowBits fr.w (laneInt m x.1), x.2))))
      ∧ (m = 14 → 2 * u.pkt.lanes ≤ maxLanes fr.w → exec (.unpk f) s = lanes (l.flatMap (fun x =>
          [(lowBits fr.w (signExt 4 x.1), x.2), (lowBits fr.w (signExt 4 (x.1 / 16)), x.2)])))

/-- The result of a rounding lane-wise float instruction over operands l whose first is a: lane by lane in order, lane i computed by g from lanes
i under the headers, the generator of the element stepping before each computed lane under RM = SR (spec 03 R67, 11 R243). -/
def roundedLanes (fr : Fire) (a : Opnd) (b c : Option Opnd) (n : Nat) (g : BitVec 32 → LaneIn → Nat × Bool) : Done :=
  let q := laneLoop fr true true (some a) b c (fun x r => g r x) (List.range n) fr.e.rng
  { fr.result (fr.pack (some a) q.1) with e := { fr.e with rng := q.2 } }

/-- FADD, FSUB, FMUL, FMIN, FMAX, FCPYS and FSCL complete on operands of the slot's width with agreeing lengths (spec 11 R244): lane i is the
rounded value of the operation on the header values of lanes i, poisoned with either. -/
def floatPairsComplete : Prop :=
  ∀ (s : State) (f : Slot) (fr : Fire) (a b : Opnd) (n : Nat), Fires f ownGuard always s fr → s.opA fr = some a → s.opB fr = some b →
    badWidth (fmtLw fr.fmt) [a, b] = none → outLen fr.w [a, b] = some n →
    let made (g : LaneIn → Val) : Host.Outcome State Fault Refusal :=
      .next (fr.landed (roundedLanes fr a (some b) none n (fun r x => (roundElem fr.fmt fr.rm r (g x), x.pa || x.pb))) s)
    exec (.fadd f) s = made (fun x => Val.add fr.rm (x.va fr.fmt) (x.vb fr.fmt))
    ∧ exec (.fsub f) s = made (fun x => Val.add fr.rm (x.va fr.fmt) (x.vb fr.fmt).negate)
    ∧ exec (.fmul f) s = made (fun x => Val.mul (x.va fr.fmt) (x.vb fr.fmt))
    ∧ exec (.fmin f) s = made (fun x => leastVal (x.va fr.fmt) (x.vb fr.fmt))
    ∧ exec (.fmax f) s = made (fun x => mostVal (x.va fr.fmt) (x.vb fr.fmt))
    ∧ exec (.fscl f) s = made (fun x => (x.va fr.fmt).scale (signExt fr.w x.b))
    ∧ exec (.fcpys f) s = .next (fr.landed (roundedLanes fr a (some b) none n (fun r x =>
        let y := roundElem fr.fmt fr.rm r (x.va fr.fmt).abs
        (if (x.va fr.fmt).isNan then y else y % 2 ^ (fr.w - 1) + x.b / 2 ^ (fr.w - 1) * 2 ^ (fr.w - 1), x.pa || x.pb))) s)

/-- FABS, FNEG, FRND, FRCPE, FRSQE, FEXPT and FCLASS complete (spec 11 R244, R248, R249): FRND rounds to an integer in the slot's mode and
puts that on the slot's format in the same mode (R241); FCLASS reads stored bits and steps no generator. -/
def Obligations.FloatSinglesComplete : Prop :=
  ∀ (s : State) (f : Slot) (fr : Fire) (a : Opnd) (n : Nat), Fires f ownGuard always s fr → s.opA fr = some a →
    badWidth (fmtLw fr.fmt) [a] = none → outLen fr.w [a] = some n →
    let made (g : Val → Val) : Host.Outcome State Fault Refusal :=
      .next (fr.landed (roundedLanes fr a none none n (fun r x => (roundElem fr.fmt fr.rm r (g (x.va fr.fmt)), x.pa))) s)
    exec (.fabs f) s = made Val.abs
    ∧ exec (.fneg f) s = made Val.negate
    ∧ exec (.frcpe f) s = made frcpeVal
    ∧ exec (.frsqe f) s = made frsqeVal
    ∧ exec (.fexpt f) s = made fexptVal
    ∧ exec (.frnd f) s = .next (fr.landed (roundedLanes fr a none none n (fun r x =>
        (roundElem fr.fmt fr.rm r (frndVal fr.rm r (x.va fr.fmt)), x.pa))) s)
    ∧ exec (.fclass f) s = .next (fr.landed (fr.result (fr.pack (some a) (fr.lanesOf a n (fun i => (fclass fr.fmt (a.bl i), a.bp i))))) s)

/-- FFMA, FFMS and FNMA complete (spec 11 R245): a·b + c, a·b − c and −(a·b) + c, rounded once, with the destination entry as c. -/
def fusedComplete : Prop :=
  ∀ (s : State) (f : Slot) (fr : Fire) (a b : Opnd) (n : Nat), Fires f ownGuard always s fr → s.opA fr = some a → s.opB fr = some b →
    badWidth (fmtLw fr.fmt) [a, b, fr.opD] = none → outLen fr.w [a, b, fr.opD] = some n →
    let made (g : Val → Val → Val) : Host.Outcome State Fault Refusal :=
      .next (fr.landed (roundedLanes fr a (some b) (some fr.opD) n (fun r x =>
        (roundElem fr.fmt fr.rm r (g (Val.mul (x.va fr.fmt) (x.vb fr.fmt)) (x.vc fr.fmt)), x.pa || x.pb || x.pc))) s)
    exec (.ffma f) s = made (fun p c => Val.add fr.rm p c)
    ∧ exec (.ffms f) s = made (fun p c => Val.add fr.rm p c.negate)
    ∧ exec (.fnma f) s = made (fun p c => Val.add fr.rm p.negate c)

/-- FCMPEQ, FCMPLT, FCMPLE and FCMPUN complete (spec 11 R246, 07 R161): a lane is all ones where its predicate holds on the header values and 0
elsewhere; with MOD[0] = 1 and no poisoned lane taking part, bit IMM[15:13] of st becomes the outcome. -/
def floatComparesComplete : Prop :=
  ∀ (s : State) (f : Slot) (fr : Fire) (a b : Opnd) (n : Nat), Fires f ownGuard always s fr → s.opA fr = some a → s.opB fr = some b →
    badWidth (fmtLw fr.fmt) [a, b] = none → outLen fr.w [a, b] = some n →
    (fr.md 0 = true → ∀ i < n, fr.active true i = true → (a.bp i || b.bp i) = false) →
    let va (i : Nat) : Val := headerVal a.hdr.pay (elemVal fr.fmt (a.bl i))
    let vb (i : Nat) : Val := headerVal b.hdr.pay (elemVal fr.fmt (b.bl i))
    let made (p : Val → Val → Bool) : Host.Outcome State Fault Refusal :=
      let l := fr.lanesOf a n (fun i => (if p (va i) (vb i) then 2 ^ fr.w - 1 else 0, a.bp i || b.bp i))
      let bit := if fr.md 0 then some (fr.imm 13 3, compareBit fr n (fun i => p (va i) (vb i))) else none
      .next (fr.landed { fr.result (fr.pack (some a) l) with stBit := bit } s)
    exec (.fcmpeq f) s = made Val.eqv
    ∧ exec (.fcmplt f) s = made Val.lt
    ∧ exec (.fcmple f) s = made Val.le
    ∧ exec (.fcmpun f) s = made (fun x y => x.isNan || y.isNan)

/-- FCVT, FCVTI and ICVTF complete on lanes of the format F = IMM[8:4] that fit the result's format, a constant being read as lanes of F (spec
11 R247, 07 R147): every element in order, two to a lane of a pair format, is rounded to the slot's format. FREDA sums exactly and rounds
once (R250). -/
def Obligations.ConversionsComplete : Prop :=
  ∀ (s : State) (f : Slot) (fr : Fire), Fires f ownGuard always s fr →
    let f2 := fr.imm 4 5
    let made (l : List (Nat × Bool)) (r : BitVec 32) : Host.Outcome State Fault Refusal := .next (fr.landed (fr.lanesRng l r) s)
    (∀ a, s.operandAt fr (lwBits (fmtLw f2)) f.sa false = some a → badWidth (fmtLw f2) [a] = none →
      let xs := a.elements f2
      let q := fr.roundAll fr.fmt (xs.map (fun x => (a.value f2 x.1, x.2)))
      (fr.fmt ≠ 13 → xs.length ≤ maxLanes fr.w →
        exec (.fcvt f) s = made q.1 q.2 ∧ exec (.fcvti f) s = made q.1 q.2 ∧ exec (.icvtf f) s = made q.1 q.2)
      ∧ (fr.fmt = 13 → (xs.length + 1) / 2 ≤ maxLanes fr.w →
        exec (.fcvt f) s = made (pairUp q.1) q.2 ∧ exec (.fcvti f) s = made (pairUp q.1) q.2 ∧ exec (.icvtf f) s = made (pairUp q.1) q.2))
    ∧ (∀ a, s.opA fr = some a → badWidth (fmtLw fr.fmt) [a] = none →
        let z := fr.roundAll fr.fmt [(Val.sum fr.rm (a.values.map (fun x => a.value fr.fmt x.1)), a.values.any (fun x => x.2))]
        exec (.freda f) s = made z.1 z.2)

/-- FDOT and the three modes of FALGN complete (spec 11 R250, R251): FDOT sums the products exactly, with lane 0 of the destination entry under
MOD[0], and rounds once; FALGN gives the largest exponent, the elements aligned to an exponent not below theirs, or an MX block header. -/
def Obligations.AlignComplete : Prop :=
  ∀ (s : State) (f : Slot) (fr : Fire), Fires f ownGuard always s fr →
    (∀ a b n, s.opA fr = some a → s.opB fr = some b → badWidth (fmtLw fr.fmt) [a, b] = none → outLen fr.w [a, b] = some n →
      (fr.md 0 = true → badWidth (fmtLw fr.fmt) [fr.opD] = none) →
      let t := (List.range n).map (fun i => Val.mul (a.value fr.fmt (a.bl i)) (b.value fr.fmt (b.bl i)))
      let t := if fr.md 0 then t ++ [elemVal fr.fmt (fr.opD.bl 0)] else t
      let q := fr.roundAll fr.fmt [(Val.sum fr.rm t, (List.range n).any (fun i => a.bp i || b.bp i) || (fr.md 0 && fr.opD.bp 0))]
      exec (.fdot f) s = .next (fr.landed (fr.lanesRng q.1 q.2) s))
    ∧ (∀ a, s.opA fr = some a → badWidth (fmtLw fr.fmt) [a] = none →
      let xs := a.elements fr.fmt
      let ex := xs.filterMap (fun x => valExpo (a.value fr.fmt x.1))
      exec (.falgnExp f) s = .next (fr.landed (fr.lanesOut [(lowBits fr.w (match ex with | [] => 0 | x :: l => l.foldl max x), xs.any (fun x => x.2))]) s)
      ∧ ∀ b ys, s.opB fr = some b → xs.length ≤ 8 →
          xs.map (fun x => alignElem fr.fmt (a.value fr.fmt x.1) x.2 (b.bp 0) (b.int 0)) = ys.map some →
          exec (.falgn f) s = .next (fr.landed (fr.lanesOut ys) s))
    ∧ (∀ b, s.opB fr = some b → b.bp 0 = false →
      let sc := b.int 0 - serialWidth fr.fmt + 128
      0 ≤ sc → sc ≤ 254 →
      exec (.falgnHdr f) s = .next (fr.landed { fr.plain with out := some (hdrPacket (sc.toNat * 8 + fr.imm 8 8 * 2 ^ 11 + fr.imm 7 1 * 2 ^ 19) false f.ot) } s))

/-- LUTE, LUTI, LUTW, RRED, RCOMB and LCLAMP complete (spec 11 R254 to R259): LUTE evaluates the table's function on each lane, or on the even
lanes with MOD[0]; LUTI reads intercept or slope of entries 0 to 255; LUTW writes the lanes of A from an entry up to 257, TC0 only if it is
sound; RRED makes pairs, RCOMB joins them; LCLAMP clamps between lanes 0 and 1 of B. -/
def Obligations.LookupComplete : Prop :=
  ∀ (s : State) (f : Slot) (fr : Fire) (a : Opnd), Fires f ownGuard always s fr → s.opA fr = some a →
    let lanes (q : List (Nat × Bool) × BitVec 32) : Host.Outcome State Fault Refusal := .next (fr.landed (fr.lanesRng q.1 q.2) s)
    let l := (List.range a.pkt.lanes).map a.raw
    (fr.md 0 = false → ∀ n, badWidth (fmtLw fr.fmt) [a] = none → outLen fr.w [a] = some n →
      exec (.lute f) s = .next (fr.landed (roundedLanes fr a none none n (fun r x =>
        let y := fr.e.lutEval fr.rm (x.va fr.fmt)
        (roundElem fr.fmt fr.rm r y.1, x.pa || fr.e.lutFlag 256 || y.2))) s))
    ∧ (badWidth (fmtLw fr.fmt) [a] = none →
      (fr.md 0 = true → a.pkt.lanes % 2 = 0 → exec (.lute f) s = lanes (lutePairs fr a (List.range a.pkt.lanes) fr.e.rng))
      ∧ ((∀ x ∈ a.values, x.2 = false → x.1 ≤ 255) →
          let q := fr.roundAll fr.fmt (a.values.map (fun x =>
            if x.2 then (Val.fin false 0 0, true) else (if fr.md 0 then fr.e.lutSlope x.1 else fr.e.lutIcpt x.1, fr.e.lutFlag x.1)))
          exec (.luti f) s = .next (fr.landed { fr.result (fr.pack (some a) q.1) with e := { fr.e with rng := q.2 } } s))
      ∧ (2 * a.pkt.lanes ≤ maxLanes fr.w →
          exec (.rred f) s = lanes (fr.roundAll fr.fmt (l.flatMap (fun x =>
            let q := reduceVal fr.rm (f.md.toNat % 4) (fr.md 2) (a.value fr.fmt x.1)
            [(q.1, x.2), (q.2, x.2)]))))
      ∧ (a.pkt.lanes % 2 = 0 →
          exec (.rcomb f) s = lanes (fr.roundAll fr.fmt ((List.range (a.pkt.lanes / 2)).map (fun i =>
            (recombine fr.rm (f.md.toNat % 4) (a.value fr.fmt (a.raw (2 * i)).1) (a.value fr.fmt (a.raw (2 * i + 1)).1),
             (a.raw (2 * i)).2 || (a.raw (2 * i + 1)).2)))))
      ∧ (∀ b n, s.opB fr = some b → badWidth (fmtLw fr.fmt) [a, b] = none → 2 ≤ b.pkt.lanes → outLen fr.w [a] = some n →
          let lo := b.value fr.fmt (b.raw 0).1
          let hi := b.value fr.fmt (b.raw 1).1
          let d := laneLoop fr false true (some a) none none (fun x r =>
            let v := x.va fr.fmt
            (roundElem fr.fmt fr.rm r (if v.isNan || lo.isNan || hi.isNan || Val.lt hi lo then Val.nan
              else if Val.lt v lo then lo else if Val.lt hi v then hi else v), x.pa || ((b.raw 0).2 || (b.raw 1).2))) (List.range n) fr.e.rng
          exec (.lclamp f) s = .next (fr.landed { fr.result (fr.pack (some a) d.1) with e := { fr.e with rng := d.2 } } s)))
    ∧ (∀ u b, s.operandAt fr 64 f.sa false = some u → s.opB fr = some b → badWidth 3 [u] = none → b.bp 0 = false →
        b.nat 0 + u.pkt.lanes - 1 ≤ 257 →
        let l := (List.range u.pkt.lanes).map u.raw
        (l.zipIdx.any (fun x => b.nat 0 + x.2 = 256 && tc0Bad x.1.1) = false) →
        exec (.lutw f) s = .next (fr.landed { fr.plain with
          e := l.zipIdx.foldl (fun e x => { e with lut := Map.set 0 e.lut (b.nat 0 + x.2) (BitVec.ofNat 64 x.1.1)
                                                   lutp := Map.set false e.lutp (b.nat 0 + x.2) x.1.2 }) fr.e } s))

/-- NOP, PASS, EMIT, EOSE, STEER and MARK complete (spec 12 R267, R268, R270, R271, R282): NOP has no result; PASS passes the packet that A
supplies, with tag OT under MOD[0]; EMIT makes a DATA result, of IMM[9:7] + 1 lanes of a constant; EOSE raises or lowers the level of an EOS
by IMM[2:0] and drops one that would fall below 0; STEER pushes on the highest or the lowest output of OM; MARK puts lane 0 of B in the tag. -/
def Obligations.TokensComplete : Prop :=
  ∀ (s : State) (f : Slot) (fr : Fire), Fires f ownGuard always s fr →
    let made (d : Done) : Host.Outcome State Fault Refusal := .next (fr.landed d s)
    let pushes (p : Packet) : Host.Outcome State Fault Refusal := made { fr.plain with out := some p }
    exec (.nop f) s = made fr.plain
    ∧ ∀ a, s.opA fr = some a → badWidth (fmtLw fr.fmt) [a] = none →
      (let p := if fr.md 0 then { a.pkt with tag := f.ot } else a.pkt
       exec (.pass f) s = made { fr.plain with res := some p, out := some p })
      ∧ exec (.emit f) s = made (fr.result (if f.sa = 6 then dataPacket (fmtLw fr.fmt) f.ot false (((List.range a.pkt.lanes).map a.raw).take (fr.imm 7 3 + 1)) else a.pkt))
      ∧ (a.pkt.kind ≠ kEos → exec (.eose f) s = pushes a.pkt)
      ∧ (a.pkt.kind = kEos → fr.md 0 = false → exec (.eose f) s = pushes (a.pkt.retag (BitVec.ofNat 3 (Nat.min 7 (a.pkt.tag.toNat + fr.imm 0 3)))))
      ∧ (a.pkt.kind = kEos → fr.md 0 = true → fr.imm 0 3 ≤ a.pkt.tag.toNat → exec (.eose f) s = pushes (a.pkt.retag (BitVec.ofNat 3 (a.pkt.tag.toNat - fr.imm 0 3))))
      ∧ (a.pkt.kind = kEos → fr.md 0 = true → a.pkt.tag.toNat < fr.imm 0 3 → exec (.eose f) s = made fr.plain)
      ∧ (fr.md 1 = false → fr.e.st.getLsbD (fr.imm 13 3) = true → exec (.steer f) s = made { fr.plain with out := some a.pkt, om := highOut f.om })
      ∧ (fr.md 1 = false → fr.e.st.getLsbD (fr.imm 13 3) = false → lowOut f.om ≠ highOut f.om →
          exec (.steer f) s = made { fr.plain with out := some a.pkt, om := lowOut f.om })
      ∧ ∀ b, s.opB fr = some b →
        (fr.md 1 = false → (b.raw 0).2 = false → (b.raw 0).1 ≠ 0 → exec (.steerData f) s = made { fr.plain with out := some a.pkt, om := highOut f.om })
        ∧ (fr.md 1 = false → (b.raw 0).2 = false → (b.raw 0).1 = 0 → lowOut f.om ≠ highOut f.om →
            exec (.steerData f) s = made { fr.plain with out := some a.pkt, om := lowOut f.om })
        ∧ ((b.raw 0).2 = false →
            let p := a.pkt.retag (BitVec.ofNat 3 (b.raw 0).1)
            exec (.mark f) s = made { fr.plain with res := some p, out := some p })

/-- DROP completes (spec 12 R269): nothing is pushed, and each ERR token that it pops, of QA under DQA and of QB under DQB, is counted unless MOD[0]
is 1; one queue named twice is popped once. -/
def dropCompletes : Prop :=
  ∀ (s : State) (f : Slot) (fr : Fire), Fires f ownGuard always s fr →
    (fr.md 0 = true → exec (.drop f) s = .next (fr.landed fr.plain s))
    ∧ (fr.md 0 = false →
        let err (named : Bool) (head : Option Packet) : Nat := if named && head.any (fun p => p.kind = kErr) then 1 else 0
        exec (.drop f) s = .next (s.apply (fr.finish { fr.plain with
          errs := err f.dqa (s.viewOf fr.key f.qa.toNat false) + err (f.dqb && !(f.dqa && f.qb = f.qa)) (s.viewOf fr.key f.qb.toNat true) } s)))

/-- MERGE, SPLIT, CARRY, DELAY and COUNT complete, in each of their cases, on heads of the slot's width (spec 12 R272 to R276): MERGE keeps a
packet and joins others of its tag to it until a packet is full; SPLIT emits pieces; CARRY and DELAY use the slot's carry flag; COUNT adds
up and emits at an EOS of its level. -/
def Obligations.TokenStateComplete : Prop :=
  ∀ (s : State) (f : Slot) (fr : Fire) (a : Opnd), Fires f ownGuard always s fr → s.opA fr = some a → badWidth (fmtLw fr.fmt) [a] = none →
    let made (d : Done) : Host.Outcome State Fault Refusal := .next (fr.landed d s)
    let h := a.pkt
    let d := fr.plain
    let cap := maxLanes fr.w
    (h.kind = kData → fr.e.merge = none → exec (.merge f) s = made { d with popA := true, e := { fr.e with merge := some h } })
    ∧ (∀ m, h.kind = kData → fr.e.merge = some m → h.tag = m.tag → h.crd = m.crd → m.lanes + h.lanes ≤ cap →
        exec (.merge f) s = made (if (m.append h).lanes = cap then { d with popA := true, out := some (m.append h), e := { fr.e with merge := none } }
                                  else { d with popA := true, e := { fr.e with merge := some (m.append h) } }))
    ∧ (∀ m, h.kind = kData → fr.e.merge = some m → (h.tag ≠ m.tag ∨ h.crd ≠ m.crd ∨ cap < m.lanes + h.lanes) →
        exec (.merge f) s = made { d with popA := true, out := some m, e := { fr.e with merge := some h } })
    ∧ (∀ m, h.kind ≠ kData → fr.e.merge = some m → exec (.merge f) s = made { d with popA := false, out := some m, e := { fr.e with merge := none } })
    ∧ (h.kind ≠ kData → fr.e.merge = none → exec (.merge f) s = made { d with popA := true, out := some h })
    ∧ (h.isData = true →
        let step := (fr.imm 0 3 + 1) * (if h.crd then 2 else 1)
        let piece := dataPacket h.lw h.tag h.crd ((h.laneList.drop fr.e.split).take step)
        exec (.split f) s = made (if h.lanes ≤ fr.e.split + step then { d with popA := true, out := some piece, e := { fr.e with split := 0 } }
                                  else { d with popA := false, out := some piece, e := { fr.e with split := fr.e.split + step } }))
    ∧ (h.isData = false → exec (.split f) s = made { d with popA := true, out := some h })
    ∧ (h.isData = true →
        let n := fr.e.count.toNat + (if fr.md 0 then h.lanes else 1)
        exec (.count f) s = made { d with popA := true, e := { fr.e with count := BitVec.ofNat 32 (Nat.min n (2 ^ 32 - 1)) } })
    ∧ (h.kind = kEos → fr.imm 0 3 ≤ h.tag.toNat →
        let x := lowBits fr.w (saturateInt fr.fmt (fr.e.count.toNat : Int))
        exec (.count f) s = made { d with popA := true, out := some (dataPacket (fmtLw fr.fmt) f.ot false [(x, false)]), e := { fr.e with count := 0 } })
    ∧ (h.kind = kEos → h.tag.toNat < fr.imm 0 3 → exec (.count f) s = made { d with popA := true })
    ∧ ∀ b, s.opB fr = some b → badWidth (fmtLw fr.fmt) [a, b] = none →
      (h.isData = true →
        let o := if fr.carryFlag then fr.opD.pkt else b.pkt
        exec (.delay f) s = made { d with popA := true, res := some h, out := some (o.retag f.ot), e := fr.e.setCarry fr.n true })
      ∧ (h.isData = false →
        let ends := h.kind = kEos && decide (f.md.toNat % 8 ≤ h.tag.toNat)
        exec (.delay f) s = made { d with popA := true, out := some h, e := if ends then fr.e.setCarry fr.n false else fr.e })

/-- CARRY completes (spec 12 R274): while its flag is clear it passes the head of QA and sets the flag with a DATA; while the flag is set it
passes the head of QB, and an EOS of level IMM[2:0] or higher clears it. -/
def carryCompletes : Prop :=
  ∀ (s : State) (f : Slot) (fr : Fire), Fires f carryGuard always s fr →
    (fr.e.carry.getLsbD fr.n = false → ∀ a, s.opA fr = some a → badWidth (fmtLw fr.fmt) [a] = none →
      exec (.carry f) s = .next (fr.landed { fr.plain with popA := true, popB := false, out := some a.pkt
                                                           e := if a.pkt.isData then fr.e.setCarry fr.n true else fr.e } s))
    ∧ (fr.e.carry.getLsbD fr.n = true → ∀ b, s.opB fr = some b → badWidth (fmtLw fr.fmt) [b] = none →
      exec (.carry f) s = .next (fr.landed { fr.plain with popA := false, popB := true, out := some b.pkt
                                                           e := if b.pkt.kind = kEos && decide (fr.imm 0 3 ≤ b.pkt.tag.toNat) then fr.e.setCarry fr.n false else fr.e } s))

/-- SINK completes (spec 12 R278): the head is popped; an ERR is counted; an EOS of at least the header's level counts towards IMM + 1, and the
last of them reports to the region controller, once in an invocation. -/
def sinkCompletes : Prop :=
  ∀ (s : State) (f : Slot) (fr : Fire) (a : Opnd), Fires f ownGuard always s fr → s.opA fr = some a → fr.e.reported = false →
    let h := a.pkt
    let d := { fr.plain with popA := true }
    let c := fr.e.sinkc + 1
    (h.isData = true → exec (.sink f) s = .next (fr.landed d s))
    ∧ (h.kind = kErr → exec (.sink f) s = .next (s.apply (fr.finish { d with errs := 1 } s)))
    ∧ (h.kind = kEos → hdrSnkl fr.hdr ≤ h.tag.toNat → c < f.imm.toNat + 1 → exec (.sink f) s = .next (fr.landed { d with e := { fr.e with sinkc := c } } s))
    ∧ (h.kind = kEos → hdrSnkl fr.hdr ≤ h.tag.toNat → f.imm.toNat + 1 ≤ c → ∀ b, s.regionOf fr.key = some b →
        exec (.sink f) s = .next (fr.landed { d with e := { fr.e with sinkc := c, reported := true } }
          { s with regions := Map.set Region.reset s.regions b { s.region b with snkd := (s.region b).snkd + 1 } }))

/-- TSEND and CFGK complete (spec 12 R280, R281): A leaves on oy for a label of the own core or of the core in lane 0 of B, at most 383; or for
staged constant IMM[12:11] of element IMM[10:4], with a commit under MOD[1]. A task packet holds at most 128 bits. -/
def tasksComplete : Prop :=
  ∀ (s : State) (f : Slot) (fr : Fire) (a : Opnd), Fires f ownGuard always s fr → s.opA fr = some a → badWidth (fmtLw fr.fmt) [a] = none →
    let sent (x : PortDest) : Host.Outcome State Fault Refusal := .next (fr.landed { fr.plain with out := some a.pkt, dest := x } s)
    (a.pkt.lanes * a.pkt.width ≤ 128 → exec (.tsend f) s = sent (.label (fr.imm 4 7)))
    ∧ exec (.cfgk f) s = sent (.const fr.core (fr.imm 4 7) (fr.imm 11 2) (fr.md 1))
    ∧ ∀ b c, s.opB fr = some b → b.raw 0 = (c, false) → c ≤ 383 →
        (a.pkt.lanes * a.pkt.width ≤ 128 → exec (.tsendFar f) s = sent (.remote c (fr.imm 4 7)))
        ∧ exec (.cfgkFar f) s = sent (.const c (fr.imm 4 7) (fr.imm 11 2) (fr.md 1))

/-- ERRT, REPAIR and HDR complete (spec 12 R283, R284, R287): ERRT sends its head to the repair element or makes a token of cause 0x25; REPAIR pushes
B as DATA, or reinjects it so at the element that the ERR token names if it lies in the core and region; HDR makes a header token from a queue head of 32-bit lanes,
a data-file entry of the format's, a constant or IMM. -/
def repairsComplete : Prop :=
  ∀ (s : State) (f : Slot) (fr : Fire), Fires f ownGuard always s fr →
    let made (d : Done) : Host.Outcome State Fault Refusal := .next (fr.landed d s)
    (∀ a, s.opA fr = some a →
      exec (.errt f) s = made { fr.plain with out := some a.pkt, dest := .elem (hdrRep fr.hdr) }
      ∧ (badWidth (fmtLw fr.fmt) [a] = none → exec (.errtMake f) s = made { fr.plain with
           out := some (errToken fr.key fr.ctx fr.n 0 0x25 ((a.raw 0).1 % 2 ^ 32) f.ot) })
      ∧ ((a.fixed = false → a.pkt.isData = true → a.pkt.lw = if f.sa = 4 || f.sa = 5 then 2 else fmtLw fr.fmt) →
          exec (.hdr f) s = made { fr.plain with out := some (hdrPacket (if f.sa = 7 then f.imm.toNat else (a.raw 0).1) (a.raw 0).2 f.ot) }))
    ∧ ∀ b, s.opB fr = some b → badWidth (fmtLw fr.fmt) [b] = none →
      exec (.repair f) s = made { fr.plain with out := some { b.pkt with tag := f.ot, kind := kData } }
      ∧ ∀ a blk, s.opA fr = some a → s.regionOf fr.key = some blk →
          let elem := a.pkt.pay.toNat / 2 ^ 16 % 2 ^ 7
          a.pkt.pay.toNat / 2 ^ 23 % 2 ^ 9 = fr.core → (s.region blk).covers elem = true →
          exec (.repairBack f) s = made { fr.plain with out := some { b.pkt with tag := f.ot, kind := kData }, dest := .elem elem }

/-- TIME, WHO and TAGOF complete (spec 12 R282, R286): the core's cycle count in one 64-bit lane or two of 32 bits; where the firing is, and RID;
tag, kind, CRD and length of the packet that A supplies. -/
def Obligations.SystemReadsComplete : Prop :=
  ∀ (s : State) (f : Slot) (fr : Fire), Fires f ownGuard always s fr →
    let lanes (l : List (Nat × Bool)) : Host.Outcome State Fault Refusal := .next (fr.landed (fr.lanesOut l) s)
    (fr.w = 64 → exec (.time f) s = lanes [(s.cycle.toNat, false)])
    ∧ (fr.w ≠ 64 → exec (.time f) s = lanes [(s.cycle.toNat % 2 ^ 32, false), (s.cycle.toNat / 2 ^ 32, false)])
    ∧ exec (.who f) s = lanes [(packFields [(9, fr.core), (7, elemIx fr.key), (3, fr.ctx), (6, s.pkgNum)], false), (hdrRid fr.hdr, false)]
    ∧ ∀ a, s.opA fr = some a →
        let tag := if f.sa = 4 || f.sa = 5 then a.pkt.tag.toNat else 0
        exec (.tagof f) s = lanes [(tag + a.pkt.kind.toNat * 8 + (if a.pkt.crd then 64 else 0) + (if 16 ≤ fr.w then (a.pkt.lanes - 1) * 256 else 0), false)]

/-- TRAP always takes a precise trap of cause 0x58 + IMM[6:4], whatever EPOL says (spec 12 R285, 17 R394 to R396); a guard makes it conditional: a slot
that cannot fire does nothing. The firing stays undone: the element keeps everything it holds, stops, and keeps the trap. In a region that has
no trap yet the block holds STATE trapped, the cause, the element, slot, context and cycle, ORIG 0, and as items bits [63:0] of lane 0 of A
under MOD[0], else none. -/
def Obligations.TrapTakesTrap : Prop :=
  ∀ (s : State) (f : Slot) (fr : Fire), s.canonical = true → s.fireOf f = some fr →
    (s.canFire fr ownGuard always = false → exec (.trap f) s = .next s)
    ∧ ∀ a, s.canFire fr ownGuard always = true → (fr.md 0 = true → s.opA fr = some a) →
      let detail : BitVec 128 := if fr.md 0 then detailOf [(64, (a.raw 0).1)] else 0
      let info : TrapInfo := { cause := 0x58 + fr.imm 4 3, orig := 0, slot := fr.n, ctx := fr.ctx, detail := detail }
      ∃ t, exec (.trap f) s = .next t
        ∧ t.elem fr.key = { s.elem fr.key with trap := some info, stopped := true, stopIn := 0, busy := none, binds := (t.elem fr.key).binds }
        ∧ t.mem = s.mem ∧ t.am = s.am ∧ t.sems = s.sems ∧ t.bars = s.bars ∧ t.cycle = s.cycle
        ∧ ∀ b, s.regionOf fr.key = some b → (s.region b).tv = false →
          (t.region b).state = .trapped ∧ (t.region b).tv = true ∧ (t.region b).cause = 0x58 + fr.imm 4 3 ∧ (t.region b).orig = 0
          ∧ (t.region b).elem = elemIx fr.key ∧ (t.region b).slot = fr.n ∧ (t.region b).tctx = fr.ctx ∧ (t.region b).cyc = s.cycle
          ∧ (t.region b).detail = detail ∧ (t.region b).more = 0

/-- SLD, SLDS and SGTH complete (spec 09 R191 to R193): each lane is what stands at its scratchpad bytes, poisoned with a poisoned sector among
them, and reading corrects a wrong bit of a sector (04 R82); a poisoned index lane of SGTH gives zero, poisoned. SLDS steps its generator, and with MOD[1] a state bit tells the last address. -/
def Obligations.ScratchLoadsComplete : Prop :=
  ∀ (s : State) (f : Slot) (fr : Fire),
    let made (d : Done) (read : List Int) : Host.Outcome State Fault Refusal := .next (fr.landed d (s.apply (s.padReads fr.key read)))
    (Fires f ownGuard Fire.readySld s fr →
      let n := f.md.toNat % 8 + 1
      exec (.sld f) s = made (fr.lanesOut ((chunksOf (fr.w / 8) n (fr.fixedBytes n)).map (s.padLane fr.key))) (fr.fixedBytes n))
    ∧ (Fires f ownGuard Fire.readySlds s fr →
      let g := fr.desc
      exec (.slds f) s = made { fr.lanesOut ((chunksOf g.laneBytes g.lanes fr.affine).map (s.padLane fr.key)) with
        e := fr.e.stepGen (if fr.md 0 then 1 else 0) g
        stBit := if fr.md 1 then some (fr.imm 10 3, g.isLast (fr.e.gen (if fr.md 0 then 1 else 0))) else none } fr.affine)
    ∧ (Fires f ownGuard Fire.readySgth s fr → ∀ x, s.opA fr = some x →
      let l := (List.range x.pkt.lanes).map x.raw
      (l.any (fun i => !i.2 && decide (fr.desc.cntm 0 < i.1)) = false) →
      exec (.sgth f) s = made (fr.lanesOut (l.map (fun i => if i.2 then (0, true) else s.padLane fr.key (fr.desc.entry i.1))))
        (fr.desc.touched l))

/-- SST, SSTS, SSCT and SZERO complete (spec 09 R191 to R193, R198): the lanes that fit are written to their scratchpad bytes, ascending by lane; a
poisoned lane beyond the end, or under a poisoned index, is skipped and counted; SZERO clears 2^IMM[12:9] lines from line IMM[8:0]. What is
written outside priority-queue mode ends the queue, whose arrangement the bytes then hold (R195). -/
def Obligations.ScratchStoresComplete : Prop :=
  ∀ (s : State) (f : Slot) (fr : Fire),
    (Fires f ownGuard Fire.readySst s fr → ∀ a, s.opA fr = some a → badWidth (fmtLw fr.fmt) [a] = none →
      let wb := fr.w / 8
      let l := (((List.range a.pkt.lanes).map a.raw).zipIdx).map (fun x => (fr.imm 0 15 + x.2 * wb, x.1))
      let out (x : Nat × (Nat × Bool)) : Bool := decide (32768 < x.1 + wb)
      l.filter (fun x => out x && !x.2.2) = [] →
      let ins := l.filter (fun x => !out x)
      let w := padWrite fr.key (laneBytesOf wb (ins.flatMap (fun x => (List.range wb).map (fun j => ((x.1 + j : Nat) : Int)))) (ins.map (fun x => x.2)))
      exec (.sst f) s = .next (s.apply (fr.finish { fr.plain with
        e := s.padTouched fr.key w fr.e, errs := (l.filter out).length, pre := s.padPre fr.key w } s)))
    ∧ (Fires f ownGuard Fire.readySsts s fr → ∀ a, s.opA fr = some a → badWidth (fmtLw fr.fmt) [a] = none → a.pkt.lanes = fr.desc.lanes →
      let w := padWrite fr.key (laneBytesOf fr.desc.laneBytes fr.affine ((List.range a.pkt.lanes).map a.raw))
      exec (.ssts f) s = .next (fr.landed { fr.plain with e := s.padTouched fr.key w fr.stepped, stBit := fr.wrapBit } (s.apply (s.padPre fr.key w))))
    ∧ (Fires f ownGuard Fire.storeReady s fr → ∀ x b n, s.opA fr = some x → s.opB fr = some b → badWidth (fmtLw fr.fmt) [b] = none →
      outLen fr.w [x, b] = some n →
      let l := (List.range n).map (fun i => (x.bl i, x.bp i))
      (l.any (fun i => !i.2 && decide (fr.desc.cntm 0 < i.1)) = false) →
      let w := l.zipIdx.flatMap (fun y => if y.1.2 then [] else
        padWrite fr.key (laneBytesOf fr.desc.laneBytes (fr.desc.entry y.1.1) [(b.bl y.2, b.bp y.2)]))
      exec (.ssct f) s = .next (s.apply (fr.finish { fr.plain with
        e := s.padTouched fr.key w fr.e, errs := (l.filter (fun i => i.2)).length, pre := s.padPre fr.key w } s)))
    ∧ (Fires f ownGuard Fire.readySzero s fr →
      let z := spadBase fr.core (elemIx fr.key)
      let lo := z + 64 * fr.imm 0 9
      let c : List Effect := [.clear lo (Nat.min (lo + 64 * 2 ^ fr.imm 9 4) (z + 32768))]
      exec (.szero f) s = .next (fr.landed { fr.plain with e := s.padTouched fr.key c fr.e } (s.apply (s.padPre fr.key c))))

/-- SAMO, SPND, PQIN and PQOUT complete (spec 09 R194, R196 to R198): SAMO gives the old lanes, each operation on what the lanes before it left; SPND
tells whether any of its lines is pending; PQIN inserts the entries of a coordinate-mode packet behind those of no greater key; PQOUT takes
up to IMM[5:4] + 1 entries from the front, those within B's bound under MOD[1]; with none it pushes an EOS of level OT. Either leaves the
scratchpad's bytes in an arrangement that is free (log 17). -/
def queueOpsComplete : Prop :=
  ∀ (s : State) (f : Slot) (fr : Fire),
    (Fires f ownGuard Fire.storeReady s fr → ∀ x b n, s.opA fr = some x → s.opB fr = some b → badWidth (fmtLw fr.fmt) [b] = none →
      outLen fr.w [x, b] = some n →
      let l := (List.range n).map (fun i => (x.bl i, x.bp i))
      (l.any (fun i => !i.2 && decide (fr.desc.cntm 0 < i.1)) = false) →
      let fix := s.padReads fr.key (fr.desc.touched l)
      let q := fr.samoLanes b l.zipIdx ((s.seen fr.key).apply fix)
      exec (.samo f) s = .next (s.apply (fr.finish { fr.lanesOut q.1 with
        e := s.padTouched fr.key q.2 fr.e, errs := (l.filter (fun i => i.2)).length, pre := fix ++ s.padPre fr.key q.2 } s)))
    ∧ (Fires f ownGuard always s fr →
      exec (.spnd f) s = .next (fr.landed { fr.plain with
        stBit := some (fr.imm 13 3, fr.e.pend.any (fun p => decide (fr.imm 0 9 ≤ p.1) && decide (p.1 < fr.imm 0 9 + 2 ^ fr.imm 9 4))) } s))
    ∧ (Fires f ownGuard Fire.readyPqin s fr → ∀ a, s.opA fr = some a → badWidth (fmtLw fr.fmt) [a] = none → a.pkt.crd = true →
      let good := (a.entries.filter (fun x => !x.2)).map (fun x => x.1)
      exec (.pqin f) s = .next (s.apply (fr.finish { fr.plain with
        e := { fr.e with pq := good.foldl (fun q x => pqInsert x q) fr.e.pq, pqAt := some s.free }
        errs := (a.entries.filter (fun x => x.2)).length, pre := [.free (s.free + 1024)] } s)))
    ∧ (Fires f ownGuard Fire.readyPqout s fr →
      let made (l : List PqEntry) : Host.Outcome State Fault Refusal :=
        let q := l.take (fr.imm 4 2 + 1)
        .next (if q = [] then fr.landed { fr.plain with out := some (eosPacket fr.outLw f.ot) } s
          else fr.landed { fr.result (dataPacket 2 f.ot true (q.flatMap (fun x => [(x.key.toNat, false), (x.val.toNat, x.pois)]))) with
                           e := { fr.e with pq := fr.e.pq.drop q.length, pqAt := some s.free } } { s with free := s.free + 1024 })
      (fr.md 1 = false → exec (.pqout f) s = made fr.e.pq)
      ∧ (fr.md 1 = true → ∀ b, s.opB fr = some b → b.pkt.lw = 2 → b.bp 0 = false →
          exec (.pqout f) s = made (fr.e.pq.takeWhile (fun x => decide (x.key.toNat ≤ b.nat 0)))))

/-- DELTA completes (spec 12 R277): a head that is not DATA passes; for a coordinate-mode head whose coordinates are within the table, the entries
that changed by the threshold are written and passed on, those with a poisoned coordinate are counted. -/
def deltaCompletes : Prop :=
  ∀ (s : State) (f : Slot) (fr : Fire) (a : Opnd), Fires f ownGuard Fire.readyDelta s fr → s.opA fr = some a →
    (a.pkt.isData = false → exec (.delta f) s = .next (fr.landed { fr.plain with res := some a.pkt, out := some a.pkt } s))
    ∧ (a.pkt.isData = true → a.pkt.crd = true → badWidth (fmtLw fr.fmt) [a] = none →
      (∀ i < a.pkt.lanes, i % 2 = 0 → (a.raw i).2 = false → (a.raw i).1 ≤ fr.desc.cntm 0) →
      let k := fr.e.kReg (fr.imm 2 2)
      let fix := s.padReads fr.key (fr.desc.touched (a.entries.map (fun x => (x.1.key.toNat, x.2))))
      let q := fr.deltaLanes a (elemVal fr.fmt (k.val.toNat % 2 ^ fr.w)) (k.pois.getLsbD 0) a.entries ((s.seen fr.key).apply fix)
      let p := if q.2 = [] then none else some (dataPacket (fmtLw fr.fmt) a.pkt.tag true q.2)
      exec (.delta f) s = .next (s.apply (fr.finish { fr.plain with
        e := s.padTouched fr.key q.1 fr.e, errs := (a.entries.filter (fun x => x.2)).length, pre := fix ++ s.padPre fr.key q.1, res := p, out := p } s)))

/-- Every compare of integers and of floats completes (spec 10 R227, 11 R246, 07 R161): integerComparesComplete and floatComparesComplete. -/
def Obligations.ComparesComplete : Prop := integerComparesComplete ∧ floatComparesComplete

/-- The rounding float instructions of two and of three operands complete (spec 11 R244, R245): floatPairsComplete and fusedComplete. -/
def Obligations.FloatArithmeticComplete : Prop := floatPairsComplete ∧ fusedComplete

/-- DROP, CARRY and SINK complete (spec 12 R269, R274, R278): dropCompletes, carryCompletes and sinkCompletes. -/
def Obligations.TokenEndsComplete : Prop := dropCompletes ∧ carryCompletes ∧ sinkCompletes

/-- TSEND, CFGK, ERRT, REPAIR and HDR complete (spec 12 R280, R281, R283, R284, R287): tasksComplete and repairsComplete. -/
def Obligations.TasksAndRepairsComplete : Prop := tasksComplete ∧ repairsComplete

/-- SAMO, SPND, PQIN, PQOUT and DELTA complete (spec 09 R194 to R198, 12 R277): queueOpsComplete and deltaCompletes. -/
def Obligations.ScratchOpsComplete : Prop := queueOpsComplete ∧ deltaCompletes

/-- LDS, LDX, STS and STX complete when every piece of the access passes its checks (spec 09 R192, R193, R199, 02 R54, 15 R343): the accesses are
issued in order, a load's data bound for a return-buffer entry of OM's outputs; LDS and STS step their generator; a poisoned index lane
accesses nothing, and of a store it is counted. -/
def streamsComplete : Prop :=
  ∀ (s : State) (f : Slot) (fr : Fire), Fires f ownGuard always s fr →
    let w := s.fabWho fr.key 0
    let g := fr.desc
    (∀ ps, s.located w .read fr.affine.zipIdx = .ok ps →
      let l := s.issue fr.key none (ps.map (fun x => (.load (s.nextId + 1) x.1, x.2)))
      exec (.lds f) s = .next (fr.landed { fr.plain with
        pre := l, stBit := fr.wrapBit, e := fr.deferred (s.nextId + 1) (dataPacket g.lw f.ot false (List.replicate g.lanes (0, false))) ps.length fr.stepped } (s.apply l)))
    ∧ (∀ x, s.opA fr = some x →
      let ls := (List.range x.pkt.lanes).map x.raw
      (ls.any (fun i => !i.2 && decide (g.cntm 0 < i.1)) = false) → ∀ ps, s.locatedAll w .read (fr.indexItems ls) = .ok ps →
      let l := s.issue fr.key none (ps.map (fun x => (.load (s.nextId + 1) x.1, x.2)))
      exec (.ldx f) s = .next (fr.landed { fr.plain with
        pre := l, e := fr.deferred (s.nextId + 1) (dataPacket g.lw f.ot false (ls.map (fun i => (0, i.2)))) ps.length fr.e } (s.apply l)))
    ∧ (∀ a ps st, s.opA fr = some a → badWidth (fmtLw fr.fmt) [a] = none → a.pkt.lanes = g.lanes →
      s.located w .write fr.affine.zipIdx = .ok ps → storesAt w (markedBytes g.laneBytes ((List.range a.pkt.lanes).map a.raw)) ps = .ok st →
      let l := s.issue fr.key none st
      exec (.sts f) s = .next (fr.landed { fr.plain with pre := l, e := fr.stepped, stBit := fr.wrapBit } (s.apply l)))
    ∧ (∀ x b n, s.opA fr = some x → s.opB fr = some b → badWidth (fmtLw fr.fmt) [b] = none → outLen fr.w [x, b] = some n →
      let ls := (List.range n).map (fun i => (x.bl i, x.bp i))
      (ls.any (fun i => !i.2 && decide (g.cntm 0 < i.1)) = false) → ∀ ps st, s.locatedAll w .write (fr.indexItems ls) = .ok ps →
      storesAt w (markedBytes g.laneBytes ((List.range n).map (fun i => (b.bl i, b.bp i)))) ps = .ok st →
      exec (.stx f) s = .next (s.apply (fr.finish { fr.plain with pre := s.issue fr.key none st, errs := (ls.filter (fun i => i.2)).length } s)))

/-- LDA, STA and AMO complete (spec 09 R194, R201, 15 R350, 18 R429): with an unpoisoned index in the table, an access that passes its checks, nothing
to wait for, its core awake and, where another package holds the bytes, its answer there, LDA gives what memory holds and AMO the old value
of the indivisible operation, compare and swap with its two operands among them; STA issues its store, a release with `.rel` or `.sc`. -/
def orderedComplete : Prop :=
  ∀ (s : State) (f : Slot) (fr : Fire) (x : Opnd), Fires f ownGuard always s fr → s.opA fr = some x → x.bp 0 = false → x.nat 0 ≤ fr.desc.cntm 0 →
    let w := s.fabWho fr.key fr.scope
    let items := (fr.desc.entry (x.nat 0)).zipIdx
    let answered : Fire := { fr with e := { fr.e with asks := [] } }
    (∀ ps, s.located w .read items = .ok ps → s.lacking fr.e.asks (ps.map (fun p => p.2)) = [] →
      s.mustWait fr.key false (if fr.order = 3 then some fr.scope else none) ps = false → ps.any (fun p => (s.gatedFor p.2.x.pkg p.2.x.pa).isSome) = false →
      s.cutPiece (ps.map (fun p => p.2)) = none →
      let bytes := s.fetchFrom fr.e.asks s.free (ps.map (fun p => p.2))
      let m := bytes.any (fun b => b.2)
      exec (.lda f) s = .next (answered.landed { answered.result (dataPacket fr.desc.lw f.ot false [(leNat (bytes.map (fun b => b.1)), m)]) with
        stBit := if fr.md 2 then some (fr.imm 10 3, m) else none } (s.apply (s.reachAll fr.core (s.tcidOf fr.key) false (ps.map (fun p => p.2))))))
    ∧ ∀ b, s.opB fr = some b → badWidth (fmtLw fr.fmt) [b] = none →
      (∀ ps st, s.located w .write items = .ok ps → storesAt w (markedBytes fr.desc.laneBytes [(b.bl 0, b.bp 0)]) ps = .ok st →
        (fr.order = 3 → s.unperformed fr.key fr.scope = []) →
        let l := s.issue fr.key (if 2 ≤ fr.order then some fr.scope else none) st
        exec (.sta f) s = .next (fr.landed { fr.plain with pre := l } (s.apply l)))
      ∧ (∀ p l, (fr.imm 4 4 = 9 → b.count = 2) → s.checkPart w .atomic ((fr.desc.entry (x.nat 0)).headD 0) fr.desc.laneBytes = .ok (p :: l) →
        (p.x.pkg = s.pkgNum → atomicRefused p.x.pa (fr.imm 4 4) = false) → s.mustWait fr.key true fr.amoFence [(0, p)] = false →
        s.gatedFor p.x.pkg p.x.pa = none → s.cutPiece [p] = none →
        let pois := b.bp 0 || (fr.imm 4 4 = 9 && b.bp 1)
        let done (old : Nat) (m : Bool) (fr : Fire) (l : List Effect) : Host.Outcome State Fault Refusal :=
          .next (fr.landed { fr.result (dataPacket fr.desc.lw f.ot false [(old, m)]) with
            stBit := if fr.md 2 then some (fr.imm 10 3, m) else none } (s.apply l))
        let reach := s.reach fr.core (s.tcidOf fr.key) true p
        (p.x.pkg = s.pkgNum →
          let q := s.atomic p.x.kid p.x.pa fr.desc.laneBytes (fr.imm 4 4) (b.bl 0) (if fr.imm 4 4 = 9 then b.bl 1 else 0) pois w.role
          exec (.amo f) s = done q.1 (q.2.1 || pois) fr (reach ++ q.2.2))
        ∧ (p.x.pkg ≠ s.pkgNum → s.lacking fr.e.asks [p] = [] →
          let old := s.fetchFrom fr.e.asks s.free [p]
          exec (.amo f) s = done (leNat (old.map (fun y => y.1))) (old.any (fun y => y.2) || pois) answered reach))

/-- MCST, PREF and FENCE complete (spec 09 R202 to R204, 15 R345, R351): MCST issues its store and the copies of its packet; PREF fills the cache lines
that its unpoisoned index lanes within the table name, and drops what fails; FENCE orders what is issued: `.acq` notes the loads, `.rel` the
accesses at the scope, and `.sc` completes when none at the scope is left unperformed. -/
def fencesComplete : Prop :=
  ∀ (s : State) (f : Slot) (fr : Fire), Fires f ownGuard always s fr →
    (∀ a b, s.opA fr = some a → s.opB fr = some b → badWidth (fmtLw fr.fmt) [a] = none → a.pkt.lanes * a.pkt.width ≤ 64 →
      b.bp 0 = false → b.nat 0 ≤ fr.desc.cntm 0 → ∀ ps st,
      let w := s.fabWho fr.key fr.scope
      let va := (fr.desc.entry (b.nat 0)).headD 0
      s.located w .write ((List.range (a.pkt.lanes * a.pkt.width / 8)).map (fun (j : Nat) => (va + (j : Int), j))) = .ok ps →
      storesAt w (markedBytes (a.pkt.width / 8) ((List.range a.pkt.lanes).map a.raw)) ps = .ok st →
      let copy : MemOp := .copies (fr.mcWord % 2 ^ 7) (fr.mcWord / 2 ^ 8 % 2 ^ 4) (dataPacket a.pkt.lw 0 a.pkt.crd ((List.range a.pkt.lanes).map a.raw))
      let l := s.issue fr.key (if 2 ≤ fr.order then some fr.scope else none) ((copy, ⟨⟨s.pkgNum, 0, true, 0⟩, 0, 0⟩) :: st)
      exec (.mcst f) s = .next (fr.landed { fr.plain with pre := l } (s.apply l)))
    ∧ (∀ x, s.opA fr = some x →
      let named := ((List.range x.pkt.lanes).map x.raw).filter (fun i => !i.2 && decide (i.1 ≤ fr.desc.cntm 0))
      exec (.pref f) s = .next (fr.landed fr.plain
        (s.apply (s.prefetchAll fr.core (s.tcidOf fr.key) (named.map (fun i => (fr.desc.entry i.1).headD 0))))))
    ∧ (fr.order = 1 → exec (.fence f) s = .next (fr.landed { fr.plain with e := { fr.e with
        fenceLd := ((s.pending.filter (fun a => a.key = fr.key)).filter (fun a => a.op.isLoad || fr.e.fenceLd.contains a.id)).map (fun a => a.id) } } s))
    ∧ (fr.order = 2 → exec (.fence f) s = .next (fr.landed { fr.plain with e := { fr.e with
        fenceAll := ((s.pending.filter (fun a => a.key = fr.key)).filter (fun a => s.owed fr.scope a || fr.e.fenceAll.contains a.id)).map (fun a => a.id) } } s))
    ∧ (fr.order ≠ 1 → fr.order ≠ 2 → s.unperformed fr.key fr.scope = [] → exec (.fence f) s = .next (fr.landed fr.plain s))

/-- XFENCE and DRAIN complete (spec 09 R205, R206, 15 R355, R356). One that begins watches the accesses, the commands or the contributions of the
class it names at its scope, or the stores and the commands that write the kind of memory: with none it completes at once. One in progress
completes when all that it watches is performed, complete, or added or refused. -/
def classFencesComplete : Prop :=
  ∀ (s : State) (f : Slot) (fr : Fire), Fires f ownGuard always s fr →
    let done : Host.Outcome State Fault Refusal := .next (fr.landed { fr.plain with e := { fr.e with watch := [] } } s)
    (fr.e.busy = none →
      (s.firstClass fr.key fr.scope (fr.imm 0 3) = [] → exec (.xfence f) s = done)
      ∧ (s.drained fr.key (fr.imm 0 3) (fr.imm 4 3) = [] → exec (.drain f) s = done))
    ∧ (fr.e.busy = some fr.n → (∀ i ∈ fr.e.watch, i ∉ s.unfinished fr.core) → exec (.xfence f) s = done ∧ exec (.drain f) s = done)

/-- Until then the firing of an XFENCE or a DRAIN goes on, and changes only what it still watches (spec 09 R205, R206). -/
def classFencesWait : Prop :=
  ∀ (s : State) (f : Slot) (fr : Fire), Fires f ownGuard always s fr →
    let left (start : List Nat) : List Nat := (if fr.e.busy = some fr.n then fr.e.watch else start).filter (fun i => (s.unfinished fr.core).contains i)
    let goesOn (l : List Nat) : Host.Outcome State Fault Refusal :=
      .next { s with elems := Map.set Elem.reset s.elems fr.key { fr.e with watch := l, busy := some fr.n, left := 0, cons := s.consOf fr.key fr.e } }
    (∀ l, left (s.firstClass fr.key fr.scope (fr.imm 0 3)) = l → l ≠ [] → exec (.xfence f) s = goesOn l)
    ∧ (∀ l, left (s.drained fr.key (fr.imm 0 3) (fr.imm 4 3)) = l → l ≠ [] → exec (.drain f) s = goesOn l)

/-- The loads, stores and atomics of a stream element complete (spec 09 R192 to R201): streamsComplete and orderedComplete. -/
def Obligations.StreamAccessesComplete : Prop := streamsComplete ∧ orderedComplete

/-- Multicast, prefetch and the fences complete (spec 09 R202 to R206, 15 R345, R351, R355, R356): fencesComplete and classFencesComplete. A fence of
classes goes on until then: classFencesWait. -/
def Obligations.FencesComplete : Prop := fencesComplete ∧ classFencesComplete ∧ classFencesWait

/-- SWAIT, SSIG, SINIT, BINIT, BARV and BWAIT complete (spec 09 R208 to R211, 05 R111 to R115): a wait whose condition holds gives two 32-bit lanes and
a state bit; the others issue one operation on the object, a release with `.rel` or `.sc`. -/
def Obligations.SynchronisationComplete : Prop :=
  ∀ (s : State) (f : Slot) (fr : Fire) (a : Opnd), s.opA fr = some a →
    let sem := winBase fr.core + 0x310000 + 8 * fr.imm 5 8
    let bar := winBase fr.core + 0x311000 + 16 * fr.imm 2 11
    let acts (pa size : Nat) (op : MemOp) : Host.Outcome State Fault Refusal :=
      let l := s.issue fr.key (if 2 ≤ fr.order then some fr.scope else none) [(op, ⟨⟨s.pkgNum, 0, true, pa⟩, 0, size⟩)]
      .next (fr.landed { fr.plain with pre := l } (s.apply l))
    (Fires f ownGuard Fire.readySwait s fr →
      let w := s.sem fr.core (fr.imm 5 8)
      exec (.swait f) s = .next (fr.landed { fr.result (dataPacket 2 f.ot false [(w.toNat % 2 ^ 32, a.bp 0), ((semRole w).toNat, a.bp 0)]) with
        stBit := some (fr.imm 2 3, semErr w || a.bp 0) } s))
    ∧ (Fires f ownGuard Fire.readyBwait s fr →
      let b := barOf (s.bar fr.core (fr.imm 2 11))
      exec (.bwait f) s = .next (fr.landed { fr.result (dataPacket 2 f.ot false
        [((if b.phase then 1 else 0) + 2 * (if b.err then 1 else 0) + 4 * b.cause, a.bp 0), (b.role.toNat, a.bp 0)]) with
        stBit := some (f.md.toNat / 4, b.err || a.bp 0) } s))
    ∧ (Fires f ownGuard always s fr →
      exec (.ssig f) s = acts sem 8 (.signal (a.int 0) (a.bp 0))
      ∧ exec (.sinit f) s = acts sem 8 (.semInit (Nat.min (a.nat 0) 0xFFFFFF) (a.bp 0))
      ∧ (a.pkt.lw = 2 → 2 ≤ a.pkt.lanes → (a.raw 0).1 ≤ 4095 →
          exec (.binit f) s = acts bar 16 (.barInit (a.raw 0).1 (a.raw 1).1 ((a.raw 0).2 || (a.raw 1).2)))
      ∧ (1 ≤ a.nat 0 → a.nat 0 ≤ 4095 → exec (.barv f) s = acts bar 16 (.barArrive (a.nat 0) (a.bp 0))))

/-- ECMD and ERESP (spec 09 R212, R213): ECMD offers the command of 64 bytes that A and B make to the engine its opcode selects, and its firing lasts
until the engine accepts it; ERESP gives the completion record of the oldest tracked command, once there is one, and forgets it. -/
def Obligations.EngineSlotsComplete : Prop :=
  ∀ (s : State) (f : Slot) (fr : Fire),
    (Fires f ownGuard Fire.readyEcmd s fr → ∀ a b, s.opA fr = some a → s.opB fr = some b →
      a.pkt.lanes * a.pkt.width = 256 → b.pkt.lanes * b.pkt.width = 256 → a.anyPois = false → b.anyPois = false →
      let c := commandFrom a.pkt.pay b.pkt.pay
      let k := 4 * fr.core + engineOf c
      s.offered fr.key (engineOf c) = false → (s.consOf fr.key fr.e && s.pending.any (fun p => p.key = fr.key && p.op.isLoad)) = false →
      exec (.ecmd f) s = .next { s with
        engines := Map.set Engine.reset s.engines k { s.engine fr.core (engineOf c) with
          offers := (s.engine fr.core (engineOf c)).offers ++ [{ c := c, src := .elem fr.key, tcid := s.tcidOf fr.key, slot := fr.n }] }
        elems := Map.set Elem.reset s.elems fr.key { fr.e with busy := some fr.n, left := 0, cons := s.consOf fr.key fr.e } })
    ∧ (Fires f ownGuard Fire.readyEresp s fr → ∀ t rest r, fr.e.tracked = t :: rest → t.done = some r →
      exec (.eresp f) s = .next (fr.landed { fr.result (dataPacket 3 f.ot false [(r.toNat, false)]) with
        e := { fr.e with tracked := rest }, stBit := if fr.md 2 then some (fr.imm 10 3, r.toNat % 256 ≠ 0) else none } s))

/-- MWLD, MWSEL, MSCL, MSUMW, MCLR and MSTAT complete (spec 13 R301 to R304, R309, R310): MWLD writes the cells, exponents and mode of bank IMM[1:0]
for elements that fit its columns and the format; MWSEL selects the active bank; MSCL writes column descriptors; MSUMW the sums of the
columns' halves and SV; MCLR clears column registers, and under MOD row buffers and PIN, and sets XC; MSTAT reads the status and XC. -/
def Obligations.MatrixStateComplete : Prop :=
  ∀ (s : State) (f : Slot) (fr : Fire), Fires f ownGuard always s fr →
    let m := fr.e.me
    let b := fr.imm 0 2
    let made (d : Done) : Host.Outcome State Fault Refusal := .next (fr.landed d s)
    let left (m : MeState) : Done := { fr.plain with e := { fr.e with me := m } }
    exec (.mwsel f) s = made (left { m with ab := BitVec.ofNat 2 b })
    ∧ exec (.msumw f) s = made (left { m with
        sum := (List.range (m.cols b)).foldl (fun t j => [0, 1].foldl (fun t h => Map.set 0 t (halfKey b j h)
          (((List.range 32).map (fun k => (m.weight b (32 * h + k) j).1)).foldl (· + ·) 0)) t) m.sum
        sv := Map.set false m.sv b true })
    ∧ (let m1 := { m with cr := [], rv := false, xc := BitVec.ofNat 9 (fr.imm 0 9) }
       let m2 := if fr.md 0 then { m1 with rb0 := RowBuf.none, rb1 := RowBuf.none } else m1
       exec (.mclr f) s = made { fr.plain with e := { fr.e with me := m2, pin := if fr.md 1 then none else fr.e.pin } })
    ∧ exec (.mstat f) s = made (fr.result (dataPacket 2 f.ot false [(m.status (s.pinOf fr.key).isSome, false), (m.xc.toNat, false)]))
    ∧ ∀ a, s.opA fr = some a →
      (a.pkt.lw = 2 → fr.imm 8 7 + a.pkt.lanes ≤ m.cols b →
        exec (.mscl f) s = made (left ((((List.range a.pkt.lanes).map a.raw).zipIdx).foldl (fun m x => m.describe b (fr.imm 8 7 + x.2) (fr.imm 2 2) x.1.1 x.1.2) m)))
      ∧ (∀ cells, f.md.toNat < 3 → badWidth 0 [{ a with fixed := false }] = none → fr.weightCells a none = cells.map some →
        fr.imm 8 7 + cells.length - 1 < modeCols (BitVec.ofNat 2 (weightMode f.md.toNat)) →
        (∀ c ∈ cells, -128 ≤ c.xb ∧ c.xb ≤ 127) → exec (.mwld f) s = made (left (fr.loadWeights a true cells s.free)))
      ∧ (∀ o cells, 3 ≤ f.md.toNat → s.opB fr = some o → badWidth (lwCode (weightBits f.md.toNat)) [{ a with fixed := false }] = none →
        (a.count = o.count ∨ a.count = 1 ∨ o.count = 1) → fr.weightCells a (some o) = cells.map some →
        fr.imm 8 7 + cells.length - 1 < modeCols (BitVec.ofNat 2 (weightMode f.md.toNat)) →
        (∀ c ∈ cells, -128 ≤ c.xb ∧ c.xb ≤ 127) → exec (.mwld f) s = made (left (fr.loadWeights a false cells s.free)))

/-- MPASS in both modes, MFEED, MZPC and MOUT complete (spec 13 R305 to R308): a pass over the older ready buffer with one zero point in each half
adds every column's exact sum, keeps the row sums, empties the buffer, and under MOD[1] goes to the next bank; MFEED adds rows to a buffer;
MZPC subtracts the zero-point corrections; MOUT moves the columns, joined with the PIN under MOD[0], to the south PIN and clears them. -/
def Obligations.MatrixRowsComplete : Prop :=
  ∀ (s : State) (f : Slot) (fr : Fire),
    let m := fr.e.me
    let made (d : Done) : Host.Outcome State Fault Refusal := .next (fr.landed d s)
    let left (m : MeState) : Done := { fr.plain with e := { fr.e with me := m } }
    (Fires f ownGuard Fire.readyMpass s fr → ∀ i, m.older = some i →
      let rows := (m.buf i).rows
      mixedZero rows = none → ((∀ r ∈ rows, r.zero = 0) ∨ m.svOf m.ab.toNat = true) →
      let vals := rows.map (fun r => r.val fr.fmt)
      let sums := (List.range (m.cols m.ab.toNat)).map (fun j => ((m.columnSum m.ab.toNat j vals rows).1, poisBit (m.columnSum m.ab.toNat j vals rows).2))
      let d := left { (m.setBuf i RowBuf.none).addColumns sums with
        lb := m.ab, ra0 := rowSum vals rows 0, ra1 := rowSum vals rows 1, rv := true, ab := if fr.md 1 then m.ab + 1 else m.ab }
      exec (.mpass f) s = made d ∧ exec (.mpassFeed f) s = made d)
    ∧ (Fires f ownGuard Fire.readyMfeed s fr → ∀ a m' i, s.opA fr = some a → badWidth (fmtLw fr.fmt) [a] = none →
      m.take (rowsOf fr.fmt a (if (f.sa = 4 || f.sa = 5) && hdrHle fr.hdr then a.hdr else HReg.neutral)) = some (m', i) →
      exec (.mfeed f) s = made (left (if fr.md 0 && (m'.buf i).state = .filling then m'.close i else m')))
    ∧ (Fires f ownGuard always s fr → m.rv = true →
      let b := m.lb.toNat
      let term (j h : Nat) (r : RowSum) : Val := Val.mul (Val.mul (Val.ofInt (m.zbOf b j h) 0) (m.colScale b j h)) r.val
      exec (.mzpc f) s = made (left { m.addColumns ((List.range (m.cols b)).map (fun j =>
        ((Val.add .rne (term j 0 m.ra0) (term j 1 m.ra1)).negate, poisBit (m.ra0.pois || m.ra1.pois || m.pdOf b j 0 || m.pdOf b j 1)))) with rv := false }))
    ∧ (Fires f ownGuard Fire.readyMout s fr →
      let n := m.cols m.ab.toNat
      let south (r : PartialRow) : State := { s with
        elems := Map.set Elem.reset s.elems (fr.key + 16) { s.elem (fr.key + 16) with pin := some r }, fresh := Nats.add s.fresh (pinFresh (fr.key + 16)) }
      let sent (m : MeState) (pin : Option PartialRow) : Done := { fr.plain with
        e := { fr.e with me := { m with cr := [], rv := false }, pin := pin }
        pre := [.elem (fr.key + 16) { s.elem (fr.key + 16) with pin := some (m.row n 0) }, .fresh (pinFresh (fr.key + 16))] }
      (fr.md 0 = false → exec (.mout f) s = .next (fr.landed (sent m fr.e.pin) (south (m.row n 0))))
      ∧ ∀ p, fr.md 0 = true → s.pinOf fr.key = some p → p.n = n →
          let m2 := m.addColumns ((List.range n).map (fun j => (p.value j, (p.col j).flags)))
          exec (.mout f) s = .next (fr.landed (sent m2 none) (south (m2.row n 0))))

/-- ARSV, AREL, ACLR, AWR and AADD complete (spec 14 R328, R331, R333, R335): descriptor lanes within their limits; ARSV makes the lowest free range
descriptor live for entries that meet no live range; AREL frees the range; ACLR zeroes entries, AWR writes them, AADD adds to entries of
live ranges of the core, each aligned to its range and counted there; a poisoned entry lane is skipped and counted. -/
def Obligations.RangesComplete : Prop :=
  ∀ (s : State) (f : Slot) (fr : Fire), Fires f ownGuard always s fr →
    let with_ (l : List Effect) : Host.Outcome State Fault Refusal := .next (fr.landed { fr.plain with pre := l } (s.apply l))
    (∀ l d, s.descLanes fr 3 = .ok l →
      let first := l.getD 0 0 % 2 ^ 15
      let x := BitVec.ofNat 9 (l.getD 0 0 / 2 ^ 16)
      let count := l.getD 1 0
      firstXOk (l.getD 0 0) = true → 1 ≤ count → first + count ≤ 32768 → 1 ≤ l.getD 2 0 → s.rangeMeets fr.core first count = none →
      s.freeRange fr.core = some d →
      exec (.arsv f) s = with_ [.range (64 * fr.core + d)
        { rid := s.ridOf fr.key, tcid := s.tcidOf fr.key, mrk := 0, bnds := 0, arr := 0, exp := l.getD 2 0, gen := (s.range fr.core d).gen + 1, live := true
          err := false, cause := 0, x := x, count := count, first := first, freeAt := (s.range fr.core d).freeAt }])
    ∧ (∀ l d, s.descLanes fr 1 = .ok l → l.getD 0 0 ≤ 32767 → s.rangeFrom fr.core (l.getD 0 0) = some d →
      exec (.arel f) s = with_ [.range (64 * fr.core + d) { s.range fr.core d with live := false, freeAt := s.cycle.toNat + 65536 }])
    ∧ (∀ l, s.descLanes fr 2 = .ok l → 1 ≤ l.getD 1 0 → l.getD 1 0 ≤ 2048 → l.getD 0 0 + l.getD 1 0 ≤ 32768 →
      exec (.aclr f) s = with_ [.amClear (32768 * fr.core + l.getD 0 0) (32768 * fr.core + l.getD 0 0 + l.getD 1 0)])
    ∧ ∀ a b its k, s.opA fr = some a → s.opB fr = some b → badWidth (fmtLw fr.fmt) [a] = none → fr.items a = some its → itemLength a its.length b = some k →
      let l := (List.range k).map (fun i => (b.bl i, b.bp i))
      (∀ x ∈ l, x.2 = false → x.1 ≤ 32767) →
      exec (.awr f) s = .next (s.apply (fr.finish { fr.plain with
        errs := (l.filter (fun x => x.2)).length
        pre := l.zipIdx.flatMap (fun x => if x.1.2 then [] else [.am (32768 * fr.core + x.1.1) ((itemAt its x.2).join (signExt 9 (fr.imm 4 9)))]) } s))
      ∧ ((∀ x ∈ l, x.2 = false → (s.rangeAt fr.core x.1).isSome = true) →
        let go := (List.range k).filterMap (fun i => if b.bp i then none else
          (s.rangeAt fr.core (b.bl i)).map (fun d => (d, b.bl i, (itemAt its i).join (s.range fr.core d).x.toInt)))
        exec (.aadd f) s = .next (s.apply (fr.finish { fr.plain with errs := (l.filter (fun x => x.2)).length, pre := s.addAll fr.core go } s)))

/-- AADD from the partial row, ARD, AFLSH and AWAIT complete (spec 14 R331, R334, R336): a full PIN is added to consecutive entries and emptied; reads
give entries rounded under their ranges, or raw with FMT 0x10, at most the packet's capacity, and correct or poison those with errors (04 R83); AWAIT gives the range's count of arrivals and
its error once the range is complete or in error. -/
def Obligations.ReadoutComplete : Prop :=
  ∀ (s : State) (f : Slot) (fr : Fire),
    (Fires f ownGuard Fire.readyAaddPin s fr → ∀ b p, s.opB fr = some b → b.bp 0 = false → s.pinOf fr.key = some p →
      (∀ j < p.n, b.nat 0 + j ≤ 32767 ∧ (s.rangeAt fr.core (b.nat 0 + j)).isSome = true) →
      let go := (p.items.zipIdx).filterMap (fun x =>
        (s.rangeAt fr.core (b.nat 0 + x.2)).map (fun d => (d, b.nat 0 + x.2, x.1.join (s.range fr.core d).x.toInt)))
      let l := s.addAll fr.core go
      exec (.aaddPin f) s = .next (fr.landed { fr.plain with e := { fr.e with pin := none }, pre := l } (s.apply l)))
    ∧ (Fires f ownGuard always s fr → ∀ a, s.opA fr = some a → a.pkt.lanes ≤ fr.readCap →
      let l := (List.range a.pkt.lanes).map a.raw
      (∀ x ∈ l, x.2 = false → x.1 ≤ 32767) →
      (fr.fmt = 16 → let q := fr.readout s (l.zip (l.map (fun _ => none)))
        exec (.ard f) s = .next (fr.landed { fr.lanesRng q.1 q.2 with pre := s.amRead fr.core l } (s.apply (s.amRead fr.core l))))
      ∧ (fr.fmt ≠ 16 → (∀ x ∈ l, x.2 = false → (s.rangeAt fr.core x.1).isSome = true) →
        let q := fr.readout s (l.zip (l.map (fun x => if x.2 then none else s.rangeAt fr.core x.1)))
        exec (.ard f) s = .next (fr.landed { fr.lanesRng q.1 q.2 with pre := s.amRead fr.core l } (s.apply (s.amRead fr.core l)))))
    ∧ (Fires f ownGuard always s fr → ∀ d, s.descLanes fr 2 = .ok d →
      let first := d.getD 0 0
      let c := d.getD 1 0
      let fc := if c ≤ fr.e.fc then 0 else fr.e.fc
      let n := Nat.min fr.readCap (c - fc)
      1 ≤ c → first + c ≤ 32768 → (fr.fmt ≠ 16 → ∀ i < n, (s.rangeAt fr.core (first + fc + i)).isSome = true) →
      let q := fr.readout s ((List.range n).map (fun i => ((first + fc + i, false), if fr.fmt = 16 then none else s.rangeAt fr.core (first + fc + i))))
      let wrap := fc + n = c
      let l : List Effect := s.amRead fr.core ((List.range n).map (fun i => (first + fc + i, false)))
        ++ (if fr.md 0 then [.amClear (32768 * fr.core + first + fc) (32768 * fr.core + first + fc + n)] else [])
      exec (.aflsh f) s = .next (fr.landed { fr.lanesRng q.1 q.2 with
        e := { fr.e with rng := q.2, fc := if wrap then 0 else fc + n }, stBit := if fr.md 2 then some (fr.imm 10 3, decide wrap) else none, pre := l } (s.apply l)))
    ∧ (Fires f ownGuard Fire.readyAwait s fr → ∀ l d, s.descLanes fr 1 = .ok l → l.getD 0 0 ≤ 32767 → s.rangeFrom fr.core (l.getD 0 0) = some d →
      let r := s.range fr.core d
      exec (.await f) s = .next (fr.landed { fr.result (dataPacket 2 f.ot false [(r.arr, false), ((if r.err then 1 else 0) + 2 * r.cause, false)]) with
        stBit := if fr.md 2 then some (fr.imm 10 3, r.err) else none } s))

/-- The contributions that a send on a bound chain register has still to put into the injection buffer (spec 14 R318, R322, R330): in order, aligned
to the chain's exponent, those under a poisoned entry lane skipped; one enters each cycle while the buffer holds fewer than eight. -/
def chainLeft (fr : Fire) (s : State) (its : List (Item × (Int × Bool))) : List AccWord :=
  fr.e.feed.getD (s.chainWords fr.key fr.chainNo fr.chain ((its.filter (fun x => !x.2.2)).map (fun x => (x.2.1.toNat, x.1.join fr.chain.x.toInt))))

/-- The state after the cycle in which such a send ends (spec 14 R330): the last contribution has entered the buffer, SENT counts all of them, the
skipped ones are counted as errors; `clear` came with the first cycle. -/
def chainSent (fr : Fire) (s : State) (its : List (Item × (Int × Bool))) (cur : Nat) (pin : Option PartialRow) (clear : List Effect) : State :=
  let n := (its.filter (fun x => !x.2.2)).length
  s.apply (fr.finish { fr.plain with
    e := { fr.e.setChain fr.chainNo { fr.chain with cur := cur, sent := fr.chain.sent + n } with
           inj := fr.e.inj ++ chainLeft fr s its, pin := pin, feed := none }
    errs := its.length - n
    pre := if fr.e.feed.isSome ∨ n = 0 then [] else .nextId (s.nextId + n) :: clear } s)

/-- ASEND in its three modes, AXS and ACHAIN (spec 14 R318, R329, R330, R332): on a bound chain register, items at offsets below COUNT and within NSEND
leave as contributions, and the firing completes in the cycle in which the last of them enters the injection buffer; AXS sends words of a
live range of the chain's exponent and clears them under MOD[0]; ACHAIN unbinds a bound register and asks the core that its launch gives the
logical one for a binding, and the firing lasts until the answer. -/
def Obligations.ChainsComplete : Prop :=
  ∀ (s : State) (f : Slot) (fr : Fire),
    let c := fr.chain
    let fits (its : List (Item × (Int × Bool))) : Prop :=
      (fr.e.feed = none → (∀ x ∈ its, x.2.2 = false → x.2.1 < (c.count : Int)) ∧ c.sent + its.length ≤ c.nsend)
      ∧ ((fr.e.feed = none ∧ chainLeft fr s its = []) ∨ (∃ w, chainLeft fr s its = [w]) ∧ fr.e.inj.length < 8)
    (Fires f ownGuard always s fr → c.bound = true → ∀ a its, s.opA fr = some a → badWidth (fmtLw fr.fmt) [a] = none → fr.items a = some its →
      (let l := its.zipIdx.map (fun x => (x.1, (((c.base + c.cur + x.2 : Nat) : Int), false)))
       fits l → exec (.asend f) s = .next (chainSent fr s l (c.cur + its.length) fr.e.pin []))
      ∧ ∀ b k, s.opB fr = some b → itemLength a its.length b = some k →
        let l := (List.range k).map (fun i => (itemAt its i, (((c.base + b.bl i : Nat) : Int), b.bp i)))
        fits l → exec (.asendIdx f) s = .next (chainSent fr s l c.cur fr.e.pin []))
    ∧ (Fires f ownGuard Fire.readyAsendPin s fr → c.bound = true → ∀ p, s.pinOf fr.key = some p →
      let l := p.items.zipIdx.map (fun x => (x.1, (((c.base + c.cur + x.2 : Nat) : Int), false)))
      fits l → exec (.asendPin f) s = .next (chainSent fr s l (c.cur + c.rstr) none []))
    ∧ (Fires f ownGuard always s fr → c.bound = true → ∀ l d, s.descLanes fr 2 = .ok l →
      let first := l.getD 0 0
      let k := l.getD 1 0
      1 ≤ k → k ≤ 256 → first ≤ 32767 → s.rangeAt fr.core first = some d → (s.range fr.core d).holds (first + k - 1) = true → (s.range fr.core d).x = c.x →
      let its := (List.range k).map (fun i => (Item.word (waMask (s.amEntry fr.core (first + i)).toNat), (((c.base + c.cur + i : Nat) : Int), false)))
      fits its → exec (.axs f) s = .next (chainSent fr s its (c.cur + k) fr.e.pin
        (s.amFix fr.core ((List.range k).map (fun i => first + i))
          ++ (if fr.md 0 then [.amClear (32768 * fr.core + first) (32768 * fr.core + first + k)] else []))))
    ∧ (Fires f ownGuard always s fr → fr.e.bindOf fr.chainNo = .idle → ∀ l pkg core, s.descLanes fr 5 = .ok l →
      l.getD 0 0 < 2 ^ 15 → firstXOk (l.getD 1 0) = true → l.getD 2 0 < 2 ^ 15 → l.getD 3 0 ≤ 32768 → 1 ≤ l.getD 4 0 →
      s.resolve fr.key (l.getD 0 0 / 2 ^ 9 % 2 ^ 6) (l.getD 0 0 % 512) = some (pkg, core) → s.inDomain pkg = true → s.cutOff pkg = false →
      let e := if c.bound then { fr.e.setChain fr.chainNo { c with bound := false } with inj := fr.e.inj ++ [s.unbindWord fr.key c] } else fr.e
      exec (.achain f) s = .next { s with
        accNet := s.accNet ++ [.bindReq pkg core (firstOf (l.getD 1 0)) (xOf (l.getD 1 0)) (s.tcidOf fr.key) fr.key fr.chainNo]
        elems := Map.set Elem.reset s.elems fr.key { e.setBind fr.chainNo .asked with busy := some fr.n, left := 0, cons := s.consOf fr.key fr.e } })

/-- The state with a running command of an engine replaced. -/
def commandPut (s : State) (core eng id : Nat) (f : Cmd → Cmd) : State :=
  let g := s.engine core eng
  { s with engines := Map.set Engine.reset s.engines (4 * core + eng) { g with running := g.running.map (fun c => if c.id = id then f c else c) } }

/-- The state after a turn in which a command makes a chunk: its changes; writes to other packages are on their way, and the chunk lands when they
are answered; with none it lands at once: its byte arrivals are made, its progress is set, and the last chunk, or one that stopped for want
of room, ends the command, with status 5 if a poisoned byte was moved (spec 05 R107 to R109, R116). -/
def chunkTurn (s : State) (core eng : Nat) (m : Cmd) (d : Landing) (l : List Effect) : State :=
  let t := s.apply l
  let u := commandPut t core eng m.id (fun c =>
    { c with asks := [], gate := none, landing := some d, owes := (List.range (t.nextId - s.nextId)).map (fun i => s.nextId + i) })
  if t.nextId ≠ s.nextId then u
  else
    match (u.engine core eng).running.find? (fun c => c.id = m.id) with
    | none => u
    | some c =>
      match c.landing with
      | none => u
      | some d =>
      let v := d.arrive.foldl (fun (t : State) a =>
        { t with bars := Map.set 0 t.bars (2048 * a.1 + c.c.bar) (barBytes (t.bar a.1 c.c.bar) a.2.1 a.2.2 (t.engineRole core eng)) }) u
      let stop (c : Cmd) (status cause : Nat) : Cmd := { c with finished := true, status := status, cause := cause, role := v.engineRole core eng }
      commandPut v core eng m.id (fun c =>
        let c : Cmd := { c with prog := d.prog, pois := c.pois || d.pois, landing := none, sent := c.sent || eng = 3 }
        match d.stop with
        | some x => stop c x.1 x.2
        | none => if d.last then (if c.pois then stop c 5 0x32 else stop c 0 0) else c)

/-- Nothing holds a chunk back: the bytes it reads are here or answered, every core it reaches is awake and every package reachable, and no access
that the core's router took before it touches a location of its own (spec 01 R32, 15 R347, 18 R425, R429). -/
def chunkFree (s : State) (core : Nat) (m : Cmd) (read all : List Piece) : Prop :=
  s.lacking m.asks read = [] ∧ s.gateOf all = none ∧ s.cutPiece all = none ∧ s.chunkWaits core all = false

/-- What a chunk of a copy does (spec 05 R108, R116, R117): its source bytes, `first` and then `more`, are read; `data` gives what destination n
receives of them; it is written at every destination. -/
def chunkCopies (s : State) (core eng : Nat) (m : Cmd) (total : Nat) (first : List (Int × Nat)) (more : List (List (Int × Nat)))
    (data : Nat → List (Byte × Bool) → List (Byte × Bool) → List (Byte × Bool)) (out : Host.Outcome State Fault Refusal) : Prop :=
  let c := m.c
  let w := s.engWho core eng m.tcid
  let hi := Nat.min total (m.prog + 65536)
  ∀ sp sp2 dps sts, s.located w .read first = .ok sp → s.locatedAll w .read more = .ok sp2 → s.destPieces w c m.prog (hi - m.prog) = .ok dps →
    let read := (sp ++ sp2).map (fun x => x.2)
    let bytes := s.fetchFrom m.asks s.free read
    let n := sp.foldl (fun a x => a + x.2.size) 0
    dps.zipIdx.mapM (fun x => storesAt w (data x.2 (bytes.take n) (bytes.drop n)) x.1) = .ok sts →
    chunkFree s core m read (read ++ dps.flatMap (fun l => l.map (fun x => x.2))) →
    let pre := s.reachAll core m.tcid false read
    let write := (s.apply pre).writePieces w.role m.tcid sts.flatten
    let u := (s.apply pre).apply write
    out = .next (chunkTurn s core eng m
      { prog := hi, last := hi = total, stop := none, pois := bytes.any (fun b => b.2), arrive := s.arrivalsOf core c.ben sts.flatten }
      (pre ++ (write ++ (if eng = 0 then u.clearLines m.id (if hi = total then [] else u.linesFrom w c hi) else []))))

/-- COPY, COPYM, FILL, CKSM and the cluster form of CBCS complete a chunk (spec 05 R108, R116, R117, 09 R215, R216, R218): at most 64 KiB whose
source and destination pass their checks, with nothing to wait for. FILL writes byte a mod 8 of word 1 at logical address a; CKSM writes the
CRC-32C of the whole source; a CBCS with SCAT gives member n the n-th of as many parts of the source. -/
def bytesMoved : Prop :=
  ∀ (s : State) (c : Command) (core eng : Nat) (m : Cmd), s.commandOf c = some (core, eng, m) →
    let g := geoOf c
    let lo := m.prog
    let n := Nat.min g.total (lo + 65536) - lo
    let plain := itemsFrom g.srcAt lo n
    let same (f : List (Byte × Bool) → List (Byte × Bool)) : Nat → List (Byte × Bool) → List (Byte × Bool) → List (Byte × Bool) := fun _ l _ => f l
    (c.op = 1 → chunkCopies s core eng m g.total plain [] (same (fun b => b)) (exec (.copy c) s))
    ∧ (c.op = 2 → chunkCopies s core eng m g.total plain [] (same (fun b => b)) (exec (.copym c) s))
    ∧ (c.op = 4 → chunkCopies s core eng m g.total [] [] (same (fun _ => (List.range n).map (fun i =>
        (byteOf (c.word 1) ((g.dstLogical (lo + i)) % 8).toNat, false)))) (exec (.fill c) s))
    ∧ (c.op = 5 → chunkCopies s core eng m 4 (itemsFrom g.srcAt 0 g.run) []
        (same (fun b => (leBytes 4 (crc32c (b.map (fun x => x.1)))).map (fun x => (x, b.any (fun y => y.2))))) (exec (.cksm c) s))
    ∧ (c.op = 0x23 → c.fld 4 0 48 = 0 →
        (c.fld 5 24 1 = 0 → chunkCopies s core eng m g.total plain [] (same (fun b => b)) (exec (.cbcs c) s))
        ∧ (c.fld 5 24 1 = 1 → chunkCopies s core eng m g.total plain
            (((memberCores core c.dmask).zipIdx.drop 1).map (fun x => itemsFrom (fun u => g.srcAt u + ((x.2 * g.run : Nat) : Int)) lo n))
            (fun i l rest => (l :: chunksOf n 4 rest).getD i []) (exec (.cbcs c) s)))

/-- COPYV completes a chunk (spec 09 R215): the elements that its destination bytes come from, widened to whole MX blocks, are converted to DFMT;
the scale of each block that begins in the chunk goes to its byte of the scales. -/
def bytesConverted : Prop :=
  ∀ (s : State) (c : Command) (core eng : Nat) (m : Cmd), s.commandOf c = some (core, eng, m) → c.op = 3 →
    let g := geoOf c
    let w := s.engWho core eng m.tcid
    let hi := Nat.min g.total (m.prog + 65536)
    let (e0, e1, b0, b1, u0) := spanOf c m.prog hi
    ∀ sp dps st scp, s.located w .read (itemsFrom g.srcAt u0 ((b1 * g.es + 7) / 8 - u0)) = .ok sp → s.destPieces w c m.prog (hi - m.prog) = .ok dps →
      let read := sp.map (fun x => x.2)
      let bytes := s.fetchFrom m.asks s.free read
      let made := convert c b0 (((elemsOf g.es (bytes.take (sp.foldl (fun a x => a + x.2.size) 0))).drop (if g.es = 4 then b0 % 2 else 0)).take (b1 - b0))
      let data := packElems g.ed g.elems s.free e0 ((made.1.drop (e0 - b0)).take (e1 - e0))
      let n := c.fld 7 45 8 + 1
      let scales := made.2.filter (fun b => decide (e0 ≤ b.1 * n) && decide (b.1 * n < e1))
      s.locatedAll w .write (scales.map (fun b => [(((c.fld 5 0 48 + b.1 : Nat) : Int), 0)])) = .ok scp →
      dps.mapM (storesAt w data) = .ok st →
      chunkFree s core m read (read ++ dps.flatMap (fun l => l.map (fun x => x.2)) ++ scp.map (fun x => x.2)) →
      let stores := st.flatten ++ (scales.zip scp).map (fun x => (MemOp.store [BitVec.ofNat 8 x.1.2.1] [x.1.2.2], x.2.2))
      let pre := s.reachAll core m.tcid false read ++ (if g.ed = 4 ∧ g.elems % 2 = 1 then [.free (s.free + e1)] else [])
      let write := (s.apply pre).writePieces w.role m.tcid stores
      let u := (s.apply pre).apply write
      exec (.copyv c) s = .next (chunkTurn s core eng m
        { prog := hi, last := hi = g.total, stop := none, pois := bytes.any (fun b => b.2), arrive := s.arrivalsOf core c.ben stores }
        (pre ++ (write ++ (if eng = 0 then u.clearLines m.id (if hi = g.total then [] else u.linesFrom w c hi) else []))))

/-- BINAP and BINPL complete a chunk (spec 09 R217). A BINAP of one record whose bushel has room writes it there and raises FILL by one; in general
a chunk of its records goes to their bushels in order, and one without room stops it. BINPL applies the records of its next bushel to the
region in the staging area, writes the region back and clears FILL. -/
def binsMoved : Prop :=
  ∀ (s : State) (c : Command) (core eng : Nat) (m : Cmd), s.commandOf c = some (core, eng, m) →
    let w := s.engWho core eng m.tcid
    let total := 8 * c.fld 3 0 32
    let hi := Nat.min total (m.prog + 65536)
    (∀ src, s.checkAccess w .read ((c.fld 1 0 48 + m.prog : Nat) : Int) (hi - m.prog) = .ok src → s.lacking m.asks src = [] →
      let recs := s.fetchFrom m.asks s.free src
      let got := s.reachAll core m.tcid false src
      let t := s.apply got
      (∀ e ps, c.fld 3 0 32 = 1 → m.prog = 0 → recs.length = 8 →
        let b := leNat ((recs.take 4).map (fun x => x.1)) / 2 ^ c.fld 3 32 5
        b ≤ c.fld 3 48 16 → t.bushelPieces w (c.fld 2 0 48) b = .ok e → t.lacking m.asks e.1 = [] →
        let x := t.bushelAt m.asks e.1
        x.fill < x.cap → t.checkAccess w .write ((x.base + 8 * x.fill : Nat) : Int) 8 = .ok ps → (∀ p ∈ e.1, p.x.pkg = t.pkgNum) →
        chunkFree s core m src (src ++ (ps ++ e.1)) →
        let st := cutPieces recs ps ++ cutPieces (clean (leBytes 4 (x.fill + 1))) e.2
        let pre := t.reachAll core m.tcid false e.1
        exec (.binap c) s = .next (chunkTurn s core eng m
          { prog := 8, last := true, stop := none, pois := recs.any (fun b => b.2), arrive := s.arrivalsOf core c.ben st }
          (got ++ (pre ++ (t.apply pre).writePieces w.role m.tcid st))))
      ∧ ∀ a, t.appendRecords w m.asks (c.fld 2 0 48) (c.fld 3 32 5) (c.fld 3 48 16) (chunksOf 8 (hi - m.prog) recs) = .ok a →
        (a.need = [] ∨ 0 < a.count) → chunkFree s core m src (src ++ a.touched) →
        let at_ := if a.full || !(a.need = [] && !a.cut) then m.prog + 8 * a.count else hi
        exec (.binap c) s = .next (chunkTurn s core eng m
          { prog := at_, last := at_ = total, stop := if a.full then some (7, 0x33) else none
            pois := (recs.take (8 * a.count)).any (fun b => b.2), arrive := s.arrivalsOf core c.ben a.writes } (got ++ a.effects)))
    ∧ (let n := 4 * 2 ^ c.fld 4 32 5
       let b := c.fld 4 0 16 + m.prog / n
       let at_ := c.fld 2 0 48 + b * n
       ∀ e rs src dst stage, s.bushelPieces w (c.fld 1 0 48) b = .ok e → s.lacking m.asks e.1 = [] →
        let x := s.bushelAt m.asks e.1
        s.checkAccess w .read (x.base : Int) (8 * x.fill) = .ok rs → s.checkAccess w .read (at_ : Int) n = .ok src →
        s.checkAccess w .write (at_ : Int) n = .ok dst → s.checkWindow w .write core (c.fld 3 0 21 : Int) n = .ok stage →
        chunkFree s core m (rs ++ src) (rs ++ src ++ dst ++ stage ++ e.2) →
        let bytes := s.fetchFrom m.asks s.free (rs ++ src)
        let words : Map (Nat × Bool) := ((elemsOf 32 (bytes.drop (8 * x.fill))).zipIdx).map (fun x => (x.2, x.1))
        let new := applyRecords (c.fld 4 37 3) (c.fld 4 32 5) words (chunksOf 8 (8 * x.fill) (bytes.take (8 * x.fill)))
        let data := markedBytes 4 ((List.range (n / 4)).map (fun i => Map.get (0, false) new i))
        let st := cutPieces data stage ++ cutPieces data dst ++ cutPieces (clean (leBytes 4 0)) e.2
        let pre := s.reachAll core m.tcid false (e.1 ++ rs ++ src)
        exec (.binpl c) s = .next (chunkTurn s core eng m
          { prog := m.prog + n, last := m.prog / n = c.fld 4 16 16, stop := none, pois := bytes.any (fun b => b.2), arrive := s.arrivalsOf core c.ben st }
          (pre ++ (s.apply pre).writePieces w.role m.tcid st)))

/-- LNCH completes its turn (spec 09 R219, 16 R385): the packet's words and the successor list are read, and the child launch leaves on the task
network with them; its receipt, which CHILD_LAUNCH_RECEIVE makes, ends the command. -/
def launchSent : Prop :=
  ∀ (s : State) (c : Command) (core eng : Nat) (m : Cmd), s.commandOf c = some (core, eng, m) → m.sent = false →
    let w := s.engWho core eng m.tcid
    let n := 8 * (c.fld 1 48 5 + 1)
    ∀ p q, s.checkAccess w .read (c.fld 1 0 48 : Int) n = .ok p → s.checkAccess w .read (c.fld 2 0 48 : Int) (8 * c.fld 2 48 8) = .ok q →
      chunkFree s core m (p ++ q) (p ++ q) →
      let bytes := s.fetchFrom m.asks s.free (p ++ q)
      let words (l : List Byte) : List Word := (chunksOf 8 l.length l).map (fun x => BitVec.ofNat 64 (leNat x))
      let b := bytes.map (fun x => x.1)
      exec (.lnch c) s = .next (chunkTurn s core eng m
        { prog := 0, last := false, stop := none, pois := bytes.any (fun x => x.2), arrive := [] }
        (s.reachAll core m.tcid false (p ++ q) ++ [.taskNet (s.taskNet ++ [.child core (words (b.take n)) (words (b.drop n)) m.tcid core m.id none])]))

/-- CRED, CARD, CAGA and the group form of CBCS within this package complete their turns (spec 09 R218, 05 R108). The collective begins once every
member has issued it and all agree, in a free range at the root where it sums; the members' sources join in rank order; each member's
destination receives the sums read out, the sources in rank order, or the root's bytes, 64 KiB at a time; a member that has received all ends
once all have, the root last. -/
def collectivesDone : Prop :=
  ∀ (s : State) (c : Command) (core eng : Nat) (m : Cmd), s.commandOf c = some (core, eng, m) → eng = 2 → c.fld 4 0 48 ≠ 0 →
    let gtab := c.fld 4 0 48
    let sums := collSums c
    let made (t : State) : Prop :=
      (c.op = 0x20 → exec (.cred c) s = .next t) ∧ (c.op = 0x21 → exec (.card c) s = .next t)
      ∧ (c.op = 0x22 → exec (.caga c) s = .next t) ∧ (c.op = 0x23 → exec (.cbcs c) s = .next t)
    -- the collective begins
    (∀ ps (ms : List Member) dix, m.coll = none → s.groupTable (s.engWho core 2 m.tcid) c = .ok ps → s.lacking m.asks ps = [] →
      let tab := s.entriesOf m ps
      (∀ e ∈ tab, entryOk e = true ∧ entryPkg e = s.pkgNum) → (s.collOf core m.tcid gtab).map (fun d => d.id) = some m.id →
      tab.map (s.memberAt m.tcid gtab) = ms.map some →
      (∀ x ∈ ms, x.cmd.paused = false ∧ (s.engine x.core 2).frozen = false) → (∃ x ∈ ms, x.core = core) →
      (∀ x ∈ ms.zipIdx, collAgrees c x.1.cmd.c = true ∧ x.1.cmd.c.fld 3 32 16 = x.2) →
      let begun (dix : Option Nat) (t : State) : State := t.apply (
        .nextId (t.nextId + 1) :: .collPeers (t.collPeers.filter (fun r => !(tab.map (fun _ => (none : Option PeerReq))).contains (some r)))
          :: .colls (t.colls ++ [{ id := t.nextId, tab := tab, coms := ms.map (fun x => x.cmd.c), cmds := ms.map (fun x => some x.cmd.id)
                                   peers := tab.map (fun _ => none), joined := [], told := false, dix := dix }])
          :: ms.map (fun x => .engine (4 * x.core + 2) ((t.engine x.core 2).update x.cmd.id (fun d => { d with coll := some t.nextId }))))
      (sums = false → made (begun none s))
      ∧ ∀ r, sums = true → ms[collRoot c]? = some r → s.rangeMeets r.core (r.cmd.c.fld 5 0 15) (c.fld 3 0 32) = none → s.freeRange r.core = some dix →
        let first := r.cmd.c.fld 5 0 15
        made (begun (some dix) (s.apply
          [s.reserve r.core dix first (c.fld 3 0 32) (c.fld 3 0 32 * tab.length) (BitVec.ofNat 9 (c.fld 5 15 9)) (s.ridOfCmd r.cmd) m.tcid,
           .amClear (32768 * r.core + first) (32768 * r.core + first + c.fld 3 0 32)])))
    -- it goes on
    ∧ ∀ i x, m.coll = some i → s.colls.find? (fun y => y.id = i) = some x → (∀ e ∈ x.tab, entryPkg e = s.pkgNum ∧ s.heard 2 m.tcid gtab e = none) →
      (∀ y ∈ s.liveMembers x, y.1.cmd.paused = false ∧ (s.engine y.1.core 2).frozen = false ∧ y.1.cmd.landing = none) →
      let rank := c.fld 3 32 16
      let root := entryCore (x.tab.getD (collRoot c) 0)
      -- the source of the next rank joins
      (∀ r y ps, (List.range x.tab.length).find? (fun r => !x.joined.contains r) = some r → x.peers.getD r none = none → s.rankCmd x r = some y →
        y.cmd.finished = false → s.sourceOf y.core m.tcid y.cmd.c 0 (collLens c r).1 = .ok ps → chunkFree s y.core y.cmd ps ps →
        let bytes := s.fetchFrom y.cmd.asks s.free ps
        let pre := s.reachAll y.core m.tcid false ps
        let first := (x.coms.getD (collRoot c) c).fld 5 0 15
        let adds := match x.dix with
          | some d => (s.apply pre).addAll root ((collWords c (if sums then bytes else [])).zipIdx.map (fun w => (d, first + w.2, w.1)))
          | none => []
        made (chunkTurn s y.core 2 y.cmd { prog := 0, last := false, stop := none, pois := sums && bytes.any (fun b => b.2), arrive := [] }
          (pre ++ (adds ++ [.colls (((s.apply pre).apply adds).colls.map (fun z => if z.id = x.id then { z with joined := Nats.add z.joined r } else z))]))))
      ∧ ((∀ r < x.tab.length, r ∈ x.joined) → (sums = true → x.dix.isSome = true) →
        -- the next chunk of the member's destination
        (∀ dst src, m.prog < (collLens c rank).2 →
          let total := (collLens c rank).2
          let hi := Nat.min total (m.prog + 65536)
          let parts := if sums then [] else collParts c x.tab.length rank m.prog hi
          s.checkAccess (s.engWho core 2 m.tcid) .write ((c.fld 2 0 48 + m.prog : Nat) : Int) (hi - m.prog) = .ok dst → s.partPieces x m parts = .ok src →
          chunkFree s core m src (src ++ dst) →
          let data := if sums then s.sumBytes x c m.prog hi else partBytes x parts (s.fetchFrom m.asks s.free src)
          let st := cutPieces data dst
          let pre := s.reachAll core m.tcid false src
          made (chunkTurn s core 2 m { prog := hi, last := false, stop := none, pois := data.any (fun b => b.2), arrive := s.arrivalsOf core c.ben st }
            (pre ++ (s.apply pre).writePieces (s.engineRole core 2) m.tcid st)))
        -- its end
        ∧ (collRoot c < x.tab.length → (collLens c rank).2 ≤ m.prog → (∀ y ∈ s.liveMembers x, (collLens c y.2).2 ≤ y.1.cmd.prog) →
          let others := (s.liveMembers x).filter (fun y => y.2 ≠ rank)
          (rank = collRoot c → others = [] ∧ ∀ r < x.tab.length, r ≠ rank → s.rankCmd x r = none) →
          let t := commandPut s core 2 m.id (fun d => { d.doneOk (s.engineRole core 2) with coll := none })
          made (if others = [] then t.run (endColl x m) else t)))

/-- The twelve engine commands complete a turn. -/
def Obligations.CommandsComplete : Prop := bytesMoved ∧ bytesConverted ∧ binsMoved ∧ launchSent ∧ collectivesDone

/-- Acceptance, start, chunk and completion of a command (spec 05 R103, R105, R106, R107): an engine with room takes its next offer and
examines it; the head of the queue starts once its WAIT holds and fewer than four are active, or ends with status 4 at a semaphore in
error; a running command has its turn; a stopped one leaves, its record first, then its signal and its cleared marks. Commands saved with a
region have left the queue (R110). -/
def Obligations.EnginesComplete : Prop :=
  ∀ (s : State) (core eng : Nat),
    let g := s.engine core eng
    let put (s : State) (g : Engine) : State := { s with engines := Map.set Engine.reset s.engines (4 * core + eng) g }
    g.frozen = false →
    (∀ o, g.nextOffer = some o → (g.queue.filter (fun c => !c.paused)).length < 32 →
      let x := s.examine core eng (o.accepted s.nextId (s.engineRole core eng))
      exec (.engineCommandAccept core eng) s = .next ((put { s with nextId := s.nextId + 1 } { g with offers := g.offers.erase o, lastSrc := o.src.place }).run
        (Prog.seq [commitEcmd o s.nextId, placeCommand core eng x.1 x.2])))
    ∧ (∀ c, g.queue.find? (fun d => !d.paused) = some c → c.recheck = false →
      let rest := g.queue.filter (fun d => d.id ≠ c.id)
      let w := s.sem core (c.c.fld 0 13 8)
      (c.c.fld 0 11 1 = 1 → semErr w = true →
        exec (.engineCommandStart core eng) s = .next (put s { g with queue := rest
                                                                      running := g.running ++ [{ c with finished := true, status := 4, cause := semCause w, role := semRole w }] }))
      ∧ ((c.c.fld 0 11 1 = 0 ∨ (semErr w = false ∧ semCond w (c.c.fld 0 12 1 = 1) (c.c.fld 0 21 16) = true)) →
        g.active.length < 4 →
        exec (.engineCommandStart core eng) s = .next (put s { g with queue := rest, running := g.running ++ [{ c with started := true }] })))
    ∧ (∀ i m, g.running[i]? = some m →
      (g.mayRun m = true → exec (.engineChunk core eng i) s = .next (s.run (advance core eng m)))
      ∧ (m.finished = true →
        (m.replyAt = none → ∀ c, g.running.find? (fun d => d.id = m.id) = some c → c.replyAt = none → c.owes = [] →
          exec (.engineCommandComplete core eng i) s = .next ((put s { g with running := g.running.filter (fun d => d.id ≠ c.id) }).run (completeCommand core c)))
        ∧ ∀ x, m.replyAt = some x → x.pkg = s.pkgNum → s.gatedFor x.pkg x.pa = none →
          let record : MemOp := .store (leBytes 8 m.record) (List.replicate 8 false)
          let t := commandPut (s.apply (s.writePieces (s.engineRole core eng) m.tcid [(record, ⟨x, m.c.word 6, 8⟩)])) core eng m.id
            (fun c => { c with replyAt := none, gate := none, owes := [] })
          ∀ c, (t.engine core eng).running.find? (fun d => d.id = m.id) = some c → c.replyAt = none → c.owes = [] →
            exec (.engineCommandComplete core eng i) s = .next
              ((put t { t.engine core eng with running := (t.engine core eng).running.filter (fun d => d.id ≠ c.id) }).run (completeCommand core c))))

/-- LINK_TRANSFER, LOCAL_PORT_ACCEPT, LOCAL_PORT_DELIVER, TASK_DELIVER, RETURN_BUFFER_DRAIN and LOAD_DATA_RETURN (spec 06 R125, R135, R141, 09
R199, 12 R279 to R281): a packet leaves its register and enters what follows, if there is room, once a cycle on a link. A packet that is no
wave and goes to no output enters the input queue, and is new in it if the queue was empty; a bypassed one enters the bypass register; the packet
of a tap or bypass register in the way moves first (R135). Constants cross the configuration network, task packets the task network. -/
def Obligations.PacketsMove : Prop :=
  ∀ (s : State),
    let put (s : State) (k : Nat) (e : Elem) : State := { s with elems := Map.set Elem.reset s.elems k e, moved := Nats.add s.moved k }
    (∀ key out p byp k q, s.fresh.contains (1000000 + 8 * key + out) = false → s.leaving key out = some (p, byp) → linkEnd key out = some (k, q) →
      let e := s.elem key
      let t : State := { put s key (if byp then e.setByp out none else e.setOut out none) with fresh := Nats.add s.fresh (1000000 + 8 * key + out) }
      (∀ l, t.arrive k q p = some l → exec (.linkTransfer key out) s = .next (t.apply l))
      ∧ (rtBypass (t.routing k (t.elem k).ctx.toNat) q = false → outputsFrom (t.routing k (t.elem k).ctx.toNat) q = [] → p.isWave = false →
          p.bad = false → ((t.elem k).queue q).length < 4 →
          let u := put t k ((t.elem k).setQueue q ((t.elem k).queue q ++ [p]))
          exec (.linkTransfer key out) s = .next { u with fresh := if (t.elem k).queue q = [] then Nats.add t.fresh (8 * k + q) else t.fresh })
      ∧ (rtBypass (t.routing k (t.elem k).ctx.toNat) q = true → ∀ o l, outputsFrom (t.routing k (t.elem k).ctx.toNat) q = o :: l →
          (t.elem k).byp o = none → exec (.linkTransfer key out) s = .next (put t k ((t.elem k).setByp o (some p))))
      ∧ (∀ o l m, t.arrive k q p = none → t.inTheWay k q = [o] → transferLink 127 k o t = some l → (t.apply l).arrive k q p = some m →
          exec (.linkTransfer key out) s = .next ((t.apply l).apply m)))
    ∧ (∀ key p, (s.elem key).out 5 = some p → (Map.get [] s.lport (coreOf key)).length < 16 →
      let e := s.elem key
      let t := put s key { e.setOut 5 none with oyDest := .nowhere }
      exec (.localPortAccept key) s = .next { t with
        portLast := Map.set 127 s.portLast (coreOf key) (elemIx key)
        lport := if p.isWave then s.lport else Map.set [] s.lport (coreOf key) (Map.get [] s.lport (coreOf key) ++ [{ src := key, dest := e.oyDest, pkt := p }]) })
    ∧ (∀ core x rest, Map.get [] s.lport core = x :: rest →
      let gone : State := { s with lport := Map.set [] s.lport core rest }
      let sent (t : Task) : Host.Outcome State Fault Refusal := .next { gone with taskNet := s.taskNet ++ [t] }
      (∀ n, x.dest = .label n → exec (.localPortDeliver core) s = sent (.data core n x.src x.pkt))
      ∧ (∀ c n, x.dest = .remote c n → exec (.localPortDeliver core) s = sent (.data c n x.src x.pkt))
      ∧ (∀ c i r commit, x.dest = .const c i r commit → exec (.localPortDeliver core) s = .next { gone with
          cfgNet := s.cfgNet ++ [{ core := c, elem := i, reg := r, pkt := x.pkt, commit := commit, src := x.src }] })
      ∧ (∀ i l, x.dest = .elem i → (s.taskNet ++ Map.get [] s.taskWait core).any (s.taskFor core i x.src) = false → s.toQy (ekey core i) x.pkt = some l → exec (.localPortDeliver core) s = .next (gone.apply l))
      ∧ (x.dest = .nowhere → exec (.localPortDeliver core) s = .next gone))
    ∧ (∀ core n label src p m, (Map.get [] s.taskWait core)[n]? = some (.data core label src p) →
      (∀ u ∈ (Map.get [] s.taskWait core).take n, u.lane ≠ (0, label)) →
      let b := (s.bindingOf core label).toNat
      b / 2 ^ 31 % 2 = 1 → s.pickLabel core (b % 128) = some label →
      s.toQy (ekey core (b % 128)) (if p.kind = kErr then p else { p with tag := BitVec.ofNat 3 (b / 2 ^ 7 % 8), kind := kData }) = some m →
      exec (.taskDeliver core n) s = .next (State.apply { s with
        taskWait := Map.set [] s.taskWait core (listDrop (Map.get [] s.taskWait core) n)
        pickLast := Map.set 127 s.pickLast (ekey core (b % 128)) label } m))
    ∧ (∀ key r rest, (s.elem key).ret = r :: rest → r.need = 0 →
      let outs := (List.range 6).filter (fun o => r.mask.getLsbD o)
      (∀ o ∈ outs, (s.elem key).out o = none) → (r.mask.getLsbD 5 = true → (Map.get [] s.lport (coreOf key)).length < 16) →
      let e := outs.foldl (fun e o => e.setOut o (some r.pkt)) { s.elem key with ret := rest }
      exec (.returnBufferDrain key) s = .next (put s key (if r.mask.getLsbD 5 then { e with oyDest := r.dest } else e)))
    ∧ (∀ n r, s.returned[n]? = some r →
      let e := s.elem r.key
      exec (.loadDataReturn n) s = .next { s with
        returned := listDrop s.returned n
        elems := Map.set Elem.reset s.elems r.key { e with
          ret := e.ret.map (fun x =>
            if x.id = r.ret then { x with need := x.need - 1, pkt := if x.pkt.kind = kData then x.pkt.fill r.at_ r.data r.pois else x.pkt } else x) } })

/-- HEADER_LATCH, JOIN_STEP and ROW_INTAKE (spec 06 R130 to R132, 13 R295, R296): a legal HDR at the head of an input of a latching context
enters its header register; the join unit takes an entry of each side whose coordinates agree, and in union mode one of the lower
coordinate with a zero for the other, into the open packet, which goes to qj once it is full or a packet ends; two EOS become one, or an ERR token
if their tags differ; rows go to a buffer, which an EOS, an ERR or a closing wave closes. -/
def Obligations.InputsTaken : Prop :=
  ∀ (s : State) (key : Nat),
    let e := s.elem key
    let h := s.header key e.ctx.toNat
    let put (e : Elem) : State := { s with elems := Map.set Elem.reset s.elems key e, moved := Nats.add s.moved key }
    e.runs = true →
    (∀ i p rest, i ≤ 5 → e.queue i = p :: rest → p.kind = kHdr → p.bad = false → hdrHle h = true → s.fresh.contains (8 * key + i) = false →
      headerBad (p.pay.extractLsb' 0 32) = false →
      let e1 := e.setQueue i rest
      exec (.headerLatch key i) s = .next { put { e1 with
          hregs := Map.set HReg.neutral e1.hregs i { pay := p.pay.extractLsb' 0 32, pois := p.pois.getLsbD 0 }
          me := if i = 3 then { e1.me with sinceHdr := 0 } else e1.me } with fresh := Nats.add s.fresh (8 * key + i) })
    ∧ (∀ p q, (hdrJm h = 1 ∨ hdrJm h = 2) → s.joinHead key (hdrJa h) = some p → s.joinHead key (hdrJb h) = some q →
      p.kind = kData → q.kind = kData → p.crd = true → q.crd = true →
      let ch := joinChoice (decide (hdrJm h = 2)) (some (p.jentry e.joinA)) (some (q.jentry e.joinB))
      let x := if ch.2.1 then e.consume true (hdrJa h) else (e, false)
      let y := if ch.2.2 then x.1.consume false (hdrJb h) else (x.1, false)
      let now : Option Joined := match ch.1 with
        | none => e.join
        | some (u, v) => some (match e.join with | none => Joined.first p.tag (e.hreg (hdrJa h)) (e.hreg (hdrJb h)) u v | some j => j.add u v)
      let full : Bool := (match now with | some j => decide (j.a.lanes = 8) | none => false) || x.2 || y.2
      (full = false → exec (.joinStep key) s = .next (s.apply (s.joinMove key { y.1 with join := now })))
      ∧ (full = true → ∀ e2, Elem.closeJoin { y.1 with join := now } = some e2 → exec (.joinStep key) s = .next (s.apply (s.joinMove key e2))))
    ∧ (∀ p q, (hdrJm h = 1 ∨ hdrJm h = 2) → s.joinHead key (hdrJa h) = some p → s.joinHead key (hdrJb h) = some q →
      p.kind = kEos → q.kind = kEos → e.join = none → e.qj.length < 4 →
      let t := if p.tag = q.tag then p else errToken key e.ctx.toNat 6 1 0x20 (q.tag.toNat * 16 + p.tag.toNat) p.tag
      let e1 := { e with qj := e.qj ++ [Joined.token t (e.hreg (hdrJa h)) (e.hreg (hdrJb h))] }
      exec (.joinStep key) s = .next (s.apply (s.joinMove key ((e1.pop (hdrJa h)).pop (hdrJb h)))))
    ∧ (∀ p rest, siteType (elemIx key) = .me → e.queue 3 = p :: rest → (p.kind = kEos ∨ p.kind = kErr ∨ p.closing = true) →
      (e.me.bufIn .filling).isSome = true → exec (.rowIntake key) s = .next (put { e with me := e.me.closeFilling }))
    ∧ (∀ p rest m i, siteType (elemIx key) = .me → s.intakeOn key = true → e.queue 3 = p :: rest → p.bad = false → s.fresh.contains (8 * key + 3) = false →
      (p.kind = kData ∨ (p.kind = kHdr ∧ hdrHle h = false)) → p.lw = fmtLw (hdrFmt h) →
      let rows := rowsOf (hdrFmt h) { pkt := p, hdr := e.hreg 3, isConst := false, fixed := false } (e.hreg 3)
      e.me.take rows = some (m, i) →
      let n := e.me.sinceHdr + rows.length
      let m1 := { m with sinceHdr := n }
      exec (.rowIntake key) s = .next (put { e.setQueue 3 rest with
        me := if blockDone (e.hreg 3) e.me.sinceHdr n && decide ((m1.buf i).state = .filling) then m1.close i else m1 }))

/-- SWITCH_WAVE, WITHY and COMMIT_WAVE act (spec 06 R138 to R140, 07 R144, R151, 09 R207): a switch wave to a loaded context whose descriptors
pass makes that context current, clears what spec 07 R151 names, takes the seed, and is pushed on WOUT; a withy marks the element,
closes a buffer it meets at qw (13 R296) and its channels' saves, and queues a marker behind each bound chain; a commit wave counts, applies the
staged constants and goes on. None acts before its outputs have space. -/
def Obligations.WavesAct : Prop :=
  ∀ (s : State) (key : Nat),
    let e := s.elem key
    let win := (s.governing key).1
    let wout := (s.governing key).2
    let acted (e : Elem) : State := { s with
      elems := Map.set Elem.reset s.elems key e, fresh := Nats.add s.fresh (8 * key + 7), moved := Nats.add s.moved key }
    (s.mayAct key = true → s.waveMismatch key = false → s.closedBy key 0 = true → e.join = none → e.ret = [] → e.me.rb0.state = .empty →
      e.me.rb1.state = .empty → s.waveSpace key wout = true → ∀ p l, (inputsOf win).filterMap (s.waveHead key) = p :: l →
      let target := p.pay.extractLsb' 2 3
      e.loaded.getLsbD target.toNat = true → s.badRegister key target.toNat = none →
      let e1 := e.popWaves win
      exec (.switchWave key) s = .next (acted (Elem.pushWave { e1 with
        ctx := target, st := 0, loss := [], hregs := [], gens := [], rng := e1.seed (s.header key target.toNat), split := 0, carry := 0, count := 0
        sinkc := 0, reported := false, fc := 0, me := { e1.me with rv := false, sinceHdr := 0 }, opening := none } wout p)))
    ∧ (s.mayAct key = true → s.closedBy key 1 = true → s.waveSpace key wout = true → (∀ r ∈ e.ret, r.need = 0) →
      ∀ p l, (inputsOf win).filterMap (s.waveHead key) = p :: l →
      let e1 := match e.queue 3 with | w :: _ => if w.closing then { e with me := e.me.closeFilling } else e | [] => e
      exec (.withy key) s = .next (acted { (e1.popWaves win).pushWave wout p with
        acted := true, saveCh := BitVec.ofNat 6 (63 - win % 64), inj := e1.inj ++ s.markers key e1 }))
    ∧ (s.countCommits key = [] → e.takesCommits = true → e.held = false → e.busy = none → s.fresh.contains (8 * key + 7) = false →
      let l := inputsOf (s.current key).1
      l ≠ [] → (∀ q ∈ l, 1 ≤ e.commitCount q) → s.waveSpace key (s.current key).2 = true → e.ret = [] →
      let e1 := l.foldl (fun (acc : Elem) q => acc.setCommit q (acc.commitCount q - 1)) e
      (s.applyStaged key e1).2 = none →
      exec (.commitWave key) s = .next (acted ((s.applyStaged key e1).1.pushWave (s.current key).2 (wavePacket 2 0))))

/-- MEMORY_ACCESS, TRANSLATION_WALK, PATROL_SCRUB, TLB_INVALIDATE, KID_PURGE, KEY_SLOT_WRITE, PENDING_LINE_TIMEOUT and STATE_STORAGE_ERROR
(spec 02 R34, R42, R44, R45, R50 to R52, 04 R93, 17 R401): an access with none before it is performed and leaves the list, or is sent to its
package; a walk enters its leaf in the die's buffer and its pointer entries with the walkers; the scrub corrects one wrong bit and counts it, and
poisons a sector with more; translations of a range, and cached lines of a key, go once no access uses them; a key slot that nothing uses takes a random key; a line pending for 2^20 cycles, and a storage error, stop the region. -/
def Obligations.FabricComplete : Prop :=
  ∀ (s : State),
    (∀ a, s.pending.find? (fun b => b.id = a.id) = some a → (∀ b ∈ s.pending, b.id ∉ a.after) → a.sent = false → s.gatedFor a.pkg a.pa = none → s.cutOff a.pkg = false →
      (a.pkg = s.pkgNum ∨ a.op.isCopies = true →
        exec (.memoryAccess a.id) s = .next (State.apply { s with pending := s.pending.filter (fun b => b.id ≠ a.id) } (s.performOp a)))
      ∧ (a.pkg ≠ s.pkgNum → a.op.isCopies = false →
        exec (.memoryAccess a.id) s = .next (State.apply
          { s with pending := s.pending.map (fun b => if b.id = a.id then { b with sent := true } else b) } (s.sendOp a))))
    ∧ (∀ die tcid va w size, die < 4 → va < 2 ^ 48 → Map.get 0 s.roots tcid ≠ 0 →
      (∀ t ∈ s.buffer (384 + die), t.tcid = tcid → va / 2 ^ pageBits t.size ≠ t.vpage) →
      let start := s.walkStart die tcid va
      let tables := s.walkTables va start.1 start.2
      let new := pointersRead tcid va tables
      let t := s.apply (s.touchAll (tables.map (fun x => entryAt x.1 x.2 va)))
      s.walk tcid va start.1 start.2 = .ok (w, size) →
      exec (.translationWalk ⟨die, tcid⟩ va) s = .next { t with
        pointers := if new.isEmpty then t.pointers else Map.set [] t.pointers die ((new ++ s.pointersOf die).take 512)
        tlb := Map.set [] t.tlb (384 + die) (enterWay 16 1024
          { tcid := tcid, vpage := va / 2 ^ pageBits size, size := size, leaf := BitVec.ofNat 64 w } (s.buffer (384 + die))) })
    ∧ (∀ n, (placeOf (32 * n)).block = .hbm → Map.get 0 s.softErr n = 1 →
      exec (.patrolScrub n) s = .next (State.perform { s with softErr := Map.set 0 s.softErr n 0 } (s.countEvent (recordOf (32 * n)) 2)))
    ∧ (∀ n, (placeOf (32 * n)).block = .hbm → 2 ≤ Map.get 0 s.softErr n →
      exec (.patrolScrub n) s = .next (State.perform { s with poison := Nats.add s.poison n, softErr := Map.set 0 s.softErr n 0 }
        (s.countEvent (recordOf (32 * n)) 1)))
    ∧ (∀ tcid lo hi, s.usesRange tcid lo hi = false →
      let meets (t lo' hi' : Nat) : Bool := t = tcid && decide (lo' < hi) && decide (lo < hi')
      exec (.tlbInvalidate tcid lo hi) s = .next (s.apply
        (s.tlb.map (fun x => Effect.tlb x.1 (x.2.filter (fun e => !meets e.tcid (e.vpage * 2 ^ pageBits e.size) ((e.vpage + 1) * 2 ^ pageBits e.size))))
          ++ s.pointers.map (fun x => Effect.pointers x.1
            (x.2.filter (fun p => !meets p.tcid (p.prefix_ * 2 ^ levelShift p.level) ((p.prefix_ + 1) * 2 ^ levelShift p.level)))))))
    ∧ (∀ die kid, (∀ a ∈ s.pending, a.pkg = s.pkgNum → a.kid = kid → a.pa / 0x1800000000 ≠ die) →
      exec (.kidPurge die kid) s = .next (s.apply
        ((s.cache.filter (fun x => x.2.kid = kid && decide (128 * x.1 / 0x1800000000 = die))).map (fun x => Effect.cacheLine x.1 CacheLine.none))))
    ∧ (∀ kid, 1 ≤ kid → kid < 64 → (∀ x ∈ s.tlb, ∀ e ∈ x.2, bits e.leaf.toNat 51 6 ≠ kid) → (∀ x ∈ s.cache, x.2.kid ≠ kid) →
      (∀ a ∈ s.pending, a.pkg = s.pkgNum → a.kid ≠ kid) →
      exec (.keySlotWrite kid) s = .next { s with keySlots := Map.set 0 s.keySlots kid (Config.randomKey s.free), free := s.free + 1 })
    ∧ (∀ core spad line b p, let k := ekey core (spadElem spad)
      p ∈ (s.elem k).pend → p.1 = line → 2 ^ 20 ≤ p.2.2 → s.isMember k = true → s.regionOf k = some b → (s.region b).tv = false →
      exec (.pendingLineTimeout core spad line) s = .next (s.apply (s.asyncStop b 0x17 5 (elemIx k) (detailOf [(4, spad), (9, line)]))))
    ∧ (∀ core elem unit b, s.regionOf (ekey core elem) = some b →
      exec (.stateStorageError core elem unit) s = .next ((s.perform (s.countEvent core 7)).apply (s.asyncStop b 0x55 5 elem (detailOf [(7, elem), (3, unit)]))))

/-- The accumulate network (spec 14 R320, R329, R337, R339): a word that no earlier one of its channel and cores precedes leaves the network at a
powered core of this package, or through the port towards another. A contribution under the tag of a live range that holds its entry is added and counted, else a refusal returns; a marker
increments MRK, an unbind decrements BNDS; a bind request is answered; an answer of 4 binds the chain and ends the firing; 64 cycles after a
"not yet" the request goes again; a refusal is recorded and counted, and traps the AE in its first free cycle. -/
def Obligations.AccumulateNetworkComplete : Prop :=
  ∀ (s : State) (n : Nat),
    let out : State := { s with accNet := listDrop s.accNet n }
    (∀ id core ent w dix gen src chain, s.wordAt n = some (.contrib id s.pkgNum core ent w dix gen src chain) → s.powerOf core = .on →
      let r := s.range core dix
      (r.live = true → r.gen = gen → r.holds ent = true → r.arr + 1 ≤ r.exp → r.arr + 1 < 2 ^ 32 →
        let t := out.apply (out.amFix core [ent])
        exec (.contributionArrival n) s = .next { t with
          am := Map.set 0 t.am (32768 * core + ent) (waAdd (s.amEntry core ent) w)
          amErr := Map.erase t.amErr (32768 * core + ent)
          ranges := Map.set RangeDesc.reset t.ranges (64 * core + dix) { r with arr := r.arr + 1 } })
      ∧ ((r.live = false ∨ r.gen ≠ gen ∨ r.holds ent = false) →
        exec (.contributionArrival n) s = .next { out with accNet := listDrop s.accNet n ++ [.refusal s.pkgNum core ent dix gen 0x44 src chain] }))
    ∧ (∀ core first dix gen src, s.wordAt n = some (.marker s.pkgNum core first dix gen src) → s.powerOf core = .on → (s.range core dix).tagged gen = true →
      exec (.markerArrival n) s = .next { out with
        ranges := Map.set RangeDesc.reset s.ranges (64 * core + dix)
          { s.range core dix with mrk := Nat.min ((s.range core dix).mrk + 1) 65535 } })
    ∧ (∀ core first dix gen src, s.wordAt n = some (.unbind s.pkgNum core first dix gen src) → s.powerOf core = .on → (s.range core dix).tagged gen = true →
      exec (.unbindArrival n) s = .next { out with
        ranges := Map.set RangeDesc.reset s.ranges (64 * core + dix)
          { s.range core dix with bnds := (s.range core dix).bnds - 1 } })
    ∧ (∀ core first x tcid src chain d, s.wordAt n = some (.bindReq s.pkgNum core first x tcid src chain) → s.powerOf core = .on → s.rangeFrom core first = some d →
      let r := s.range core d
      r.tcid = tcid → r.x = x → r.bnds ≠ 65535 →
      exec (.bindRequest n) s = .next { out with
        accNet := listDrop s.accNet n ++ [.bindAns s.pkgNum core 4 r.count d r.gen r.x src chain]
        ranges := Map.set RangeDesc.reset s.ranges (64 * core + d) { r with bnds := r.bnds + 1 } })
    ∧ (∀ w pkg core, s.wordAt n = some w → pkg ≠ s.pkgNum → s.cutOff pkg = false →
      (∀ id ent x dix gen src chain, w = .contrib id pkg core ent x dix gen src chain → exec (.contributionArrival n) s = .next (out.run (sendWord w)))
      ∧ (∀ first dix gen src, w = .marker pkg core first dix gen src → exec (.markerArrival n) s = .next (out.run (sendWord w)))
      ∧ (∀ first dix gen src, w = .unbind pkg core first dix gen src → exec (.unbindArrival n) s = .next (out.run (sendWord w)))
      ∧ ∀ first x tcid src chain, w = .bindReq pkg core first x tcid src chain → exec (.bindRequest n) s = .next (out.run (sendWord w)))
    ∧ (∀ pkg core count dix gen x src chain fr l, s.wordAt n = some (.bindAns pkg core 4 count dix gen x src chain) → s.powerOf (coreOf src) = .on →
      out.bindFiring src chain = some fr → out.descLanes fr 5 = .ok l →
      let c : Chain :=
        { bound := true, pkg := bits (l.getD 0 0) 9 6, lcore := l.getD 0 0 % 512, core := core, first := firstOf (l.getD 1 0), count := count
          x := xOf (l.getD 1 0), base := l.getD 2 0, rstr := l.getD 3 0, nsend := l.getD 4 0, cur := 0, sent := 0, dix := dix, gen := gen }
      let idle : Fire := { fr with e := fr.e.setBind chain .idle }
      exec (.bindAnswer n) s = .next (idle.landed { idle.plain with e := idle.e.setChain chain c } out))
    ∧ (∀ key chain fr c l core, s.bindFiring key chain = some fr → fr.e.bindOf chain = .again c → s.descLanes fr 5 = .ok l → c ≤ s.cycle.toNat →
      s.resolve key (l.getD 0 0 / 2 ^ 9 % 2 ^ 6) (l.getD 0 0 % 512) = some core →
      exec (.bindRetry key chain) s = .next { s with
        elems := Map.set Elem.reset s.elems key (fr.e.setBind chain .reasked), accNet := s.accNet ++ [s.bindWord fr l core] })
    ∧ (∀ pkg core ent dix gen cause src chain, s.wordAt n = some (.refusal pkg core ent dix gen cause src chain) → s.powerOf (coreOf src) = .on →
      let e := s.elem src
      e.active = true → e.refRec = none →
      exec (.refusalArrival n) s = .next { out with elems := Map.set Elem.reset s.elems src { e with
        refRec := some { dix := dix, gen := gen, ent := ent, cause := cause, core := core, pkg := pkg, chain := chain }, refCount := Nat.min (e.refCount + 1) 65535 } })
    ∧ (∀ key r, (s.elem key).refRec = some r → s.isFree key = true → r.cause = 0x44 →
      let t : State := { s with elems := Map.set Elem.reset s.elems key { s.elem key with refRec := none, refCount := 0 } }
      exec (.refusalTrap key) s = .next (t.apply (t.trapEffects key
        { cause := 0x44, orig := 4, slot := 0, ctx := (s.elem key).ctx.toNat, detail := detailOf [(9, r.core), (6, r.pkg), (15, r.ent), (1, r.chain)] })))

/-- Writes and atomic adds in core windows (spec 01 R23, R26 to R31, 05 R112, R115, 07 R146, 08 R172): an access whose master may reach the
block in that way, of a legal size and alignment, to a powered core, is performed: bytes with their marks in core memory; a constant
staged; a legal descriptor's poison, width and length; a context image and its loaded flag cleared; accumulator words; a semaphore written
or added to; a barrier's arrivals or bytes added; a write that meets the region command register asks for its operation (17 R399); one of the
control region reaches the register there (R33). -/
def Obligations.WindowAccessesComplete : Prop :=
  ∀ (s : State) (w : WinAccess),
    let pa := winPa w
    let p := placeOf pa
    let passes (k : Kind) : Prop := s.refusal w.master k pa w.data.length (roleCore w.role) w.scope = none ∧ s.gatedFor s.pkgNum pa = none
    let marks := List.replicate w.data.length w.pois
    let made (l : List Effect) : Host.Outcome State Fault Refusal := .next ((s.apply (s.touchLine 0 pa false true w.data.length)).apply l)
    (passes .write →
      (p.block = .coreMem → exec (.windowWrite w) s = made (.bytes pa w.data :: poisonEffects pa marks))
      ∧ (p.block ∈ [.hbm, .spad, .dfile, .bar, .bind] → exec (.windowWrite w) s = made (s.store 0 pa w.data marks))
      ∧ (p.block = .regctl → (p.off + w.data.length ≤ 0x410 ∨ 0x418 ≤ p.off) → exec (.windowWrite w) s = made (s.regctlWrite p.core p.off w.data))
      ∧ (p.block = .regctl → p.off < 0x418 → 0x410 < p.off + w.data.length → exec (.windowWrite w) s = .next
          (((s.apply (s.touchLine 0 pa false true w.data.length)).apply (s.regctlWrite p.core p.off w.data)).run
            (regionCommand p.core (Map.get 0 s.opReg p.core))))
      ∧ (p.block = .control → exec (.windowWrite w) s = .next (s.run (controlWrite w)))
      ∧ (p.block = .const → exec (.constantWrite w) s = made
          [.elem (ekey p.core (p.off / 256)) ((s.elem (ekey p.core (p.off / 256))).stage (p.off % 256 / 32) (p.off % 32) w.data marks)])
      ∧ (p.block = .desc → descOk (leNat w.data) = true → (s.elem (ekey p.core (p.off / 16))).active = false →
          let k := ekey p.core (p.off / 16)
          let n := p.off % 16 / 4
          exec (.descriptorWrite w) s = made [.elem k ((s.elem k).setD n { (s.elem k).dReg n with
            pois := BitVec.ofNat 8 (leNat w.data / 2 ^ 8 % 2 ^ 8), lw := BitVec.ofNat 2 (leNat w.data / 2 ^ 6 % 4), len := BitVec.ofNat 4 (leNat w.data % 16) })])
      ∧ (p.block = .image →
          let k := ekey p.core (p.off / 2048)
          exec (.contextImageWrite w) s = made [.bytes pa w.data, .elem k { s.elem k with loaded := (s.elem k).loaded &&& ~~~(1#8 <<< (p.off % 2048 / 256)) }])
      ∧ (p.block = .am → exec (.amWindowWrite w) s = made (amWritten p.core p.off w.data marks))
      ∧ (p.block = .sem → exec (.semaphoreWrite w) s = made [.sem (256 * p.core + p.off / 8) (semWritten (s.sem p.core (p.off / 8)) w.data)]))
    ∧ (passes .atomic →
      let set (e : Effect) : Host.Outcome State Fault Refusal := .next (s.perform e)
      (p.block = .sem →
        let n := semAt pa
        exec (.semaphoreAtomicAdd w) s = set (.sem (256 * n.1 + n.2) (semSignal (s.sem n.1 n.2) (signExt 32 (leNat w.data)) (if w.pois then some (0x32, w.role) else none))))
      ∧ (p.block = .bar →
        let n := barAt pa
        let old := s.bar n.1 n.2
        (p.off % 16 = 4 → pa % 16 = 4 → exec (.barrierArrivalAdd w) s = set (.bar (2048 * n.1 + n.2) (barArrive old (leNat w.data % 4096) w.pois w.role)))
        ∧ (p.off % 16 = 12 → pa % 16 = 12 → exec (.barrierByteAdd w) s = set (.bar (2048 * n.1 + n.2) (barBytes old (leNat w.data % 2 ^ 32) w.pois w.role)))))

/-- CONFIGURATION_LOAD, ORDERING_CONTROL_WRITE, CONS_CHANGE_COMPLETE, CORE_POWER_GATING, WAKE_COMPLETE and WAKE_FAILURE (spec 01 R32, 08 R171,
15 R352, R353, 17 R401): an image all of whose contexts pass is written, at once or after the wake of its core; a write of the ordering control word sets BUSY, or waits behind a
change in progress; the change ends in every powered core, and the last waiting write begins; an idle core is gated; a woken core runs
in the package's mode, and what was held goes on; after a failed wake what was held is lost, and the core stays gated. -/
def Obligations.CoresComplete : Prop :=
  ∀ (s : State) (core : Nat),
    (∀ img, (s.powerOf core = .on → s.imageFail core img = none → exec (.configurationLoad core img) s = .next (s.run (loadImage core img)))
      ∧ (s.powerOf core ≠ .on → exec (.configurationLoad core img) s = .next { s with
          heldq := Map.set [] s.heldq core (s.holdOf core ++ [.load img]), gated := Map.set .on s.gated core .waking }))
    ∧ (∀ v, (s.consBusy = false → exec (.orderingControlWrite v) s = .next { s with cons := v, consBusy := true, consNext := [] })
      ∧ (s.consBusy = true → exec (.orderingControlWrite v) s = .next { s with consNext := s.consNext ++ [v] }))
    ∧ (s.consBusy = true →
      let t := s.apply (((List.range 384).filter (fun c => s.powerOf c = .on && Map.get true s.consAt c ≠ s.cons)).map (fun c => .consAt c s.cons))
      (s.consNext = [] → exec .consChangeComplete s = .next { t with consBusy := false, consNext := [] })
      ∧ ∀ v, s.consNext.getLast? = some v → exec .consChangeComplete s = .next { t with cons := v, consBusy := true, consNext := [] })
    ∧ (core < 384 → s.powerOf core = .on →
      (∀ b ∈ blocksOf core, (s.region b).state = .free ∨ (s.region b).state = .idle ∨ (s.region b).state = .saved) →
      (∀ e < 4, (s.engine core e).offers = [] ∧ (s.engine core e).queue = [] ∧ (s.engine core e).running = []) →
      (∀ a ∈ s.pending, coreOf a.key ≠ core) → (∀ r ∈ s.returned, coreOf r.key ≠ core) → Map.get [] s.taskWait core = [] → Map.get [] s.lport core = [] →
      (∀ x ∈ s.elems, coreOf x.1 = core → x.2.inj = [] ∧ x.2.feed = none ∧ x.2.asks = []) →
      exec (.corePowerGating core) s = .next { s with gated := Map.set .on s.gated core .gated })
    ∧ (s.powerOf core = .waking →
      let l := s.holdOf core
      exec (.wakeComplete core) s = .next (State.run { s with
          gated := Map.set .on s.gated core .on, consAt := Map.set true s.consAt core s.cons, heldq := Map.set [] s.heldq core []
          taskNet := heldTasks l ++ s.taskNet, accNet := heldWords l ++ s.accNet } (Prog.forEach l (deliverHeld core)))
      ∧ (let a := State.run { s with heldq := Map.set [] s.heldq core [] } (Prog.forEach l (heldLost core))
         let b := a.run (Prog.forEach (a.elems.map (fun x => x.1)) (firingLost core))
         let c := (b.run (commandsLost core)).run (threadsLost core)
         exec (.wakeFailure core) s = .next { c with gated := Map.set .on c.gated core .gated }))

/-- A packet of a queue thread that starts: its place is among the open ones, and the read index of its ring goes past it (spec 16 R369). -/
def packetStarted (s : State) (t : Nat) (p : QPacket) : State :=
  let x := s.thread t
  let n := x.started + packetSlots p
  State.run { s with threads := Map.set Thread.reset s.threads t { x with started := n, opened := x.opened ++ [x.started] } }
    (foreWrite x.tcid (x.ringVa + 8) (leBytes 8 n))

/-- NOPQ, COPYH, WAITQ, SIGQ, FENCEQ, LAUNCH and DELTA as queue packets (spec 16 R368 to R372, R380, R383, 05 R103): a well-formed packet that its
thread may start starts; NOPQ and SIGQ complete; COPYH offers its command to an engine, whose core it wakes; WAITQ and FENCEQ block the thread and are evaluated; a LAUNCH
whose record, plan and container pass enters the list, and is placed where Foreveder chooses; a DELTA whose records lie in its launch
holds the elements concerned. -/
def Obligations.QueuePacketsComplete : Prop :=
  ∀ (s : State) (t : Nat) (p : QPacket), s.focus = .thread t → s.mayStart t p = true →
    let x := s.thread t
    let u := packetStarted s t p
    let word (i : Nat) : Nat := (match i with | 1 => p.first.w1 | 2 => p.first.w2 | _ => p.first.w3).toNat
    let thread (s : State) (b : Block) : State := { s with threads := Map.set Thread.reset s.threads t { s.thread t with block := b } }
    (queuePacketOk 0 p = true → exec (.nopq p) s = .next (u.run (completePacket t x.started)))
    ∧ (queuePacketOk 3 p = true →
      let g := u.engine (word 1 % 512) 0
      exec (.copyh p) s = .next { u with
        gated := if u.powerOf (word 1 % 512) = .on then u.gated else Map.set .on u.gated (word 1 % 512) .waking
        engines := Map.set Engine.reset u.engines (4 * (word 1 % 512))
          { g with offers := g.offers ++ [{ c := p.second, src := .thread t x.started, tcid := (u.thread t).tcid, slot := x.started }] } })
    ∧ (queuePacketOk 4 p = true →
      exec (.waitq p) s = .next ((thread u (.waitq (word 1 % 2 ^ 48) p.first.w2 (word 3 % 4) (p.first.w3.getLsbD 8))).run (evaluateWait t)))
    ∧ (queuePacketOk 5 p = true →
      (∀ ps, s.checkSigq x.tcid p = .ok ps → s.gateOf ps = none → exec (.sigq p) s = .next (u.run (signalPacket t x.started p ps)))
      ∧ ∀ c, s.checkSigq x.tcid p = .error c → exec (.sigq p) s = .next (u.run (stopQueue t x.started c)))
    ∧ (queuePacketOk 6 p = true →
      exec (.fenceq p) s = .next ((thread u (.fenceq p)).run (evaluateFence t)))
    ∧ (queuePacketOk 1 p = true → s.launchGate x.tcid (word 1 % 2 ^ 48) = none → ∀ b l plan cont m,
      let tcid := (u.thread t).tcid
      u.readChecked (u.foreWho tcid) ((word 1 % 2 ^ 48 : Nat) : Int) 32 = .ok (b, l) →
      let h := leNat (b.map (fun y => y.1))
      u.cplFail tcid (recordCpl h) = none → u.readPlan tcid (word 1 % 2 ^ 48) h = .ok (plan, cont, m) → u.couldPlace plan = true →
      let q := plan.launch u.nextId tcid t x.started
      let v := u.apply (l ++ m)
      let entered : State := { v with
        nextId := u.nextId + 1, launches := u.launches ++ [q], threads := Map.set Thread.reset v.threads t { u.thread t with block := .launch q.id } }
      (entered.choose tcid plan cont = none → exec (.launch p) s = .next entered)
      ∧ ∀ place, entered.choose tcid plan cont = some place → exec (.launch p) s = .next (entered.run (launchAt q plan cont place)))
    ∧ (queuePacketOk 2 p = true → s.deltaGate x.tcid p = none → ∀ q ds e,
      let tcid := (u.thread t).tcid
      s.launchNamed x.tcid (BitVec.ofNat 16 (word 1)) = some q → q.delta = none → u.launchNamed tcid (BitVec.ofNat 16 (word 1)) = some q →
      q.waiting = false → u.launchStopped q = false → u.readDelta (u.foreWho tcid) (word 2 % 2 ^ 48) q.ncores = .ok (ds, e) → u.deltaInside q ds = true →
      exec (.queueDelta p) s = .next (u.apply (e ++ (u.deltaHolds q ds).flatMap (fun k => u.dropOffers k ++ [.elem k { u.cancelled k (u.elem k) with held := true }])
        ++ [.launches (u.launches.map (fun l => if l.id = q.id then { l with delta := some ds, deltaThread := t, deltaPacket := x.started } else l))])))

/-- QUEUE_DOORBELL, WAITQ_EVALUATE, LAUNCH_PLACEMENT, DELTA_APPLY and RUN_LIST_TURN (spec 16 R365, R367, R370 to R372, R383): a doorbell wakes the
thread of a mapped queue; a wait whose condition holds ends and its packet completes; a fence is evaluated again while it blocks its thread; a
waiting launch is placed where R363 allows; a delta all of whose held elements have stopped is written if its changed contexts pass, else refused,
and its packet completes; the queues of the next process are mapped for its quantum, all others not, and its waiting launches take cores. -/
def Obligations.QueueEventsComplete : Prop :=
  ∀ (s : State) (t : Nat),
    let x := s.thread t
    (x.bound = true → x.mapped = true →
      exec (.queueDoorbell t) s = .next { s with threads := Map.set Thread.reset s.threads t { x with awake := true } }
      ∧ (x.stopped = false → ∀ va v cond sem ps, x.block = .waitq va v cond sem → s.checkBehalf x.tcid .read va 8 = .ok ps → s.gateOf ps = none →
        let w := leNat ((s.fetchFrom [] s.free ps).map (fun b => b.1))
        let u := s.apply (s.fetchEffects (s.behalf x.tcid).role x.tcid ps)
        (sem = false ∨ w / 2 ^ 31 % 2 = 0) →
        (waitHolds cond (if sem then w % 2 ^ 24 else w) v.toNat = true → exec (.waitqEvaluate t) s = .next (u.run (endWait t)))
        ∧ (waitHolds cond (if sem then w % 2 ^ 24 else w) v.toNat = false → exec (.waitqEvaluate t) s = .next u)))
    ∧ (∀ p q, s.focus = .thread t → x.block = .fenceq q → x.mapped = true → x.stopped = false →
      exec (.fenceq p) s = .next (s.run (evaluateFence t)))
    ∧ (∀ id l place c m, s.launch? id = some l → l.waiting = true → s.readContainer (s.foreWho l.tcid) l.img = .ok (c, m) → l.plan.imagesIn c = true →
      s.placementOk l.tcid l.plan c place = true → exec (.launchPlacement id place) s = .next ((s.apply m).run (launchAt l l.plan c place)))
    ∧ (∀ id l ds, s.launch? id = some l → l.delta = some ds → s.launchStopped l = false → (∀ k ∈ s.heldBy l, (s.elem k).busy = none) →
      (∀ b ∈ l.regions, (s.region b).state ≠ .completing) →
      let w := deltaContexts l ds s
      let ended : State := { s with launches := s.launches.map (fun l => if l.id = id then { l with delta := none } else l) }
      ((s.apply w).deltaFail (deltaChanged l ds) = none →
        exec (.deltaApply id) s = .next ((ended.apply w).run
          (Prog.seq [deltaConstants l ds, releaseHolds l true, completePacket l.deltaThread l.deltaPacket])))
      ∧ ∀ f, (s.apply w).deltaFail (deltaChanged l ds) = some f →
        exec (.deltaApply id) s = .next (ended.run
          (Prog.seq [releaseHolds l false, refuseDelta l.deltaThread l.deltaPacket f.cause (failingRecord l ds f)])))
    ∧ (∀ p, s.nextProc s.runPos = some p →
      let turned : State := State.apply { s with runPos := p, turnAt := s.cycle.toNat + (s.proc p).quantum * s.clock }
        (s.threads.map (fun x => .thread x.1 { x.2 with mapped := x.2.bound && decide (x.2.tcid = p), awake := x.2.bound && decide (x.2.tcid = p) }))
      exec .runListTurn s = .next (turned.run
        (Prog.forEach (turned.launches.filter (fun l => l.waiting && l.tcid = p)) (yieldCores p s.runPos))))

/-- The life of an invocation (spec 16 R377, R378, R386, R387, 17 R399, R400, R402, R403, R405 to R409, R413, R414): once every sink has reported
its elements leave it; when nothing of it is under way its residue is counted, it is idle, and its record is merged or its successors
are signalled; an idle region with a child starts it; pre-emption begins a cut, which is complete once every element has acted and every
marker is in, and is overdue after 65,536 cycles; a region in which nothing moved for a window is deadlocked; a trapped region resumes. -/
def Obligations.InvocationsComplete : Prop :=
  ∀ (s : State) (core block : Nat),
    let blk := 16 * core + block
    let r := s.region blk
    let ks := s.regionElems blk
    ((r.state = .running ∨ r.state = .preempting) → r.snkx ≠ 0 → r.snkx ≤ r.snkd →
      let t := s.apply (s.pauseCmds blk false ++ ks.flatMap (fun k => s.dropOffers k ++
        [.elem k { s.cancelled k (s.elem k) with active := false, opening := none, held := false, inject := [] }]))
      exec (.invocationCompletion core block) s = .next { t with regions := Map.set Region.reset t.regions blk { r with state := .completing, cutAt := 0 } })
    ∧ (r.state = .completing → (∀ k ∈ ks, (s.elem k).busy = none) → s.outstanding core ks = false →
      exec (.invocationCompletion core block) s = .next (s.run (finishCompletion blk)))
    ∧ (∀ l c rest, r.state = .idle → s.launch? r.launch = some l → l.delta = none → r.children = c :: rest →
      let t : State := { s with regions := Map.set Region.reset s.regions blk { r with children := rest, succ := c.succ, succScope := c.scope, inChild := true, cpl := 0 } }
      t.sinks blk c.ctx ≠ 0 →
      let u := t.run (startInvocation blk c.ctx)
      exec (.childStart core block) s = .next { u with
        taskNet := u.taskNet ++
          (payloadPackets c.payload).map (fun p => Task.data core c.label ((u.regionElems blk).headD 0) p) })
    ∧ ((r.state = .idle ∨ r.state = .running) →
      exec (.preEmpt core block) s = .next (s.run (Prog.forEach (s.closure (s.regions.length + 1) [blk]) beginCut)))
    ∧ (r.state = .preempting → r.snkd < r.snkx → (∀ k ∈ ks, (s.elem k).acted = true) →
      s.portHolds blk = false → (∀ i ∈ s.rangesOf blk, (s.range (blk / 16) i).mrk = (s.range (blk / 16) i).bnds) →
      exec (.cutComplete core block) s = .next { s with regions := Map.set Region.reset s.regions blk { r with state := .saved, cutAt := 0 } })
    ∧ (r.state = .preempting → s.cutDone blk = false → r.cutAt.toNat + 65536 ≤ s.cycle.toNat →
      let late := ks.filter (fun k => !(s.elem k).acted)
      exec (.cutOverdue core block) s = .next (s.apply (s.asyncStop blk 0x53 6 (elemIx (late.headD 0)) (elemMask late))))
    ∧ (∀ w, s.windowOf core = some w → r.state = .running → w ≤ r.quiet →
      exec (.deadlock core block) s = .next (s.apply (s.asyncStop blk 0x50 3 (s.stuckElem blk) (elemMask (ks.filter (fun k => (s.elem k).residue ≠ 0))))))
    ∧ (r.state = .trapped → r.cause ≠ 0x55 → r.cause ≠ 0x56 →
      exec (.resume core block) s = .next (s.apply (s.resumeEffects blk))
      ∧ ((∀ k ∈ ks, ∀ i, (s.elem k).trap = some i → s.trappedInTrap k i = true) →
        let t := s.apply (ks.filterMap (fun k => (s.elem k).trap.map (fun i =>
          let fr := s.firingOf k i.slot
          .elem k { fr.pops fr.f.dqa fr.f.dqb fr.e with st := fr.nextSt none })))
        exec (.resumeSkipping core block) s = .next (t.apply (t.resumeEffects blk))))

/-- CHILD_LAUNCH_RECEIVE, REGION_DISCARD and RESTORE (spec 16 R385, R386, 17 R400, R412 to R414): a child for a place of a resident launch of its
process joins the region's list and its command is done, or goes to the package that place lies in, whose answer the command waits for; one that
names none is refused with status 9; a discarded region stops, loses its
residue, commands and ranges, merges its record, reports, marks every semaphore and barrier of its core in error and is released; a
saved region whose contexts pass, in place or at its new place, goes on. -/
def Obligations.RegionsComplete : Prop :=
  ∀ (s : State),
    (∀ n at_ words succ tcid src id peer, s.taskNet[n]? = some (.child at_ words succ tcid src id peer) →
      let g := s.engine src 3
      let w := (words.headD 0).toNat
      s.childBefore n src w = false →
      let called (l : Launch) : Bool := l.hnd.toNat = bits w 48 16 && l.tcid = tcid && l.res && !l.waiting
      let any : Bool := match g.running.find? (fun c => c.id = id) with | some c => c.c.fld 3 9 1 = 1 | none => false
      let out : State := { s with taskNet := listDrop s.taskNet n }
      let issuer (f : Cmd → Cmd) : State := { out with engines := Map.set Engine.reset s.engines (4 * src + 3) (g.update id f) }
      let answered (status : Nat) : State :=
        match peer with
        | some r => out.perform (.send (.answer r (if status = 0 then [] else [BitVec.ofNat 8 status]) 0))
        | none => issuer (fun c => if status = 0 then c.doneOk (s.engineRole src 3) else c.stop status 0x35 (s.engineRole src 3))
      (s.launches.find? called = none → exec (.childLaunchReceive n) s = .next (answered 9))
      ∧ ∀ l core, s.launches.find? called = some l → (if peer.isSome then some at_ else s.childCore l any (bits w 42 6) (bits w 33 9)) = some core →
        (core < 512 → s.powerOf core = .on →
          (s.childRegion l core w (words.length - 1) = none → exec (.childLaunchReceive n) s = .next (answered 9))
          ∧ ∀ b, s.childRegion l core w (words.length - 1) = some b → (s.region b).children.length < 8 →
            let child : Child := { ctx := bits w 30 3, label := bits w 16 7, payload := (words.drop 1).take (bits w 8 5), succ := succ, scope := l.outerScope }
            exec (.childLaunchReceive n) s = .next { answered 0 with
              regions := Map.set Region.reset s.regions b { s.region b with children := (s.region b).children ++ [child] } })
        ∧ (512 ≤ core → s.cutOff (core / 512 - 1) = false →
          let waits (c : Cmd) : Cmd := { c with
            owes := [s.nextId], landing := some { prog := 0, last := true, stop := none, pois := false, arrive := [] } }
          exec (.childLaunchReceive n) s = .next (State.perform { issuer waits with nextId := s.nextId + 1 }
            (.send (.peer (s.peerReq (s.engineRole src 3) (core / 512 - 1) (winBase (core % 512)) tcid s.nextId words.length .task 0
              (clean ((words ++ succ).flatMap (fun w => leBytes 8 w.toNat)))))))))
    ∧ (∀ core block, let blk := 16 * core + block
      let r := s.region blk
      (r.state = .running ∨ r.state = .trapped ∨ r.state = .preempting ∨ r.state = .saved) →
      let cause := if r.tv then r.cause else 0x38
      exec (.regionDiscard core block) s = .next (s.run (Prog.seq
        [fun s => s.stopRegion blk, removeResidue blk, discardCommands blk, fun s => (s.rangesOf blk).map (fun i => s.releaseRange (blk / 16) i),
         (if r.inChild || r.fromIdle then Prog.skip else completionMerge blk (if r.tv then 1 else 3) cause),
         faultEntry r.tcid cause 5 0 r.hnd.toNat [] none, errorAll (blk / 16),
         Prog.when (fun s => (s.region blk).state ≠ .free) (releaseRegion blk)])))
    ∧ (∀ n core row col,
      (s.saves[n]? = none → ∀ b, (blocksOf core).find? (fun b => (s.region b).state = .saved && (s.region b).rw0 = row && (s.region b).cl0 = col) = some b →
        s.restoreFail b = none → exec (.restore n core row col) s = .next (s.run (wakeRegion b)))
      ∧ ∀ v, s.saves[n]? = some v →
        let p : NewPlace := { blk := (s.freeBlocks core).headD 0, core := core, row := row, col := col }
        let t := State.run { s with saves := listDrop s.saves n } (Prog.seq
          [if Map.get 0 s.served core = v.region.tcid then Prog.skip else claimCore v.region.tcid core [], writeCoreArea v core, writeSave v p])
        s.placeFail v p = none → t.restoreFail p.blk = none → exec (.restore n core row col) s = .next (t.run (wakeRegion p.blk)))

/-- The host port (spec 18 R415 to R419): with the firmware running and the link keyed, a request of a ready queue pair that a valid entry of
its RKEY admits, and whose every access passes, is performed: the bytes of a WRITE are written, those of a READ answered sector by sector; one
that no entry admits, or whose page does not permit it, is answered with a NAK and puts the pair in the error state; an invalid request is answered with a NAK, a CNP limits the pair, a key agreement that is accepted keys the port, pause frames set the
pause, and a frame that fails MACsec is dropped and counted. -/
def Obligations.HostPortComplete : Prop :=
  ∀ (s : State) (qp : Nat),
    let dropped (port : Nat) : State :=
      let t : State := { s with ports := Map.set Port.reset s.ports port { s.port port with drops := (s.port port).drops + 1 } }
      t.perform (t.countEvent (portRecord port) 3)
    (s.root.phase = .normal → qp < 1024 →
      ((s.port 12).keyed = false → exec (.rdmaInvalidRequest qp) s = .next (dropped 12) ∧ exec (.cnpReceive qp) s = .next (dropped 12))
      ∧ ((s.port 12).keyed = true →
        (s.qpOf qp = .ready →
          exec (.rdmaInvalidRequest qp) s = .next { s with replies := s.replies ++ [.nak qp 0] }
          ∧ exec (.cnpReceive qp) s = .next { s with qps := Map.set .ready s.qps qp .limited })
        ∧ ((s.qpOf qp = .ready ∨ s.qpOf qp = .limited) → ∀ rkey va tcid,
          (∀ data ps l, s.hostEntry qp { write := true, rkey := rkey, va := va, len := data.length, data := data } = some tcid →
            s.hostTranslates tcid { write := true, rkey := rkey, va := va, len := data.length, data := data } = true →
            s.checkAccess (s.hostWho qp tcid) .write (va : Int) data.length = .ok ps → s.writeChecked (s.hostWho qp tcid) (va : Int) data = .ok l →
            exec (.rdmaWrite qp rkey va data) s = .next (s.apply l))
          ∧ ∀ len ps, s.hostEntry qp { write := false, rkey := rkey, va := va, len := len, data := [] } = some tcid →
            s.hostTranslates tcid { write := false, rkey := rkey, va := va, len := len, data := [] } = true →
            s.checkAccess (s.hostWho qp tcid) .read (va : Int) len = .ok ps →
            exec (.rdmaRead qp rkey va len) s = .next (s.run (readSectors qp tcid (sectorsIn va len len))))
        ∧ ((s.qpOf qp = .ready ∨ s.qpOf qp = .limited) → ∀ rkey va,
          let refused : Host.Outcome State Fault Refusal := .next { s with replies := s.replies ++ [.nak qp 1], qps := Map.set .ready s.qps qp .error }
          let fails (r : HostReq) : Prop := s.hostEntry qp r = none ∨ ∃ tcid, s.hostEntry qp r = some tcid ∧ s.hostTranslates tcid r = false
          (∀ data, fails { write := true, rkey := rkey, va := va, len := data.length, data := data } → exec (.rdmaWrite qp rkey va data) s = refused)
          ∧ ∀ len, fails { write := false, rkey := rkey, va := va, len := len, data := [] } → exec (.rdmaRead qp rkey va len) s = refused)))
    ∧ (∀ port frame, s.root.phase = .normal → port ≤ 12 → Config.mkaAccepts port frame = true → (port = 12 ∨ (s.port port).attested = true) →
      exec (.mkaExchange port frame) s = .next { s with ports := Map.set Port.reset s.ports port { s.port port with keyed := true } })
    ∧ (∀ b, exec (.priorityFlowControl b) s = .next { s with paused := b })
    ∧ (∀ port, port ≤ 12 → exec (.macsecDrop port) s = .next (dropped port))

/-- The state after a management operation that is done (spec 18 R421, R422): the sequence number taken if the packet is signed, its changes,
then the reply with STATUS 0 and its words. -/
def managed (s : State) (signed : Bool) (m : MgmtPacket) (words : List Nat) (extra : List Byte) (l : State → List Effect) : State :=
  let t : State := if signed then { s with mgmtSeq := mgmtSeqOf m } else s
  (t.apply (l t)).run (writeReply m (Reply.done words extra))

/-- The signed management operations complete when the owner's signature verifies, the sequence number is greater than the last, and the
operands pass (spec 18 R421, R422, R434, R437, 02 R45, R47, R48, R52): each has its effect and replies with STATUS 0. CREATE waits while accesses
under its KIDs are to be performed; DESTROY first ends what the process runs, and waits until nothing uses its translations and KIDs. -/
def Obligations.ManagementComplete : Prop :=
  ∀ (s : State) (m : MgmtPacket), s.focus = .management → s.root.phase = .normal → s.ownerSigned m = true → s.mgmtSeq < mgmtSeqOf m →
    let t : State := { s with mgmtSeq := mgmtSeqOf m }
    let o (i : Nat) : Nat := operandOf m i
    let tcid := o 0 % 2 ^ 10
    let queue := threadOf tcid (o 0 / 2 ^ 16 % 32)
    let done (words : List Nat) (l : List Effect) : Host.Outcome State Fault Refusal := .next (managed s true m words [] (fun _ => l))
    (∀ new, t.freeTcid = some new →
      let kids := t.freeKids.take (bits (o 0) 32 2 + 1)
      100 ≤ bits (o 0) 0 32 → bits (o 0) 0 32 ≤ 100000 → kids.length = bits (o 0) 32 2 + 1 → bits (o 1) 48 4 + 4 ≤ 12 → bits (o 1) 0 48 % 64 = 0 →
      o 2 % 512 = 0 → o 3 % 65536 = 0 → o 4 % 65536 = 0 → o 3 + o 4 ≤ 0x6000000000 → t.meetsPool (o 3) (o 4) = false →
      t.mapsFrames (o 3) (o 4) = false → (∀ k ∈ kids, s.usesKid k = false) →
      exec (.create m) s = .next (managed s true m [new, packFields (kids.map (fun k => (6, k)))] [] (Prog.seq
        [purgeKids kids,
         fun u => .proc new { live := true, quantum := bits (o 0) 0 32, kids := kids, ringVa := bits (o 1) 0 48, ringLog := bits (o 1) 48 4 + 4
                              trapVa := o 2, saveBase := o 3, saveSize := o 4, wix := 0, lost := 0, digests := [] }
          :: kids.zipIdx.map (fun x => .keySlot x.1 (Config.randomKey (u.free + x.2))) ++ [.free (u.free + kids.length)]])))
    ∧ ((s.proc tcid).live = true → s.holdsOn tcid = true → exec (.destroy m) s = .next (s.run (endProcess tcid)))
    ∧ ((s.proc tcid).live = true → s.holdsOn tcid = false →
      exec (.destroy m) s = .next (managed s true m [] [] (Prog.seq
        [endProcess tcid,
         Prog.forEach ((s.served.filter (fun x => x.2 = tcid)).map (fun x => x.1)) (fun c => Prog.seq
           [zeroCore c, fun s => (entriesIn s.binding (128 * c) (128 * c + 128)).map (fun x => .bind x.1 0), fun _ => [.served c 0]]),
         fun u => .root tcid 0 :: u.untranslate (fun e => e.tcid = tcid) (fun e => e.tcid = tcid),
         purgeKids (s.proc tcid).kids,
         fun s => (s.hostKeys.filter (fun x => bits x.2.toNat 204 10 = tcid && x.1 ≠ 0)).map (fun x => .hostKey x.1 0),
         fun _ => [.proc tcid Proc.reset]])))
    ∧ ((s.proc tcid).live = true → (s.thread queue).bound = false → o 1 % 64 = 0 → ∀ x,
      s.readChecked (s.foreWho tcid) ((o 1 + 8 : Nat) : Int) 8 = .ok x →
      exec (.mapq m) s = done [] [.thread queue { Thread.reset with
        bound := true, mapped := decide (s.runPos = tcid), tcid := tcid, queue := o 0 / 2 ^ 16 % 32, ringVa := o 1, started := leNat (x.1.map (fun b => b.1)) }])
    ∧ ((s.thread queue).bound = true → exec (.unmapq m) s = done [] [.thread queue Thread.reset])
    ∧ (let v := packFields ((List.range 4).map (fun i => (64, o (i + 1))))
       (s.proc tcid).live = true → bits (o 0) 16 12 ≠ 0 → bits v 204 10 = tcid →
       exec (.key m) s = done [] [.hostKey (bits (o 0) 16 12) (BitVec.ofNat 256 v)])
    ∧ (∀ p, t.frozenMaster (o 0) = some p →
      exec (.thaw m) s = .next (managed s true m [] [] p.1) ∧ exec (.discard m) s = .next (managed s true m [] [] p.2))
    ∧ (let n := o 0 % 16
       let b := (operandBytes m).drop 8
       let slot (k : KeySlot) : Host.Outcome State Fault Refusal := done [] [.rootState { s.root with images := Map.set KeySlot.empty s.root.images n k }]
       (bits (o 0) 8 1 = 1 → exec (.enroll m) s = slot { state := 1, ecdsa := b.take 96, hss := (b.drop 96).take 60 })
       ∧ (bits (o 0) 8 1 ≠ 1 → exec (.enroll m) s = slot { s.imageKey n with state := 2 }))
    ∧ (let win (i : Nat) : Nat := packFields ((List.range 4).map (fun j => (64, o (77 + 4 * i + j))))
       let digest (i : Nat) : BitVec 384 := BitVec.ofNat 384 (packFields ((List.range 6).map (fun j => (64, o (i + j)))))
       (∀ i < 64, bits (win i) 96 1 = 1 → t.meetsPool (bits (win i) 0 48) (bits (win i) 48 48) = false) →
       exec (.domain m) s = done [] ([.pkgNum (o 0 % 64), .measure 0 (digest 1), .measure 1 (digest 7)]
         ++ (List.range 64).map (fun i => .route i (BitVec.ofNat 64 (o (13 + i)))) ++ (List.range 64).map (fun i => .window i (BitVec.ofNat 256 (win i)))))
    ∧ (let size := bits (o 0) 16 2
       let page := 2 ^ pageBits size
       let n := o 3 % 2 ^ 32
       (s.proc tcid).live = true → size ≠ 3 → o 1 % page = 0 → n ≠ 0 → o 1 + n * page ≤ 2 ^ 48 →
       (bits (o 2) 0 2 = 3 →
         (∀ i < n, t.pteBad (leafLevel size) (o 2 + i * page) = false ∧ (bits (o 2) 57 6 = s.pkgNum → t.meetsPool (bits (o 2 + i * page) 8 40 * 256) page = false)) →
         (Map.get 0 s.roots tcid = 0 ∨ t.leafIn (o 1) (o 1 + n * page) (Map.get 0 s.roots tcid) = false) →
         let l := Prog.forEach (List.range n) (fun i => mapPage tcid (o 1 + i * page) (o 2 + i * page) (leafLevel size)) t
         (t.apply l).poolNext ≤ poolEnd → exec (.map m) s = done [] l)
       ∧ (s.usesRange tcid (o 1) (o 1 + n * page) = false → Map.get 0 s.roots tcid ≠ 0 →
         exec (.unmap m) s = .next (managed s true m [] [] (Prog.seq
           [Prog.forEach (List.range n) (fun i => removeLeaf (o 1 + i * page) (leafLevel size) [3, 2, 1, 0] (Map.get 0 s.roots tcid)),
            fun u => u.invalidated tcid (o 1) (o 1 + n * page)]))))

/-- ATTEST, TELEM and the malformed packet (spec 18 R422, R435, R436, R440): a report with the next leaf's signature, its leaf spent; the records
asked for; STATUS 3 where the reply lies in the reply area. A signed operation whose signature does not verify, or whose sequence number is
not greater than the last, is counted and has no effect but STATUS 1 or 2. -/
def Obligations.ManagementReads : Prop :=
  ∀ (s : State) (m : MgmtPacket), s.focus = .management → s.root.phase = .normal →
    let w := operandOf m 4
    let b := s.reportBody (if bits w 15 1 = 1 then some (bits w 0 10) else none) ((operandBytes m).take 32)
    let first := operandOf m 0 % 512
    let n := bits (operandOf m 0) 16 10
    let counted (status : Nat) : Host.Outcome State Fault Refusal :=
      .next (State.run { s with root := { s.root with rejected := s.root.rejected + 1 } } (writeReply m { status := status, cause := 0, words := [], extra := [] }))
    (s.root.leaves < 2 ^ 40 → exec (.attest m) s = .next (managed s false m [] (b ++ sized 3700 (Config.deviceSign s.root.leaves b))
      (fun _ => [.rootState { s.root with leaves := s.root.leaves + 1 }, s.countEvent 405 3])))
    ∧ (1 ≤ n → first + n ≤ 512 → mgmtReplyAt m + 64 + 64 * n ≤ 0x100000 →
      exec (.telem m) s = .next (managed s false m [] ((List.range n).flatMap (fun i => leBytes 64 (Map.get 0 s.telemetry (first + i)).toNat)) (fun _ => [])))
    ∧ (0xC0000 ≤ mgmtReplyAt m → mgmtReplyAt m + 64 ≤ 0x100000 →
      exec (.managementPacketMalformed m) s = .next (s.run (writeReply m { status := 3, cause := 0, words := [], extra := [] })))
    ∧ (s.ownerSigned m = false → exec (.create m) s = counted 1 ∧ exec (.destroy m) s = counted 1 ∧ exec (.map m) s = counted 1)
    ∧ (s.ownerSigned m = true → mgmtSeqOf m ≤ s.mgmtSeq → exec (.create m) s = counted 2 ∧ exec (.destroy m) s = counted 2 ∧ exec (.map m) s = counted 2)

/-- The Daxara link and the domain (spec 18 R424 to R429, R438): on a port that carries traffic, the frame expected is taken, acknowledged and its
credits returned, and what waits for the answers in it goes on, another is answered with a NAK; an ACK retires frames; a NAK and a time-out send the rest again; credits add up; the link
retrains after 16 resends and then fails, with what it was to deliver; a report that matches the measurements admits its port; a
request that the windows admit is performed and answered, another refused; a refused request is waited for no more and freezes its issuer. -/
def Obligations.PeersComplete : Prop :=
  ∀ (s : State) (port : Nat),
    let p := s.port port
    let put (s : State) (p : Port) : State := { s with ports := Map.set Port.reset s.ports port p }
    let counted (s : State) (i : Nat) : State := s.perform (s.countEvent (portRecord port) i)
    (s.portUp port = true →
      (∀ f, p.frozen = false →
        let q := match f.ack with | some a => p.ackTo a | none => p
        let taken : State := { put s { q with rxNext := nextSeq p.rxNext, retraining := false } with
          replies := s.replies ++ [.frame port 1 (nextSeq p.rxNext), .frame port 3 (f.flits.length / 64 * 2 ^ (8 * f.vc))] }
        let dropped : State := { put s { p with naks := p.naks + 1 } with replies := s.replies ++ [.frame port 2 p.rxNext] }
        (p.takes f = true → exec (.daxaraDataFrame port f) s = .next
          (taken.run (if f.vc = 1 ∨ f.vc = 4 ∨ f.vc = 6 then Prog.forEach (Config.answersOf f.flits) peerAnswered else Prog.skip)))
        ∧ (p.takes f = false → exec (.daxaraDataFrame port f) s = .next (if f.good then dropped else counted dropped 1)))
      ∧ (∀ a, exec (.daxaraAck port a) s = .next (put s (p.ackTo a))
        ∧ exec (.daxaraNak port a) s = .next ((put s (p.ackTo a)).run (resendAll port)))
      ∧ (∀ l, exec (.daxaraCredit port l) s = .next (put s { p with
        credits := (List.range 7).foldl (fun m v => Map.set 0 m v (Map.get 0 m v + l.getD v 0 % 256)) p.credits }))
      ∧ (p.replay ≠ [] → ∃ r, exec (.replayTimeout port) s = .next (counted { put s { p with resends := p.resends + 1 } with replies := s.replies ++ r } 2)
          ∧ r = p.replay.map (fun x => .frame port 0 x.1))
      ∧ (16 ≤ p.resends → p.retraining = false → exec (.linkRetrain port) s = .next (counted (put s { p with retraining := true, resends := 0 }) 0))
      ∧ (p.retraining = true →
        let t := counted (put s { p with failed := true, retraining := false, replay := [], outq := [] }) 4
        exec (.linkFailed port) s = .next (t.run (Prog.seq
          [Prog.forEach (t.pending.filter (fun a => a.pkg ≠ t.pkgNum && t.portTo a.pkg = port)) (fun a s => s.loseAccess a (linkFail a.pkg a.pa)),
           requestsLost (s.sentThrough port), wordsLost (s.sentThrough port)]))))
    ∧ (∀ report, s.root.phase = .normal → port < 12 →
      let ok : Bool := natAt report 0 4 = 1 && natAt report 64 48 = (Map.get 0 s.measures 0).toNat && natAt report 112 48 = (Map.get 0 s.measures 1).toNat
        && Config.reportGenuine report
      (ok = true → exec (.peerAttestation port report) s = .next { put s { p with attested := true, keyed := true } with
        replies := s.replies ++ [.frame port 3 (packFields (List.replicate 7 (8, 64)))] })
      ∧ (ok = false → exec (.peerAttestation port report) s = .next (put s { p with attested := false, keyed := false })))
    ∧ (∀ r : PeerReq, s.portUp r.port = true → (s.port r.port).frozen = false →
      (s.peerPasses r = none → exec (.peerRequest r) s = .next (s.perform (.send (.refuse r))))
      ∧ (∀ kid, s.peerPasses r = some kid → (opTells r.op = true ∨ s.gatedFor s.pkgNum r.pa = none) → exec (.peerRequest r) s = .next (s.run (peerPerform kid r)))
      ∧ (r.srcPkg = s.pkgNum → exec (.peerRefusal r) s = .next (s.run (Prog.seq
          [bindRefused r.tag, requestRefused r.tag, freezeMaster (BitVec.ofNat 26 r.issuer) r.pa (peerKind r.op)]))))

/-- BOOT, OWNER_KEY_PROVISIONING, TELEMETRY_UPDATE, CLOCK_THROTTLE, CLOCK_RESTORE, EMERGENCY_STOP and POWER_LOSS (spec 18 R431, R434, R435, R440,
R442): the first image that verifies starts the firmware, and the device stays in recovery without one; the owner's keys are set once; the
clock goes down, but not below 1.5 GHz, and up, but not above 2.25 GHz; an emergency stops every running region with cause 0x56; without
power nothing runs. -/
def Obligations.PowerComplete : Prop :=
  ∀ (s : State),
    (s.root.phase = .reset →
      let t := s.perform (s.countEvent 405 1)
      (s.imageRuns s.root.primary = true → exec .boot s = .next (t.run (startFirmware s.root.primary)))
      ∧ (s.imageRuns s.root.primary = false → s.imageRuns s.root.backup = true → exec .boot s = .next (t.run (startFirmware s.root.backup)))
      ∧ (s.imageRuns s.root.primary = false → s.imageRuns s.root.backup = false → exec .boot s = .next { t with root := { t.root with phase := .recovery } }))
    ∧ (∀ a b, s.root.phase = .normal → s.root.owner.state = 0 → a.length = 96 → b.length = 60 →
      exec (.ownerKeyProvisioning a b) s = .next { s with root := { s.root with owner := { state := 1, ecdsa := a, hss := b } } })
    ∧ (∀ r v, r < 406 → exec (.telemetryUpdate r v) s = .next { s with telemetry := Map.set 0 s.telemetry r v })
    ∧ (1500 < s.clock → ∃ f, 1500 ≤ f ∧ f < s.clock ∧ exec .clockThrottle s = .next { s with clock := f, free := s.free + 1 })
    ∧ (s.clock < 2250 → ∃ f, s.clock < f ∧ f ≤ 2250 ∧ exec .clockRestore s = .next { s with clock := f, free := s.free + 1 })
    ∧ (let t := s.perform (s.countEvent 405 2)
       exec .emergencyStop s = .next (t.run (Prog.forEach (t.liveRegions.filter (fun b => (t.region b).state = .running || (t.region b).state = .preempting))
         (fun b s => s.asyncStop b 0x56 5 (elemIx ((s.regionElems b).headD 0)) 0))))
    ∧ (∃ n, (n = s.root.leaves ∨ n = s.root.leaves + 1) ∧
       exec .powerLoss s = .next { s with powered := false, root := { s.root with leaves := n }, free := s.free + 1 })

/-- A slot and a command all of whose bits are zero. -/
def blankSlot : Slot :=
  { sv := 0, sm := 0, qa := 0, qb := 0, ta := 0, tea := false, tb := 0, teb := false, ka := 0, kb := 0, os := 0, pcl := 0, str := false
    val := false, sa := 0, sb := 0, dd := 0, dwe := false, om := 0, ot := 0, oeos := false, dqa := false, dqb := false, ns := 0, nse := false
    md := 0, imm := 0 }
def blankWords : Command := { w0 := 0, w1 := 0, w2 := 0, w3 := 0, w4 := 0, w5 := 0, w6 := 0, w7 := 0 }

/-- Decode and encode agree, for every well-formed slot of every element instruction: the words that the encoder writes are 96 bits, and the
decoder reads from them the same instruction with every field as it was. And no bit of a slot is dropped: of 96 bits that the decoder accepts,
the encoder gives the same 96 bits back; so no instruction has two words, and a bit that a row leaves reserved is never accepted set
(spec 08 R165, R168, R173). -/
def Obligations.SlotRoundTrip : Prop :=
  (∀ (i : Instr) (f : Slot) (r : EncRow), i.slot = some f → i.encRow = some r → i.wellFormed = true →
    encode i = some (96, slotBits r.op f) ∧ slotBits r.op f < 2 ^ 96 ∧ decodeSlot (slotBits r.op f) = .ok i
    ∧ decodeTableWord 96 (slotBits r.op f) = some i)
  ∧ ∀ (x : Nat) (i : Instr), x < 2 ^ 96 → decodeSlot x = .ok i → i.wellFormed = true ∧ encode i = some (96, x)

/-- Decode and encode agree for commands, queue packets and management packets: of every well-formed one the eight words of each of its slots
come back from the bits, and its constructor from them (spec 05 R104, R105, 16 R368, 18 R422). -/
def Obligations.PacketRoundTrip : Prop :=
  ∀ (i : Instr), i.wellFormed = true →
    (∀ o p c, i.commandCode = some (o, p, c) → encode i = some (512, commandBits c) ∧ decodeCommand (commandOf (commandBits c)) = .ok i)
    ∧ (∀ t p, i.queueCode = some (t, p) → encode i = some (queueBits t p) ∧ decodeQueue (queueOf (queueBits t p).1 (queueBits t p).2) = .ok i)
    ∧ (∀ o m, i.mgmtCode = some (o, m) → decodeManagement { m with slot := commandOf (commandBits m.slot) } = i)

/-- The words written out field by field from the tables of the spec decode to the instructions they stand for, one in each family (spec 08 R165, R173,
05 R104, 16 R368), and bits that no row assigns are refused by name. -/
def Obligations.DecodeWords : Prop :=
  -- ADD: OP 0x01, SB 5 (operand B from queue b), DWE, VAL
  decodeSlot (2 ^ 39 + 0x01 * 2 ^ 40 + 5 * 2 ^ 51 + 2 ^ 56)
    = .ok (.add { blankSlot with val := true, sb := 5, dwe := true })
  -- CMPLT writing state bit 3: OP 0x21, MD bit 76, IMM[15:13] 3
  ∧ decodeSlot (2 ^ 39 + 0x21 * 2 ^ 40 + 2 ^ 76 + 3 * 2 ^ 93) = .ok (.cmplt { blankSlot with val := true, md := 1, imm := 0x6000 })
  -- SEL by lane: OP 0x25, MD bit 76 set
  ∧ decodeSlot (2 ^ 39 + 0x25 * 2 ^ 40 + 2 ^ 56 + 2 ^ 76) = .ok (.selLane { blankSlot with val := true, dwe := true, md := 1 })
  -- TRAP with IMM[6:4] 5
  ∧ decodeSlot (2 ^ 39 + 0x81 * 2 ^ 40 + 5 * 2 ^ 84) = .ok (.trap { blankSlot with val := true, imm := 0x50 })
  -- an empty slot, an opcode that no row assigns, and NOP with a reserved IMM bit
  ∧ decodeSlot 0 = .error .emptySlot
  ∧ decodeSlot (2 ^ 39 + 0x36 * 2 ^ 40) = .error (.unassigned 0x36)
  ∧ decodeSlot (2 ^ 39 + 2 ^ 80) = .error (.field 80)
  -- COPY: OPC 0x01, PATH 1; with PATH 2 the header is refused
  ∧ decodeTableWord 512 (0x01 + 1 * 2 ^ 8) = some (.copy { blankWords with w0 := 0x101 })
  ∧ decodeCommand { blankWords with w0 := 0x201 } = .error (.badCommand 0x01)
  -- NOPQ: TYPE 0; TYPE 7 is malformed
  ∧ decodeQueue { first := blankWords, second := blankWords } = .ok (.nopq { first := blankWords, second := blankWords })
  ∧ decodeQueue { first := { blankWords with w0 := 7 }, second := blankWords } = .error (.malformedPacket 7)

/-- A STEP RUNS THE DECODED INSTRUCTION (spec 07 R155, 08 R173, 05 R103, 16 R369, 18 R422, R440). Without power a step faults. With no turn
left a new cycle begins. Else the first turn is taken off the agenda; what it fetches, which is what the bits of the element's chosen slot, of
the engine's command or of the ring's packet decode to, is executed under that focus, and the turn ends. A firing that takes several cycles only
begins, and is executed in its last (07 R158, R159): in the others its element fetches nothing. The order of the turns is the
model's (log 3). -/
def Obligations.StepRunsDecoded : Prop :=
  ∀ (s : State),
    (s.powered = false → step s = .fault .poweredOff)
    ∧ (s.powered = true → s.agenda = [] → step s = .next (s.run newCycle))
    ∧ (s.powered = true → ∀ t rest, s.agenda = t :: rest →
      let u := (s.perform (.agenda rest)).run (beginTurn t)
      (u.fetch t = none → step s = .next (u.run (endTurn u false t)))
      ∧ (∀ i f v, u.fetch t = some (i, f) → exec i (u.perform (.focus f)) = .next v →
        ((∀ key, t = .element key → u.longFiring v i key = none) → step s = .next ((v.run (endTurn u true t)).perform (.focus .none)))
        ∧ ∀ key n d, t = .element key → u.longFiring v i key = some (n, d) →
          step s = .next ((u.run (Prog.seq [beginLong i key n d, endElement u key])).perform (.focus .none)))
      ∧ (∀ key, t = .element key → (u.elem key).busy ≠ none → (u.elem key).left ≠ 0 → u.fetch t = none)
      ∧ (∀ key n i, t = .element key → ((u.elem key).busy = none ∨ (u.elem key).left = 0) → u.slotToRun key = some n →
        decodeSlot (leNat (u.memBytes (imageBase key (u.elem key).ctx.toNat + 16 + 12 * n) 12)) = .ok i →
        u.fetch t = some (i, .slot key (u.elem key).ctx.toNat n))
      ∧ (∀ c e n m i, t = .command c e n → (u.engine c e).running[n]? = some m → decodeCommand m.c = .ok i → u.fetch t = some (i, .command c e n))
      ∧ (∀ x p i, t = .thread x → u.ringPacket x = some p → decodeQueue p = .ok i → u.fetch t = some (i, .thread x))
      ∧ (t = .management → u.fetch t = some (decodeManagement u.nextManagement, .management))
      ∧ (∀ i, t = .event i → u.fetch t = some (i, .none)))

/-- Every step keeps the canonical form of memory and of every map of the machine (log 2), whatever it executes. -/
def Obligations.StepKeepsCanonical : Prop :=
  ∀ (s t : State), s.canonical = true → step s = .next t → t.canonical = true

/-- What reset leaves: every map canonical with memory listing nothing, and the values that the spec gives: CONS 1 and BUSY 0 (15 R352), the cycle
counter 0 (12 R286), the detector windows 65,536 (17 R402), every element inactive with no context loaded, every staged flag clear and
every descriptor LW 10, LEN 1, POIS 0 (01 R23, 07 R144), every region block free (16 R375), the fabric clock 2.25 GHz (00 R5). -/
def Obligations.ResetCanonical : Prop :=
  State.reset.canonical = true ∧ State.reset.mem = [] ∧ State.reset.cons = true ∧ State.reset.consBusy = false ∧ State.reset.cycle = 0
  ∧ State.reset.clock = 2250 ∧ State.reset.powered = true
  ∧ (∀ core, State.reset.windowOf core = some 65536)
  ∧ (∀ key, (State.reset.elem key).active = false ∧ (State.reset.elem key).loaded = 0
      ∧ (∀ r, ((State.reset.elem key).kStage r).flag = false)
      ∧ ∀ r, ((State.reset.elem key).dReg r).lw = 2 ∧ ((State.reset.elem key).dReg r).len = 1 ∧ ((State.reset.elem key).dReg r).pois = 0)
  ∧ ∀ b, (State.reset.region b).state = .free

/-- A slot that is not eligible does nothing (spec 07 R162): whatever its instruction, it does not fire, pop, push, write or change `st` or s; of the
element only the loss counters change at the end of its turn, and that of the slot becomes 0 if the cycle was free, else it is held (R156). (What a
firing of several cycles had read when it began is dropped with its last.) -/
def Obligations.IneligibleSlotsIdle : Prop :=
  (∀ (s : State) (i : Instr) (f : Slot) (r : EncRow) (fr : Fire), i.slot = some f → i.encRow = some r → s.fireOf f = some fr →
    r.fixMask = 0 ∨ f.md.toNat &&& r.fixMask = r.fixVal → s.canFire fr (guardFor r.op) (readyFor r.op) = false → exec i s = .next s)
  ∧ ∀ (old s : State) (key n : Nat), n < 16 → s.canonical = true →
    let t := s.run (endElement old key)
    t = { s with elems := t.elems } ∧ (∀ k, k ≠ key → t.elem k = s.elem k)
    ∧ t.elem key = { s.elem key with loss := (t.elem key).loss, latch := (t.elem key).latch }
    ∧ (old.isFree key = true → (t.elem key).latch = (s.elem key).latch ∧ (n ∉ old.readySlots key → (t.elem key).lossOf n = 0))
    ∧ (old.isFree key = false → (t.elem key).loss = (s.elem key).loss)

/-- Arbitration (spec 07 R155): in a free element exactly one of the eligible slots runs if there is any. If any of them is promoted, it is the promoted
one with the largest loss counter, the lower index on a tie; else it is one of the lowest PCL, the lower index on a tie. An element has one
turn a cycle. -/
def Obligations.ArbitrationChoice : Prop :=
  (∀ (s : State) (key : Nat), (s.elem key).busy = none →
    let ready := s.readySlots key
    let loss := (s.elem key).lossOf
    let pcl (n : Nat) : Nat := (s.slotField key n).pcl.toNat
    (ready = [] → s.slotToRun key = none)
    ∧ (ready ≠ [] → ∃ n, s.slotToRun key = some n ∧ n ∈ ready
      ∧ ((∃ m ∈ ready, 16 ≤ loss m) → ∀ m ∈ ready, loss m < loss n ∨ (loss m = loss n ∧ n ≤ m))
      ∧ ((∀ m ∈ ready, loss m < 16) → ∀ m ∈ ready, pcl n < pcl m ∨ (pcl m = pcl n ∧ n ≤ m))))
  ∧ ∀ (s : State) (key : Nat), s.canonical = true → s.cycleTurns.count (.element key) ≤ 1

/-- The binary and the unary integer instructions. -/
def pairOps : List (Slot → Instr) :=
  [.add, .sub, .adds, .subs, .mul, .mulh, .mulhn, .min, .max, .minn, .maxn, .and, .or, .xor, .andn, .shl, .shr, .sha, .rol, .movh]
def singleOps : List (Slot → Instr) := [.abs, .neg, .clz, .ctz, .popc, .brev, .mov]

/-- What a firing that only computes leaves unchanged: everything outside its element but the note that the element moved, every byte of memory with
it; in the element every data entry but the destination, every queue but those it pops, every output register but those it pushes to, and
the state register unless NSE is set; every constant, header, generator, chain, the random generator and all else (spec 07 R159, R160). -/
def FiringFrame (s t : State) (fr : Fire) : Prop :=
  let e := s.elem fr.key
  let x := t.elem fr.key
  let popped (q : Nat) : Prop := (fr.f.dqa = true ∧ fr.f.qa.toNat = q) ∨ (fr.f.dqb = true ∧ fr.f.qb.toNat = q)
  t = { s with elems := t.elems, moved := t.moved } ∧ (∀ a, t.memByte a = s.memByte a) ∧ (∀ k, k ≠ fr.key → t.elem k = s.elem k)
  ∧ x = { e with d := x.d, qs := x.qs, qj := x.qj, outs := x.outs, oyDest := x.oyDest, ret := x.ret, st := x.st, busy := none }
  ∧ (∀ r, r < 4 → (fr.f.dwe = true ∧ r = fr.f.dd.toNat) ∨ x.dReg r = e.dReg r)
  ∧ (∀ q, q < 6 → popped q ∨ x.queue q = e.queue q) ∧ (popped 6 ∨ x.qj = e.qj)
  ∧ (∀ o, o < 6 → fr.f.om.getLsbD o = true ∨ x.out o = e.out o)
  ∧ x.st = (if fr.f.nse then fr.f.ns else e.st)

/-- The frame of ADD to MOVH and of ABS to MOV (spec 07 R159, R160, 10 R225): whenever one of them completes on operands of the slot's width and
agreeing lengths, it changes its destination entry, the heads it pops, the outputs it pushes to and the state it names, and nothing else. -/
def Obligations.IntegerFrame : Prop :=
  ∀ (s t : State) (f : Slot) (fr : Fire) (a b : Opnd) (n : Nat) (c : Slot → Instr), s.canonical = true → Fires f ownGuard always s fr →
    (c ∈ pairOps → s.opA fr = some a → s.opB fr = some b → badWidth (fmtLw fr.fmt) [a, b] = none → outLen fr.w [a, b] = some n →
      exec (c f) s = .next t → FiringFrame s t fr)
    ∧ (c ∈ singleOps → s.opA fr = some a → badWidth (fmtLw fr.fmt) [a] = none → outLen fr.w [a] = some n →
      exec (c f) s = .next t → FiringFrame s t fr)

/-- What a scratchpad store leaves unchanged: every byte of memory outside the addresses stored to, read under whatever KID (HBM, core memory, every
scratchpad, the context images); every other element, every data entry and constant of its own, accumulator memory, semaphores, barriers, and
every region block but its own, where poisoned lanes are counted. -/
def StoreFrame (s t : State) (fr : Fire) (stored : Nat → Prop) : Prop :=
  (∀ kid a, (placeOf a).block ∈ [Area.hbm, .coreMem, .spad, .image] → stored a ∨ t.byteAt kid a = s.byteAt kid a) ∧ (∀ k, k ≠ fr.key → t.elem k = s.elem k)
  ∧ (t.elem fr.key).d = (s.elem fr.key).d ∧ (t.elem fr.key).k = (s.elem fr.key).k
  ∧ (∀ b, s.regionOf fr.key ≠ some b → t.region b = s.region b)
  ∧ t = { s with mem := t.mem, poison := t.poison, softErr := t.softErr, elems := t.elems, moved := t.moved, regions := t.regions }

/-- The frame of SST, SSTS, SSCT and SZERO (spec 09 R189, R191 to R193, R198): SST stores to the bytes from IMM[14:0] up, one lane after another; SSTS to
those of its generator; SSCT to the table entries that its unpoisoned index lanes name; SZERO to 2^IMM[12:9] lines from line IMM[8:0]. All
other memory reads as before, the bytes in which a priority queue was arranged among them (R195). -/
def Obligations.ScratchpadFrame : Prop :=
  ∀ (s t : State) (f : Slot) (fr : Fire), s.canonical = true → siteType (elemIx fr.key) = .se →
    (Fires f ownGuard Fire.readySst s fr → ∀ a, s.opA fr = some a → badWidth (fmtLw fr.fmt) [a] = none →
      (∀ i < a.pkt.lanes, 32768 < fr.imm 0 15 + i * (fr.w / 8) + fr.w / 8 → (a.raw i).2 = true) →
      exec (.sst f) s = .next t →
      StoreFrame s t fr (fun x => ∃ i < a.pkt.lanes, ∃ j < fr.w / 8, x = padAddr fr.key ((fr.imm 0 15 + i * (fr.w / 8) + j : Nat) : Int)))
    ∧ (Fires f ownGuard Fire.readySsts s fr → ∀ a, s.opA fr = some a → badWidth (fmtLw fr.fmt) [a] = none → a.pkt.lanes = fr.desc.lanes →
      exec (.ssts f) s = .next t → StoreFrame s t fr (fun x => ∃ i ∈ fr.affine, x = padAddr fr.key i))
    ∧ (Fires f ownGuard Fire.storeReady s fr → ∀ x b n, s.opA fr = some x → s.opB fr = some b → badWidth (fmtLw fr.fmt) [b] = none →
      outLen fr.w [x, b] = some n → (∀ i < n, x.bp i = false → x.bl i ≤ fr.desc.cntm 0) →
      exec (.ssct f) s = .next t →
      StoreFrame s t fr (fun y => ∃ i < n, x.bp i = false ∧ ∃ j ∈ fr.desc.entry (x.bl i), y = padAddr fr.key j))
    ∧ (Fires f ownGuard Fire.readySzero s fr →
      let z := spadBase fr.core (elemIx fr.key)
      exec (.szero f) s = .next t →
      StoreFrame s t fr (fun x => z + 64 * fr.imm 0 9 ≤ x ∧ x < Nat.min (z + 64 * fr.imm 0 9 + 64 * 2 ^ fr.imm 9 4) (z + 32768)))
end

