-- ==== Sys2Proof/Laws/Map.lean ====
section
/-! SUPPORT. The laws of sparse maps: what a write reads as, and that every operation keeps the canonical form. -/

namespace Sys2Proof

variable {α : Type} {d : α}

theorem Map.get_insert_same (m : Map α) (a : Nat) (x : α) : Map.get d (Map.insert m a x) a = x := by
  induction m with
  | nil => simp [Map.insert, Map.get]
  | cons e m ih =>
    obtain ⟨k, v⟩ := e
    simp only [Map.insert]
    split
    · simp [Map.get]
    · split <;> simp [Map.get, *]

theorem Map.get_insert_other (m : Map α) {a b : Nat} (x : α) (h : b ≠ a) : Map.get d (Map.insert m a x) b = Map.get d m b := by
  induction m with
  | nil => simp [Map.insert, Map.get, h.symm]
  | cons e m ih =>
    obtain ⟨k, v⟩ := e
    simp only [Map.insert]
    split
    · simp [Map.get, h.symm]
    · split
      · subst k; simp [Map.get, h.symm]
      · simp [Map.get, ih]

theorem Map.get_erase_other (m : Map α) {a b : Nat} (h : b ≠ a) : Map.get d (Map.erase m a) b = Map.get d m b := by
  induction m with
  | nil => rfl
  | cons e m ih =>
    obtain ⟨k, v⟩ := e
    simp only [Map.erase]
    split
    · subst k; simp [Map.get, h.symm]
    · simp [Map.get, ih]

theorem Map.above_of_le {m : Map α} {b c : Nat} (h : Map.above c m = true) (hc : b ≤ c) : Map.above b m = true := by
  induction m with
  | nil => rfl
  | cons e m ih => simp only [Map.above, Bool.and_eq_true, decide_eq_true_eq] at h ⊢; exact ⟨by omega, ih h.2⟩

theorem Map.get_of_above {m : Map α} {a b : Nat} (h : Map.above b m = true) (hb : a ≤ b) : Map.get d m a = d := by
  induction m with
  | nil => rfl
  | cons e m ih =>
    simp only [Map.above, Bool.and_eq_true, decide_eq_true_eq] at h
    simp only [Map.get]
    rw [if_neg (by omega), ih h.2]

variable [DecidableEq α]

theorem Map.wf_cons {k : Nat} {v : α} {m : Map α} :
    Map.wf d ((k, v) :: m) = true ↔ v ≠ d ∧ Map.above k m = true ∧ Map.wf d m = true := by
  simp [Map.wf, and_assoc]

theorem Map.get_erase_same {m : Map α} (a : Nat) (h : Map.wf d m = true) : Map.get d (Map.erase m a) a = d := by
  induction m with
  | nil => rfl
  | cons e m ih =>
    obtain ⟨k, v⟩ := e
    obtain ⟨-, ha, hm⟩ := Map.wf_cons.1 h
    simp only [Map.erase]
    split
    · subst k; exact Map.get_of_above ha le_rfl
    · simp [Map.get, *]

/-- A write reads back. -/
theorem Map.get_set_same {m : Map α} (a : Nat) (x : α) (h : Map.wf d m = true) : Map.get d (Map.set d m a x) a = x := by
  unfold Map.set
  split
  · subst x; exact Map.get_erase_same a h
  · exact Map.get_insert_same m a x

/-- A write leaves every other key alone. -/
theorem Map.get_set_other (m : Map α) {a b : Nat} (x : α) (h : b ≠ a) : Map.get d (Map.set d m a x) b = Map.get d m b := by
  unfold Map.set
  split
  · exact Map.get_erase_other m h
  · exact Map.get_insert_other m x h

omit [DecidableEq α] in
theorem Map.above_insert {m : Map α} {a b : Nat} (x : α) (h : Map.above b m = true) (hb : b < a) : Map.above b (Map.insert m a x) = true := by
  induction m with
  | nil => simp [Map.insert, Map.above, hb]
  | cons e m ih =>
    obtain ⟨k, v⟩ := e
    simp only [Map.above, Bool.and_eq_true, decide_eq_true_eq] at h
    simp only [Map.insert]
    split
    · simp [Map.above, h, hb]
    · split <;> simp [Map.above, *]

omit [DecidableEq α] in
theorem Map.above_erase {m : Map α} {b : Nat} (a : Nat) (h : Map.above b m = true) : Map.above b (Map.erase m a) = true := by
  induction m with
  | nil => rfl
  | cons e m ih =>
    obtain ⟨k, v⟩ := e
    simp only [Map.above, Bool.and_eq_true, decide_eq_true_eq] at h
    simp only [Map.erase]
    split
    · exact h.2
    · simp [Map.above, h.1, ih h.2]

theorem Map.wf_insert {m : Map α} (a : Nat) {x : α} (hx : x ≠ d) (h : Map.wf d m = true) : Map.wf d (Map.insert m a x) = true := by
  induction m with
  | nil => simp [Map.insert, Map.wf, Map.above, hx]
  | cons e m ih =>
    obtain ⟨k, v⟩ := e
    obtain ⟨hv, ha, hm⟩ := Map.wf_cons.1 h
    simp only [Map.insert]
    split
    · exact Map.wf_cons.2 ⟨hx, by simp [Map.above, *, Map.above_of_le ha (by omega : a ≤ k)], h⟩
    · split
      · subst k; exact Map.wf_cons.2 ⟨hx, ha, hm⟩
      · exact Map.wf_cons.2 ⟨hv, Map.above_insert x ha (by omega), ih hm⟩

theorem Map.wf_erase {m : Map α} (a : Nat) (h : Map.wf d m = true) : Map.wf d (Map.erase m a) = true := by
  induction m with
  | nil => rfl
  | cons e m ih =>
    obtain ⟨k, v⟩ := e
    obtain ⟨hv, ha, hm⟩ := Map.wf_cons.1 h
    simp only [Map.erase]
    split
    · exact hm
    · exact Map.wf_cons.2 ⟨hv, Map.above_erase a ha, ih hm⟩

/-- Every write keeps the canonical form. -/
theorem Map.wf_set {m : Map α} (a : Nat) (x : α) (h : Map.wf d m = true) : Map.wf d (Map.set d m a x) = true := by
  unfold Map.set
  split
  · exact Map.wf_erase a h
  · exact Map.wf_insert a ‹_› h

omit [DecidableEq α] in
theorem Map.above_filter {m : Map α} {b : Nat} (p : Nat × α → Bool) (h : Map.above b m = true) : Map.above b (m.filter p) = true := by
  induction m with
  | nil => rfl
  | cons e m ih =>
    simp only [Map.above, Bool.and_eq_true, decide_eq_true_eq] at h
    simp only [List.filter_cons]
    split
    · simp [Map.above, h.1, ih h.2]
    · exact ih h.2

/-- Removing entries keeps the canonical form. -/
theorem Map.wf_filter {m : Map α} (p : Nat × α → Bool) (h : Map.wf d m = true) : Map.wf d (m.filter p) = true := by
  induction m with
  | nil => rfl
  | cons e m ih =>
    obtain ⟨k, v⟩ := e
    obtain ⟨hv, ha, hm⟩ := Map.wf_cons.1 h
    simp only [List.filter_cons]
    split
    · exact Map.wf_cons.2 ⟨hv, Map.above_filter p ha, ih hm⟩
    · exact ih hm

end Sys2Proof

namespace Sys2Proof.Machine

theorem Nats.wf_cons {n : Nat} {l : List Nat} : Nats.wf (n :: l) = true ↔ (∀ k ∈ l, n < k) ∧ Nats.wf l = true := by
  simp [Nats.wf]

theorem Nats.mem_add {l : List Nat} {a k : Nat} (h : k ∈ Nats.add l a) : k = a ∨ k ∈ l := by
  induction l with
  | nil => simpa [Nats.add] using h
  | cons n l ih =>
    simp only [Nats.add] at h
    split at h
    · simpa using h
    · split at h
      · exact .inr h
      · rcases List.mem_cons.1 h with h | h
        · simp [h]
        · rcases ih h with h | h <;> simp [h]

/-- Adding a number keeps a list rising. -/
theorem Nats.wf_add {l : List Nat} (a : Nat) (h : Nats.wf l = true) : Nats.wf (Nats.add l a) = true := by
  induction l with
  | nil => simp [Nats.add, Nats.wf]
  | cons n l ih =>
    obtain ⟨hn, hl⟩ := Nats.wf_cons.1 h
    simp only [Nats.add]
    split
    · refine Nats.wf_cons.2 ⟨fun k hk => ?_, h⟩
      rcases List.mem_cons.1 hk with hk | hk
      · omega
      · have := hn k hk; omega
    · split
      · exact h
      · refine Nats.wf_cons.2 ⟨fun k hk => ?_, ih hl⟩
        rcases Nats.mem_add hk with hk | hk
        · omega
        · exact hn k hk

theorem Nats.mem_del {l : List Nat} {a k : Nat} (h : k ∈ Nats.del l a) : k ∈ l := by
  induction l with
  | nil => simp [Nats.del] at h
  | cons n l ih =>
    simp only [Nats.del] at h
    split at h
    · exact List.mem_cons_of_mem _ (ih h)
    · rcases List.mem_cons.1 h with h | h
      · simp [h]
      · exact List.mem_cons_of_mem _ (ih h)

/-- Removing a number keeps a list rising. -/
theorem Nats.wf_del {l : List Nat} (a : Nat) (h : Nats.wf l = true) : Nats.wf (Nats.del l a) = true := by
  induction l with
  | nil => rfl
  | cons n l ih =>
    obtain ⟨hn, hl⟩ := Nats.wf_cons.1 h
    simp only [Nats.del]
    split
    · exact ih hl
    · exact Nats.wf_cons.2 ⟨fun k hk => hn k (Nats.mem_del hk), ih hl⟩

/-- Removing numbers keeps a list rising. -/
theorem Nats.wf_filter {l : List Nat} (p : Nat → Bool) (h : Nats.wf l = true) : Nats.wf (l.filter p) = true := by
  induction l with
  | nil => rfl
  | cons n l ih =>
    obtain ⟨hn, hl⟩ := Nats.wf_cons.1 h
    simp only [List.filter_cons]
    split
    · exact Nats.wf_cons.2 ⟨fun k hk => hn k (List.mem_of_mem_filter hk), ih hl⟩
    · exact ih hl

end Sys2Proof.Machine
end

