-- ==== Sys2Proof/Laws/State.lean ====
section
/-! SUPPORT. What each change does to the state, once (State.perform), and what lists of changes do: each law is true by unfolding once,
so that no later proof unfolds a record update. -/

namespace Sys2Proof.Machine

@[simp] theorem State.perform_bytes (s : State) (a : Nat) (l : List Byte) :
    s.perform (.bytes a l) = { s with mem := writeBytes s.mem a l } := rfl

@[simp] theorem State.perform_clear (s : State) (lo hi : Nat) :
    s.perform (.clear lo hi) = { s with mem := clearRange s.mem lo hi, poison := clearNats s.poison (lo / 32) ((hi + 31) / 32), softErr := s.softErr.filter (fun x => x.1 < lo / 32 || (hi + 31) / 32 ≤ x.1) } := rfl

@[simp] theorem State.perform_poison (s : State) (sector : Nat) (b : Bool) :
    s.perform (.poison sector b) = { s with poison := if b then Nats.add s.poison sector else Nats.del s.poison sector } := rfl

@[simp] theorem State.perform_softErr (s : State) (sector n : Nat) :
    s.perform (.softErr sector n) = { s with softErr := Map.set 0 s.softErr sector n } := rfl

@[simp] theorem State.perform_sectorKey (s : State) (sector : Nat) (k : BitVec 512) :
    s.perform (.sectorKey sector k) = { s with sectorKey := Map.set 0 s.sectorKey sector k } := rfl

@[simp] theorem State.perform_keySlot (s : State) (kid : Nat) (k : BitVec 512) :
    s.perform (.keySlot kid k) = { s with keySlots := Map.set 0 s.keySlots kid k } := rfl

@[simp] theorem State.perform_cacheLine (s : State) (line : Nat) (c : CacheLine) :
    s.perform (.cacheLine line c) = { s with cache := Map.set CacheLine.none s.cache line c } := rfl

@[simp] theorem State.perform_tlb (s : State) (n : Nat) (l : List TlbEntry) :
    s.perform (.tlb n l) = { s with tlb := Map.set [] s.tlb n l } := rfl

@[simp] theorem State.perform_pointers (s : State) (die : Nat) (l : List PtrEntry) :
    s.perform (.pointers die l) = { s with pointers := Map.set [] s.pointers die l } := rfl

@[simp] theorem State.perform_root (s : State) (tcid pa : Nat) :
    s.perform (.root tcid pa) = { s with roots := Map.set 0 s.roots tcid pa } := rfl

@[simp] theorem State.perform_cons (s : State) (v busy : Bool) (next : List Bool) :
    s.perform (.cons v busy next) = { s with cons := v, consBusy := busy, consNext := next } := rfl

@[simp] theorem State.perform_consAt (s : State) (core : Nat) (b : Bool) :
    s.perform (.consAt core b) = { s with consAt := Map.set true s.consAt core b } := rfl

@[simp] theorem State.perform_gate (s : State) (core : Nat) (p : Power) :
    s.perform (.gate core p) = { s with gated := Map.set .on s.gated core p } := rfl

@[simp] theorem State.perform_hold (s : State) (core : Nat) (l : List Held) :
    s.perform (.hold core l) = { s with heldq := Map.set [] s.heldq core l } := rfl

@[simp] theorem State.perform_clock (s : State) (n : Nat) :
    s.perform (.clock n) = { s with clock := n } := rfl

@[simp] theorem State.perform_telemetry (s : State) (r : Nat) (v : BitVec 512) :
    s.perform (.telemetry r v) = { s with telemetry := Map.set 0 s.telemetry r v } := rfl

@[simp] theorem State.perform_am (s : State) (k : Nat) (v : BitVec 128) :
    s.perform (.am k v) = { s with am := Map.set 0 s.am k v, amErr := Map.erase s.amErr k } := rfl

@[simp] theorem State.perform_amErr (s : State) (k n : Nat) :
    s.perform (.amErr k n) = { s with amErr := Map.set 0 s.amErr k n } := rfl

@[simp] theorem State.perform_amClear (s : State) (lo hi : Nat) :
    s.perform (.amClear lo hi) = { s with am := s.am.filter (fun x => x.1 < lo || hi ≤ x.1), amErr := s.amErr.filter (fun x => x.1 < lo || hi ≤ x.1) } := rfl

@[simp] theorem State.perform_sem (s : State) (k : Nat) (v : BitVec 64) :
    s.perform (.sem k v) = { s with sems := Map.set 0 s.sems k v } := rfl

@[simp] theorem State.perform_bar (s : State) (k : Nat) (v : BitVec 128) :
    s.perform (.bar k v) = { s with bars := Map.set 0 s.bars k v } := rfl

@[simp] theorem State.perform_bind (s : State) (k : Nat) (v : BitVec 32) :
    s.perform (.bind k v) = { s with binding := Map.set 0 s.binding k v } := rfl

@[simp] theorem State.perform_winReg (s : State) (core : Nat) (v : BitVec 32) :
    s.perform (.winReg core v) = { s with winReg := Map.set 65536#32 s.winReg core v } := rfl

@[simp] theorem State.perform_waveReg (s : State) (core : Nat) (v : BitVec 64) :
    s.perform (.waveReg core v) = { s with waveReg := Map.set 0 s.waveReg core v } := rfl

@[simp] theorem State.perform_opReg (s : State) (core : Nat) (v : BitVec 64) :
    s.perform (.opReg core v) = { s with opReg := Map.set 0 s.opReg core v } := rfl

@[simp] theorem State.perform_region (s : State) (k : Nat) (r : Region) :
    s.perform (.region k r) = { s with regions := Map.set Region.reset s.regions k r } := rfl

@[simp] theorem State.perform_range (s : State) (k : Nat) (r : RangeDesc) :
    s.perform (.range k r) = { s with ranges := Map.set RangeDesc.reset s.ranges k r } := rfl

@[simp] theorem State.perform_engine (s : State) (k : Nat) (e : Engine) :
    s.perform (.engine k e) = { s with engines := Map.set Engine.reset s.engines k e } := rfl

@[simp] theorem State.perform_lport (s : State) (core : Nat) (l : List PortPkt) :
    s.perform (.lport core l) = { s with lport := Map.set [] s.lport core l } := rfl

@[simp] theorem State.perform_portLast (s : State) (core e : Nat) :
    s.perform (.portLast core e) = { s with portLast := Map.set 127 s.portLast core e } := rfl

@[simp] theorem State.perform_pickLast (s : State) (key l : Nat) :
    s.perform (.pickLast key l) = { s with pickLast := Map.set 127 s.pickLast key l } := rfl

@[simp] theorem State.perform_taskWait (s : State) (core : Nat) (l : List Task) :
    s.perform (.taskWait core l) = { s with taskWait := Map.set [] s.taskWait core l } := rfl

@[simp] theorem State.perform_taskNet (s : State) (l : List Task) :
    s.perform (.taskNet l) = { s with taskNet := l } := rfl

@[simp] theorem State.perform_cfgNet (s : State) (l : List Staging) :
    s.perform (.cfgNet l) = { s with cfgNet := l } := rfl

@[simp] theorem State.perform_accNet (s : State) (l : List AccWord) :
    s.perform (.accNet l) = { s with accNet := l } := rfl

@[simp] theorem State.perform_asked (s : State) (l : List (Nat × AccWord)) :
    s.perform (.asked l) = { s with asked := l } := rfl

@[simp] theorem State.perform_injLast (s : State) (core e : Nat) :
    s.perform (.injLast core e) = { s with injLast := Map.set 127 s.injLast core e } := rfl

@[simp] theorem State.perform_colls (s : State) (l : List Coll) :
    s.perform (.colls l) = { s with colls := l } := rfl

@[simp] theorem State.perform_collPeers (s : State) (l : List PeerReq) :
    s.perform (.collPeers l) = { s with collPeers := l } := rfl

@[simp] theorem State.perform_served (s : State) (core tcid : Nat) :
    s.perform (.served core tcid) = { s with served := Map.set 0 s.served core tcid } := rfl

@[simp] theorem State.perform_elem (s : State) (k : Nat) (e : Elem) :
    s.perform (.elem k e) = { s with elems := Map.set Elem.reset s.elems k e } := rfl

@[simp] theorem State.perform_pending (s : State) (l : List Access) :
    s.perform (.pending l) = { s with pending := l } := rfl

@[simp] theorem State.perform_returned (s : State) (l : List Returned) :
    s.perform (.returned l) = { s with returned := l } := rfl

@[simp] theorem State.perform_nextId (s : State) (n : Nat) :
    s.perform (.nextId n) = { s with nextId := n } := rfl

@[simp] theorem State.perform_proc (s : State) (tcid : Nat) (p : Proc) :
    s.perform (.proc tcid p) = { s with procs := Map.set Proc.reset s.procs tcid p } := rfl

@[simp] theorem State.perform_thread (s : State) (t : Nat) (x : Thread) :
    s.perform (.thread t x) = { s with threads := Map.set Thread.reset s.threads t x } := rfl

@[simp] theorem State.perform_launches (s : State) (l : List Launch) :
    s.perform (.launches l) = { s with launches := l } := rfl

@[simp] theorem State.perform_saves (s : State) (l : List Save) :
    s.perform (.saves l) = { s with saves := l } := rfl

@[simp] theorem State.perform_mgmt (s : State) (seq rix : Nat) :
    s.perform (.mgmt seq rix) = { s with mgmtSeq := seq, mgmtRix := rix } := rfl

@[simp] theorem State.perform_pool (s : State) (n : Nat) :
    s.perform (.pool n) = { s with poolNext := n } := rfl

@[simp] theorem State.perform_hostKey (s : State) (n : Nat) (v : BitVec 256) :
    s.perform (.hostKey n v) = { s with hostKeys := Map.set 0 s.hostKeys n v } := rfl

@[simp] theorem State.perform_qp (s : State) (n : Nat) (q : QpState) :
    s.perform (.qp n q) = { s with qps := Map.set .ready s.qps n q } := rfl

@[simp] theorem State.perform_route (s : State) (n : Nat) (v : BitVec 64) :
    s.perform (.route n v) = { s with routes := Map.set 0 s.routes n v } := rfl

@[simp] theorem State.perform_window (s : State) (n : Nat) (v : BitVec 256) :
    s.perform (.window n v) = { s with windows := Map.set 0 s.windows n v } := rfl

@[simp] theorem State.perform_pkgNum (s : State) (n : Nat) :
    s.perform (.pkgNum n) = { s with pkgNum := n } := rfl

@[simp] theorem State.perform_measure (s : State) (n : Nat) (v : BitVec 384) :
    s.perform (.measure n v) = { s with measures := Map.set 0 s.measures n v } := rfl

@[simp] theorem State.perform_port (s : State) (n : Nat) (p : Port) :
    s.perform (.port n p) = { s with ports := Map.set Port.reset s.ports n p } := rfl

@[simp] theorem State.perform_pause (s : State) (b : Bool) :
    s.perform (.pause b) = { s with paused := b } := rfl

@[simp] theorem State.perform_rootState (s : State) (r : Root) :
    s.perform (.rootState r) = { s with root := r } := rfl

@[simp] theorem State.perform_runPos (s : State) (n t : Nat) :
    s.perform (.runPos n t) = { s with runPos := n, turnAt := t } := rfl

@[simp] theorem State.perform_move (s : State) (key : Nat) :
    s.perform (.move key) = { s with moved := Nats.add s.moved key } := rfl

@[simp] theorem State.perform_fresh (s : State) (k : Nat) :
    s.perform (.fresh k) = { s with fresh := Nats.add s.fresh k } := rfl

@[simp] theorem State.perform_newCycle (s : State) (c : BitVec 64) :
    s.perform (.newCycle c) = { s with cycle := c, moved := [], fresh := [] } := rfl

@[simp] theorem State.perform_reply (s : State) (m : OutMsg) :
    s.perform (.reply m) = { s with replies := s.replies ++ [m] } := rfl

@[simp] theorem State.perform_send (s : State) (m : OutMsg) :
    s.perform (.send m) = { s with replies := s.replies ++ [m], ports := portsWith s.ports m.frame? } := rfl

@[simp] theorem State.perform_inputs (s : State) (l : List Instr) :
    s.perform (.inputs l) = { s with inputs := l } := rfl

@[simp] theorem State.perform_agenda (s : State) (l : List Turn) :
    s.perform (.agenda l) = { s with agenda := l } := rfl

@[simp] theorem State.perform_focus (s : State) (f : Focus) :
    s.perform (.focus f) = { s with focus := f } := rfl

@[simp] theorem State.perform_free (s : State) (n : Nat) :
    s.perform (.free n) = { s with free := n } := rfl

@[simp] theorem State.perform_proposal (s : State) (l : List Nat) :
    s.perform (.proposal l) = { s with proposal := l } := rfl

@[simp] theorem State.perform_power (s : State) (b : Bool) :
    s.perform (.power b) = { s with powered := b } := rfl

@[simp] theorem State.apply_nil (s : State) : s.apply [] = s := rfl
@[simp] theorem State.apply_cons (s : State) (e : Effect) (l : List Effect) : s.apply (e :: l) = (s.perform e).apply l := rfl

/-- Changes made one list after another. -/
@[simp] theorem State.apply_append (s : State) (k l : List Effect) : s.apply (k ++ l) = (s.apply k).apply l := by
  induction k generalizing s with
  | nil => rfl
  | cons e k ih => exact ih (s.perform e)

@[simp] theorem State.run_skip (s : State) : s.run Prog.skip = s := rfl

/-- One part after another is run one after another. -/
@[simp] theorem State.run_andThen (s : State) (p q : Prog) : s.run (p.andThen q) = (s.run p).run q := by
  simp only [State.run, Prog.andThen, State.apply_append]

@[simp] theorem State.run_seq_nil (s : State) : s.run (Prog.seq []) = s := rfl
@[simp] theorem State.run_seq_cons (s : State) (p : Prog) (l : List Prog) : s.run (Prog.seq (p :: l)) = (s.run p).run (Prog.seq l) :=
  s.run_andThen p (Prog.seq l)

/-- A property that every change keeps is kept by every list of changes. -/
theorem State.apply_keeps {P : State → Prop} (h : ∀ s e, P s → P (s.perform e)) (s : State) (l : List Effect) (hs : P s) : P (s.apply l) := by
  induction l generalizing s with
  | nil => exact hs
  | cons e l ih => exact ih _ (h s e hs)

/-- So it is kept by every part. -/
theorem State.run_keeps {P : State → Prop} (h : ∀ s e, P s → P (s.perform e)) (s : State) (p : Prog) (hs : P s) : P (s.run p) :=
  State.apply_keeps h s (p s) hs

@[simp] theorem complete_eq (p : Prog) (s : State) : complete p s = .next (s.run p) := rfl

end Sys2Proof.Machine
end

