-- ==== Sys2Proof/Laws/Canonical.lean ====
section
/-! SUPPORT. The canonical form of a state: every change keeps it. -/

namespace Sys2Proof.Machine

theorem writeBytes_wf (l : List Byte) : ∀ (m : List Host.Cell) (a : Nat), Memory.wf m = true → Memory.wf (writeBytes m a l) = true := by
  induction l with
  | nil => exact fun _ _ h => h
  | cons b l ih => exact fun m a h => ih _ _ (Map.wf_set a b h)

theorem clearRange_wf {m : List Host.Cell} (lo hi : Nat) (h : Memory.wf m = true) : Memory.wf (clearRange m lo hi) = true :=
  Map.wf_filter _ h

theorem portsWith_wf {m : Map Port} (x : Option (Nat × Frame)) (h : Map.wf Port.reset m = true) :
    Map.wf Port.reset (portsWith m x) = true := by
  unfold portsWith
  split
  · exact h
  · exact Map.wf_set _ _ h

/-- Writing bytes leaves every other address alone. -/
theorem writeBytes_other (l : List Byte) : ∀ (m : List Host.Cell) (a b : Nat), (b < a ∨ a + l.length ≤ b) →
    Map.get 0 (writeBytes m a l) b = Map.get 0 m b := by
  induction l with
  | nil => exact fun _ _ _ _ => rfl
  | cons x l ih =>
    intro m a b h
    simp only [List.length_cons] at h
    rw [writeBytes, ih _ _ _ (by omega), Map.get_set_other _ _ (by omega)]

/-- Bytes written read back. -/
theorem writeBytes_same (l : List Byte) : ∀ (m : List Host.Cell) (a i : Nat), Memory.wf m = true → (h : i < l.length) →
    Map.get 0 (writeBytes m a l) (a + i) = l[i] := by
  induction l with
  | nil => intro _ _ i _ h; simp at h
  | cons x l ih =>
    intro m a i hm h
    cases i with
    | zero =>
      simp only [writeBytes, Nat.add_zero, List.getElem_cons_zero]
      rw [writeBytes_other _ _ _ _ (.inl (by omega)), Map.get_set_same a x hm]
    | succ i =>
      have := ih (Map.set 0 m a x) (a + 1) i (Map.wf_set a x hm) (by simpa using h)
      simpa [writeBytes, Nat.add_assoc, Nat.add_comm 1 i] using this

theorem Map.get_filter {α : Type} {d : α} (m : Map α) (p : Nat × α → Bool) (a : Nat) (h : ∀ v, p (a, v) = true) :
    Map.get d (m.filter p) a = Map.get d m a := by
  induction m with
  | nil => rfl
  | cons e m ih =>
    obtain ⟨k, v⟩ := e
    by_cases hk : k = a
    · subst k; simp [Map.get, h]
    · cases hp : p (k, v) <;> simp [hp, Map.get, hk, ih]

/-- Clearing a range leaves every other address alone. -/
theorem clearRange_other (m : List Host.Cell) (lo hi b : Nat) (h : b < lo ∨ hi ≤ b) : Map.get 0 (clearRange m lo hi) b = Map.get 0 m b :=
  Map.get_filter m _ b (fun _ => by rcases h with h | h <;> simp [h])

/-- Each of the three parts of the canonical form, taken apart. -/
theorem State.canonical_iff (s : State) : s.canonical = true ↔ s.memoriesWf = true ∧ s.coresWf = true ∧ s.rootWf = true := by
  simp [State.canonical, and_assoc]

/-- Every change keeps the canonical form. -/
theorem State.perform_canonical (s : State) (e : Effect) (h : s.canonical = true) : (s.perform e).canonical = true := by
  rw [State.canonical_iff] at h ⊢
  obtain ⟨hm, hc, hr⟩ := h
  simp only [State.memoriesWf, State.coresWf, State.rootWf, Bool.and_eq_true] at hm hc hr ⊢
  cases e <;>
    simp only [State.perform, hm, hc, hr, Map.wf_set, Map.wf_filter, Map.wf_erase, writeBytes_wf, clearRange_wf, portsWith_wf, Nats.wf_filter,
      clearNats, and_self, and_true, true_and]
  split
  · exact Nats.wf_add _ hm.1.1.1.1.1.1.1.2
  · exact Nats.wf_del _ hm.1.1.1.1.1.1.1.2

theorem State.run_canonical (s : State) (p : Prog) (h : s.canonical = true) : (s.run p).canonical = true :=
  State.run_keeps State.perform_canonical s p h

end Sys2Proof.Machine
end

