-- ==== Sys2Proof/Laws/Decode.lean ====
section
/-! SUPPORT. The codec: fields packed are taken out again, so the fields of a slot, the words of a command and the two slots of a packet
come back from their bits. -/

namespace Sys2Proof

/-- Fields taken out of packed fields are the fields, each modulo its width. -/
theorem takeFields_packFields (ws vs : List Nat) (h : ws.length = vs.length) :
    takeFields ws (packFields (ws.zip vs)) = List.zipWith (fun w v => v % 2 ^ w) ws vs := by
  induction ws generalizing vs with
  | nil => rfl
  | cons w ws ih =>
    cases vs with
    | nil => cases h
    | cons v vs =>
      have p : 0 < 2 ^ w := Nat.two_pow_pos w
      simp only [List.zip_cons_cons, packFields, takeFields, List.zipWith_cons_cons]
      rw [Nat.add_mul_mod_self_left, Nat.mod_mod, Nat.add_mul_div_left _ _ p, Nat.div_eq_of_lt (Nat.mod_lt _ p), Nat.zero_add,
        ih vs (by simpa using h)]

theorem bit01_one (b : Bool) : decide (bit01 b % 2 ^ 1 = 1) = b := by cases b <;> rfl

/-- The opcode and the other fields come back from the bits of a slot (spec 08 R165). -/
theorem slotOf_slotBits (op : Nat) (f : Slot) (h : op < 256) : slotOf (slotBits op f) = (op, f) := by
  have e : takeFields slotWidths (slotBits op f) = List.zipWith (fun w v => v % 2 ^ w) slotWidths (slotValues op f) :=
    takeFields_packFields _ _ rfl
  have b (w : Nat) (x : BitVec w) : BitVec.ofNat w (x.toNat % 2 ^ w) = x := by simp
  simp only [slotOf]
  rw [e]
  simp only [slotWidths, slotValues, List.zipWith_cons_cons, List.getD_cons_zero, List.getD_cons_succ, b, bit01_one]
  rw [show op % 2 ^ 8 = op from Nat.mod_eq_of_lt h]

/-- A word of packed words. -/
theorem packFields_word (l : List Word) (n : Nat) :
    BitVec.ofNat 64 (packFields (l.map (fun w => (64, w.toNat))) / 2 ^ (64 * n)) = l.getD n 0 := by
  induction l generalizing n with
  | nil => simp [packFields]
  | cons a l ih =>
    cases n with
    | zero =>
      simp only [List.map_cons, packFields, Nat.mul_zero, Nat.pow_zero, Nat.div_one, List.getD_cons_zero]
      apply BitVec.eq_of_toNat_eq
      rw [BitVec.toNat_ofNat, Nat.add_mul_mod_self_left, Nat.mod_mod]
      exact Nat.mod_eq_of_lt a.isLt
    | succ n =>
      rw [List.map_cons, packFields, Nat.mul_succ, Nat.add_comm (64 * n), Nat.pow_add, ← Nat.div_div_eq_div_mul,
        Nat.add_mul_div_left _ _ (Nat.two_pow_pos 64), Nat.div_eq_of_lt (Nat.mod_lt _ (Nat.two_pow_pos 64)), Nat.zero_add, ih n]
      rfl

/-- The eight words come back from the bits of a command (spec 05 R104). -/
theorem commandOf_commandBits (c : Command) : commandOf (commandBits c) = c := by
  simp only [commandOf, commandBits, packFields_word]
  rfl

set_option exponentiation.threshold 600 in
/-- The words of a command fit in 512 bits. -/
theorem commandBits_lt (c : Command) : commandBits c < 2 ^ 512 := by
  have h (l : List Word) : packFields (l.map (fun w => (64, w.toNat))) < 2 ^ (64 * l.length) := by
    induction l with
    | nil => simp [packFields]
    | cons a l ih =>
      rw [List.map_cons, packFields, List.length_cons, Nat.mul_succ, Nat.pow_add]
      have := Nat.mod_lt a.toNat (Nat.two_pow_pos 64)
      have := Nat.mul_le_mul_left (2 ^ 64) (Nat.succ_le_of_lt ih)
      rw [Nat.mul_comm (2 ^ (64 * l.length))]
      omega
  exact h c.words

/-- A word of packed words, whatever stands above them. -/
theorem packFields_word_below (l : List Word) (n y : Nat) (h : n < l.length) :
    BitVec.ofNat 64 ((packFields (l.map (fun w => (64, w.toNat))) + 2 ^ (64 * l.length) * y) / 2 ^ (64 * n)) = l.getD n 0 := by
  induction l generalizing n with
  | nil => cases h
  | cons a l ih =>
    have e : packFields ((a :: l).map (fun w => (64, w.toNat))) + 2 ^ (64 * (a :: l).length) * y
        = a.toNat % 2 ^ 64 + 2 ^ 64 * (packFields (l.map (fun w => (64, w.toNat))) + 2 ^ (64 * l.length) * y) := by
      rw [List.map_cons, packFields, List.length_cons, Nat.mul_succ, Nat.add_comm (64 * l.length), Nat.pow_add, Nat.mul_add, Nat.add_assoc,
        Nat.mul_assoc]
    rw [e]
    cases n with
    | zero =>
      rw [Nat.mul_zero, Nat.pow_zero, Nat.div_one, List.getD_cons_zero]
      apply BitVec.eq_of_toNat_eq
      rw [BitVec.toNat_ofNat, Nat.add_mul_mod_self_left, Nat.mod_mod]
      exact Nat.mod_eq_of_lt a.isLt
    | succ n =>
      rw [Nat.mul_succ, Nat.add_comm (64 * n), Nat.pow_add, ← Nat.div_div_eq_div_mul, Nat.add_mul_div_left _ _ (Nat.two_pow_pos 64),
        Nat.div_eq_of_lt (Nat.mod_lt _ (Nat.two_pow_pos 64)), Nat.zero_add, ih n (Nat.lt_of_succ_lt_succ h)]
      rfl

set_option exponentiation.threshold 600 in
/-- The words of the first slot of a packet come back from the bits of both (spec 16 R368). -/
theorem commandOf_first (c : Command) (y : Nat) : commandOf (commandBits c + 2 ^ 512 * y) = c := by
  have h (n : Nat) (l : n < 8) : BitVec.ofNat 64 ((commandBits c + 2 ^ 512 * y) / 2 ^ (64 * n)) = c.words.getD n 0 :=
    packFields_word_below c.words n y l
  simp only [commandOf, h 0 (by decide), h 1 (by decide), h 2 (by decide), h 3 (by decide), h 4 (by decide), h 5 (by decide), h 6 (by decide),
    h 7 (by decide)]
  rfl

/-- The bytes of a number give it back, as far as they go (spec 00 R3). -/
theorem leNat_leBytes (n x : Nat) : leNat (leBytes n x) = x % 256 ^ n := by
  induction n generalizing x with
  | zero => simp [leBytes, leNat, Nat.mod_one]
  | succ n ih =>
    rw [leBytes, leNat, ih, BitVec.toNat_ofNat, show 256 ^ (n + 1) = 256 * 256 ^ n from Nat.pow_succ', Nat.mod_mul]

end Sys2Proof
end

