-- ==== Sys2Proof/Laws/Firing.lean ====
section
/-! SUPPORT. What a firing can do, said once: it completes, its result becomes an ERR token, it traps, it goes on, or nothing happens;
and the lanes of a lane-wise result. -/

namespace Sys2Proof.Machine

variable {f : Slot} {s : State} {fr : Fire} {guard : Fire → Slot} {ready : Fire → State → Bool} {g : Fire → State → Outc}

/-- A slot that fires makes the changes its outcome gives. -/
theorem fireProg_fires (h : Fires f guard ready s fr) : complete (fireProg f guard ready g) s = .next (s.apply (fr.settle s (g fr s))) := by
  simp [complete, State.run, fireProg, h.1, h.2]

/-- A slot that cannot fire changes nothing (spec 07 R162). -/
theorem fireProg_idle (h1 : s.fireOf f = some fr) (h2 : s.canFire fr guard ready = false) : complete (fireProg f guard ready g) s = .next s := by
  simp [complete, State.run, fireProg, h1, h2]

/-- Outside an element's turn a slot changes nothing. -/
theorem fireProg_outside (h : s.fireOf f = none) : complete (fireProg f guard ready g) s = .next s := by
  simp [complete, State.run, fireProg, h]

/-- A firing that completes. -/
theorem fireProg_done {d : Done} (h : Fires f guard ready s fr) (hd : g fr s = .done d) :
    complete (fireProg f guard ready g) s = .next (s.apply (fr.finish d s)) := by
  rw [fireProg_fires h, hd]; rfl

theorem fire_done {d : Done} (h : Fires f ownGuard always s fr) (hd : g fr s = .done d) :
    fire f g s = .next (s.apply (fr.finish d s)) := fireProg_done h hd

theorem fireWhen_done {d : Done} (h : Fires f ownGuard ready s fr) (hd : g fr s = .done d) :
    fireWhen f ready g s = .next (s.apply (fr.finish d s)) := fireProg_done h hd

/-- A firing that traps (spec 17 R394). -/
theorem fire_trap {c : Nat} {det : BitVec 128} (h : Fires f ownGuard always s fr) (hd : g fr s = .trap c det) :
    fire f g s = .next (s.apply (s.trapEffects fr.key (fr.trapInfo c det))) := by
  rw [fire, fireProg_fires h, hd]; rfl

/-- An error under EPOL = 0: the ERR token takes the place of the result (spec 06 R127). -/
theorem fire_err {c det : Nat} (h : Fires f ownGuard always s fr) (he : fr.epol = false) (hd : g fr s = .err c det) :
    fire f g s = .next (s.apply (fr.finish (fr.errDone c det) s)) := by
  rw [fire, fireProg_fires h, hd]; simp [Fire.settle, he]

/-- An error under EPOL = 1 is a trap (spec 06 R127). -/
theorem fire_err_trap {c det : Nat} (h : Fires f ownGuard always s fr) (he : fr.epol = true) (hd : g fr s = .err c det) :
    fire f g s = .next (s.apply (s.trapEffects fr.key (fr.trapInfo c (BitVec.ofNat 128 (det % 2 ^ 32))))) := by
  rw [fire, fireProg_fires h, hd]; simp [Fire.settle, he]

/-- A completed firing that counts no error and makes no change beyond its element. -/
theorem Fire.finish_plain {d : Done} (hp : d.pre = []) (he : d.errs = 0) : s.apply (fr.finish d s) = fr.landed d s := by
  simp [Fire.finish, hp, he, State.countErr, Fire.landed]

/-- With changes made first. -/
theorem Fire.finish_pre {d : Done} (he : d.errs = 0) : s.apply (fr.finish d s) = fr.landed d (s.apply d.pre) := by
  simp [Fire.finish, he, State.countErr, Fire.landed]

theorem fire_lands {d : Done} (h : Fires f ownGuard always s fr) (hd : g fr s = .done d) (hp : d.pre = []) (he : d.errs = 0) :
    fire f g s = .next (fr.landed d s) := by rw [fire_done h hd, Fire.finish_plain hp he]

theorem fireWhen_lands {d : Done} (h : Fires f ownGuard ready s fr) (hd : g fr s = .done d) (hp : d.pre = []) (he : d.errs = 0) :
    fireWhen f ready g s = .next (fr.landed d s) := by rw [fireWhen_done h hd, Fire.finish_plain hp he]

/-- Without rounding the generator stands still, and each lane is what its function gives. -/
theorem laneLoop_noStep (masks : Bool) (a b c : Option Opnd) (fn : LaneIn → BitVec 32 → Nat × Bool) (l : List Nat) (r : BitVec 32) :
    laneLoop fr masks false a b c fn l r =
      (l.map (fun i => if fr.active masks i then fn (laneIn a b c i) r
        else if fr.zeroing then (0, false) else ((laneIn a b c i).a, (laneIn a b c i).pa)), r) := by
  induction l with
  | nil => rfl
  | cons i l ih =>
    simp only [laneLoop, Bool.false_and, List.map_cons]
    split <;> simp [*]

/-- The result of a lane-wise instruction that does not round, once widths and lengths agree. -/
theorem Fire.laneWise_noStep {a b c : Option Opnd} {masks : Bool} {fn : LaneIn → BitVec 32 → Nat × Bool}
    {k : List (Nat × Bool) → Packet → Done → Outc} {n : Nat}
    (hw : badWidth (fmtLw fr.fmt) (optList [a, b, c]) = none) (hl : outLen fr.w (optList [a, b, c]) = some n) :
    fr.laneWise a b c masks false fn k =
      (let l := (List.range n).map (fun i => if fr.active masks i then fn (laneIn a b c i) fr.e.rng
        else if fr.zeroing then (0, false) else ((laneIn a b c i).a, (laneIn a b c i).pa))
       k l (fr.pack a l) (fr.result (fr.pack a l))) := by
  simp only [Fire.laneWise, Fire.checked, hw, hl, laneLoop_noStep]
  rfl

/-- The same with rounding: the lanes in order, the generator stepping under SR. -/
theorem Fire.laneWise_ok {a b c : Option Opnd} {masks steps : Bool} {fn : LaneIn → BitVec 32 → Nat × Bool}
    {k : List (Nat × Bool) → Packet → Done → Outc} {n : Nat}
    (hw : badWidth (fmtLw fr.fmt) (optList [a, b, c]) = none) (hl : outLen fr.w (optList [a, b, c]) = some n) :
    fr.laneWise a b c masks steps fn k =
      (let q := laneLoop fr masks steps a b c fn (List.range n) fr.e.rng
       k q.1 (fr.pack a q.1) { fr.result (fr.pack a q.1) with e := { fr.e with rng := q.2 } }) := by
  simp only [Fire.laneWise, Fire.checked, hw, hl]
  rfl

end Sys2Proof.Machine
end

