-- ==== Sys2Proof/Laws/PerInstr.lean ====
section
/-! SUPPORT. The family Encoding: of each instruction, what its words say it is. One lemma for each constructor of Instr. -/

set_option Elab.async false

namespace Sys2Proof.Laws

/-- A mode that a row fixes stands in the MOD bits of every slot that breaks no check (spec 08 R168). -/
theorem slotFaults_mode {r : EncRow} {f : Slot} (h : slotFaults r f = []) : f.md.toNat &&& r.fixMask = r.fixVal := by
  have n {a b : List Nat} (h : a ++ b = []) : a = [] ∧ b = [] := List.append_eq_nil_iff.mp h
  have m : failAt (decide (f.md.toNat &&& r.fixMask ≠ r.fixVal)) 76 = [] := (n (n (n (n (n (n (n (n h).1).1).2).1).1).1).1).2
  by_contra c
  simp [failAt, c] at m

/-- A slot that breaks no check is valid (spec 08 R173). -/
theorem slotFaults_valid {r : EncRow} {f : Slot} (h : slotFaults r f = []) : f.val = true := by
  have n {a b : List Nat} (h : a ++ b = []) : a = [] ∧ b = [] := List.append_eq_nil_iff.mp h
  have m : failAt (!f.val) 39 = [] := (n (n (n h).1).1).1
  cases v : f.val <;> simp [failAt, v] at m ⊢

/-- The MOD bits that a mask of one or two bits selects. -/
theorem mode_one {f : Slot} {n : Nat} (h : f.md.toNat &&& 1 = n) : f.md.toNat % 2 = n := by rw [← h, Nat.and_one_is_mod]
theorem mode_three {f : Slot} {n : Nat} (h : f.md.toNat &&& 3 = n) : f.md.toNat % 4 = n := by
  rw [← h]; exact (Nat.and_two_pow_sub_one_eq_mod f.md.toNat 2).symm

/-- What the words of an instruction say: the opcode and the mode bits of its row name it, whatever its other fields; a command carries the
opcode and path of its constructor, a packet the type, a management packet the operation. -/
def Encoding.Statement (i : Instr) : Prop :=
  (∀ f r, i.slot = some f → i.encRow = some r → slotFaults r f = [] → instrOf r.op f = some i ∧ r.op < 256)
  ∧ (∀ o p c, i.commandCode = some (o, p, c) → i.wellFormed = true → decodeCommand c = .ok i)
  ∧ (∀ t p, i.queueCode = some (t, p) → i.wellFormed = true → decodeQueue p = .ok i)
  ∧ (∀ o m, i.mgmtCode = some (o, m) → i.wellFormed = true → decodeManagement m = i)

/-- The statement of an instruction that is a slot. -/
theorem Encoding.slot {i : Instr} (hc : i.commandCode = none) (hq : i.queueCode = none) (hm : i.mgmtCode = none)
    (h : ∀ f r, i.slot = some f → i.encRow = some r → slotFaults r f = [] → instrOf r.op f = some i ∧ r.op < 256) : Encoding.Statement i :=
  ⟨h, fun _ _ _ e => by simp [hc] at e, fun _ _ e => by simp [hq] at e, fun _ _ e => by simp [hm] at e⟩

/-- The statement of an instruction that is a command. -/
theorem Encoding.command {i : Instr} (hs : i.slot = none) (hq : i.queueCode = none) (hm : i.mgmtCode = none)
    (h : ∀ o p c, i.commandCode = some (o, p, c) → i.wellFormed = true → decodeCommand c = .ok i) : Encoding.Statement i :=
  ⟨fun _ _ e => by simp [hs] at e, h, fun _ _ e => by simp [hq] at e, fun _ _ e => by simp [hm] at e⟩

/-- The statement of an instruction that is a queue packet. -/
theorem Encoding.packet {i : Instr} (hs : i.slot = none) (hc : i.commandCode = none) (hm : i.mgmtCode = none)
    (h : ∀ t p, i.queueCode = some (t, p) → i.wellFormed = true → decodeQueue p = .ok i) : Encoding.Statement i :=
  ⟨fun _ _ e => by simp [hs] at e, fun _ _ _ e => by simp [hc] at e, h, fun _ _ e => by simp [hm] at e⟩

/-- The statement of an instruction that is a management packet. -/
theorem Encoding.management {i : Instr} (hs : i.slot = none) (hc : i.commandCode = none) (hq : i.queueCode = none)
    (h : ∀ o m, i.mgmtCode = some (o, m) → i.wellFormed = true → decodeManagement m = i) : Encoding.Statement i :=
  ⟨fun _ _ e => by simp [hs] at e, fun _ _ _ e => by simp [hc] at e, fun _ _ e => by simp [hq] at e, h⟩

/-- The statement of an event, which has no words. -/
theorem Encoding.event {i : Instr} (hs : i.slot = none) (hc : i.commandCode = none) (hq : i.queueCode = none) (hm : i.mgmtCode = none) :
    Encoding.Statement i :=
  Encoding.slot hc hq hm (fun _ _ e => by simp [hs] at e)

/-- The opcode of a well-formed command is that of its constructor. -/
theorem commandHeader_opc {o p : Nat} {c : Command} (h : commandHeaderOk o p c = true) : wfield c.w0 0 8 = o := by
  simp only [commandHeaderOk, Bool.and_eq_true, decide_eq_true_eq] at h; exact h.1.1
theorem queuePacket_type {t : Nat} {p : QPacket} (h : queuePacketOk t p = true) : wfield p.first.w0 0 8 = t := by
  simp only [queuePacketOk, Bool.and_eq_true, decide_eq_true_eq] at h; exact h.1.1.1.1.1.1
theorem mgmtPacket_op {o : Nat} {m : MgmtPacket} (h : mgmtPacketOk o m = true) : wfield m.slot.w0 0 8 = o := by
  simp only [mgmtPacketOk, Bool.and_eq_true, decide_eq_true_eq] at h
  tauto

theorem Encoding.nop (f : Slot) : Encoding.Statement (.nop f) :=
  Encoding.slot rfl rfl rfl (fun _ _ hf hr _ => by cases hf; cases hr; exact ⟨rfl, by decide⟩)
theorem Encoding.add (f : Slot) : Encoding.Statement (.add f) :=
  Encoding.slot rfl rfl rfl (fun _ _ hf hr _ => by cases hf; cases hr; exact ⟨rfl, by decide⟩)
theorem Encoding.sub (f : Slot) : Encoding.Statement (.sub f) :=
  Encoding.slot rfl rfl rfl (fun _ _ hf hr _ => by cases hf; cases hr; exact ⟨rfl, by decide⟩)
theorem Encoding.adds (f : Slot) : Encoding.Statement (.adds f) :=
  Encoding.slot rfl rfl rfl (fun _ _ hf hr _ => by cases hf; cases hr; exact ⟨rfl, by decide⟩)
theorem Encoding.subs (f : Slot) : Encoding.Statement (.subs f) :=
  Encoding.slot rfl rfl rfl (fun _ _ hf hr _ => by cases hf; cases hr; exact ⟨rfl, by decide⟩)
theorem Encoding.mul (f : Slot) : Encoding.Statement (.mul f) :=
  Encoding.slot rfl rfl rfl (fun _ _ hf hr _ => by cases hf; cases hr; exact ⟨rfl, by decide⟩)
theorem Encoding.mulh (f : Slot) : Encoding.Statement (.mulh f) :=
  Encoding.slot rfl rfl rfl (fun _ _ hf hr _ => by cases hf; cases hr; exact ⟨rfl, by decide⟩)
theorem Encoding.mulhn (f : Slot) : Encoding.Statement (.mulhn f) :=
  Encoding.slot rfl rfl rfl (fun _ _ hf hr _ => by cases hf; cases hr; exact ⟨rfl, by decide⟩)
theorem Encoding.madd (f : Slot) : Encoding.Statement (.madd f) :=
  Encoding.slot rfl rfl rfl (fun _ _ hf hr _ => by cases hf; cases hr; exact ⟨rfl, by decide⟩)
theorem Encoding.abs (f : Slot) : Encoding.Statement (.abs f) :=
  Encoding.slot rfl rfl rfl (fun _ _ hf hr _ => by cases hf; cases hr; exact ⟨rfl, by decide⟩)
theorem Encoding.neg (f : Slot) : Encoding.Statement (.neg f) :=
  Encoding.slot rfl rfl rfl (fun _ _ hf hr _ => by cases hf; cases hr; exact ⟨rfl, by decide⟩)
theorem Encoding.min (f : Slot) : Encoding.Statement (.min f) :=
  Encoding.slot rfl rfl rfl (fun _ _ hf hr _ => by cases hf; cases hr; exact ⟨rfl, by decide⟩)
theorem Encoding.max (f : Slot) : Encoding.Statement (.max f) :=
  Encoding.slot rfl rfl rfl (fun _ _ hf hr _ => by cases hf; cases hr; exact ⟨rfl, by decide⟩)
theorem Encoding.minn (f : Slot) : Encoding.Statement (.minn f) :=
  Encoding.slot rfl rfl rfl (fun _ _ hf hr _ => by cases hf; cases hr; exact ⟨rfl, by decide⟩)
theorem Encoding.maxn (f : Slot) : Encoding.Statement (.maxn f) :=
  Encoding.slot rfl rfl rfl (fun _ _ hf hr _ => by cases hf; cases hr; exact ⟨rfl, by decide⟩)
theorem Encoding.and (f : Slot) : Encoding.Statement (.and f) :=
  Encoding.slot rfl rfl rfl (fun _ _ hf hr _ => by cases hf; cases hr; exact ⟨rfl, by decide⟩)
theorem Encoding.or (f : Slot) : Encoding.Statement (.or f) :=
  Encoding.slot rfl rfl rfl (fun _ _ hf hr _ => by cases hf; cases hr; exact ⟨rfl, by decide⟩)
theorem Encoding.xor (f : Slot) : Encoding.Statement (.xor f) :=
  Encoding.slot rfl rfl rfl (fun _ _ hf hr _ => by cases hf; cases hr; exact ⟨rfl, by decide⟩)
theorem Encoding.andn (f : Slot) : Encoding.Statement (.andn f) :=
  Encoding.slot rfl rfl rfl (fun _ _ hf hr _ => by cases hf; cases hr; exact ⟨rfl, by decide⟩)
theorem Encoding.shl (f : Slot) : Encoding.Statement (.shl f) :=
  Encoding.slot rfl rfl rfl (fun _ _ hf hr _ => by cases hf; cases hr; exact ⟨rfl, by decide⟩)
theorem Encoding.shr (f : Slot) : Encoding.Statement (.shr f) :=
  Encoding.slot rfl rfl rfl (fun _ _ hf hr _ => by cases hf; cases hr; exact ⟨rfl, by decide⟩)
theorem Encoding.sha (f : Slot) : Encoding.Statement (.sha f) :=
  Encoding.slot rfl rfl rfl (fun _ _ hf hr _ => by cases hf; cases hr; exact ⟨rfl, by decide⟩)
theorem Encoding.rol (f : Slot) : Encoding.Statement (.rol f) :=
  Encoding.slot rfl rfl rfl (fun _ _ hf hr _ => by cases hf; cases hr; exact ⟨rfl, by decide⟩)
theorem Encoding.clz (f : Slot) : Encoding.Statement (.clz f) :=
  Encoding.slot rfl rfl rfl (fun _ _ hf hr _ => by cases hf; cases hr; exact ⟨rfl, by decide⟩)
theorem Encoding.ctz (f : Slot) : Encoding.Statement (.ctz f) :=
  Encoding.slot rfl rfl rfl (fun _ _ hf hr _ => by cases hf; cases hr; exact ⟨rfl, by decide⟩)
theorem Encoding.popc (f : Slot) : Encoding.Statement (.popc f) :=
  Encoding.slot rfl rfl rfl (fun _ _ hf hr _ => by cases hf; cases hr; exact ⟨rfl, by decide⟩)
theorem Encoding.brev (f : Slot) : Encoding.Statement (.brev f) :=
  Encoding.slot rfl rfl rfl (fun _ _ hf hr _ => by cases hf; cases hr; exact ⟨rfl, by decide⟩)
theorem Encoding.biti (f : Slot) : Encoding.Statement (.biti f) :=
  Encoding.slot rfl rfl rfl (fun _ _ hf hr _ => by cases hf; cases hr; exact ⟨rfl, by decide⟩)
theorem Encoding.bitd (f : Slot) : Encoding.Statement (.bitd f) :=
  Encoding.slot rfl rfl rfl (fun _ _ hf hr _ => by cases hf; cases hr; exact ⟨rfl, by decide⟩)
theorem Encoding.bfx (f : Slot) : Encoding.Statement (.bfx f) :=
  Encoding.slot rfl rfl rfl (fun _ _ hf hr _ => by cases hf; cases hr; exact ⟨rfl, by decide⟩)
theorem Encoding.bfi (f : Slot) : Encoding.Statement (.bfi f) :=
  Encoding.slot rfl rfl rfl (fun _ _ hf hr _ => by cases hf; cases hr; exact ⟨rfl, by decide⟩)
theorem Encoding.cmpeq (f : Slot) : Encoding.Statement (.cmpeq f) :=
  Encoding.slot rfl rfl rfl (fun _ _ hf hr _ => by cases hf; cases hr; exact ⟨rfl, by decide⟩)
theorem Encoding.cmpne (f : Slot) : Encoding.Statement (.cmpne f) :=
  Encoding.slot rfl rfl rfl (fun _ _ hf hr _ => by cases hf; cases hr; exact ⟨rfl, by decide⟩)
theorem Encoding.cmplt (f : Slot) : Encoding.Statement (.cmplt f) :=
  Encoding.slot rfl rfl rfl (fun _ _ hf hr _ => by cases hf; cases hr; exact ⟨rfl, by decide⟩)
theorem Encoding.cmpltn (f : Slot) : Encoding.Statement (.cmpltn f) :=
  Encoding.slot rfl rfl rfl (fun _ _ hf hr _ => by cases hf; cases hr; exact ⟨rfl, by decide⟩)
theorem Encoding.cmple (f : Slot) : Encoding.Statement (.cmple f) :=
  Encoding.slot rfl rfl rfl (fun _ _ hf hr _ => by cases hf; cases hr; exact ⟨rfl, by decide⟩)
theorem Encoding.cmplen (f : Slot) : Encoding.Statement (.cmplen f) :=
  Encoding.slot rfl rfl rfl (fun _ _ hf hr _ => by cases hf; cases hr; exact ⟨rfl, by decide⟩)
theorem Encoding.sel (f : Slot) : Encoding.Statement (.sel f) := Encoding.slot rfl rfl rfl (fun _ _ hf hr h => by
    cases hf; cases hr; exact ⟨by simp [instrOf, mode_one (slotFaults_mode h)], by decide⟩)
theorem Encoding.selLane (f : Slot) : Encoding.Statement (.selLane f) := Encoding.slot rfl rfl rfl (fun _ _ hf hr h => by
    cases hf; cases hr; exact ⟨by simp [instrOf, mode_one (slotFaults_mode h)], by decide⟩)
theorem Encoding.mov (f : Slot) : Encoding.Statement (.mov f) :=
  Encoding.slot rfl rfl rfl (fun _ _ hf hr _ => by cases hf; cases hr; exact ⟨rfl, by decide⟩)
theorem Encoding.movi (f : Slot) : Encoding.Statement (.movi f) :=
  Encoding.slot rfl rfl rfl (fun _ _ hf hr _ => by cases hf; cases hr; exact ⟨rfl, by decide⟩)
theorem Encoding.movh (f : Slot) : Encoding.Statement (.movh f) :=
  Encoding.slot rfl rfl rfl (fun _ _ hf hr _ => by cases hf; cases hr; exact ⟨rfl, by decide⟩)
theorem Encoding.movx (f : Slot) : Encoding.Statement (.movx f) := Encoding.slot rfl rfl rfl (fun _ _ hf hr h => by
    cases hf; cases hr; exact ⟨by simp [instrOf, mode_one (slotFaults_mode h)], by decide⟩)
theorem Encoding.movxLane (f : Slot) : Encoding.Statement (.movxLane f) := Encoding.slot rfl rfl rfl (fun _ _ hf hr h => by
    cases hf; cases hr; exact ⟨by simp [instrOf, mode_one (slotFaults_mode h)], by decide⟩)
theorem Encoding.movxw (f : Slot) : Encoding.Statement (.movxw f) := Encoding.slot rfl rfl rfl (fun _ _ hf hr h => by
    cases hf; cases hr; exact ⟨by simp [instrOf, mode_one (slotFaults_mode h)], by decide⟩)
theorem Encoding.movxwLane (f : Slot) : Encoding.Statement (.movxwLane f) := Encoding.slot rfl rfl rfl (fun _ _ hf hr h => by
    cases hf; cases hr; exact ⟨by simp [instrOf, mode_one (slotFaults_mode h)], by decide⟩)
theorem Encoding.shuf (f : Slot) : Encoding.Statement (.shuf f) :=
  Encoding.slot rfl rfl rfl (fun _ _ hf hr _ => by cases hf; cases hr; exact ⟨rfl, by decide⟩)
theorem Encoding.bcast (f : Slot) : Encoding.Statement (.bcast f) :=
  Encoding.slot rfl rfl rfl (fun _ _ hf hr _ => by cases hf; cases hr; exact ⟨rfl, by decide⟩)
theorem Encoding.extl (f : Slot) : Encoding.Statement (.extl f) :=
  Encoding.slot rfl rfl rfl (fun _ _ hf hr _ => by cases hf; cases hr; exact ⟨rfl, by decide⟩)
theorem Encoding.insl (f : Slot) : Encoding.Statement (.insl f) :=
  Encoding.slot rfl rfl rfl (fun _ _ hf hr _ => by cases hf; cases hr; exact ⟨rfl, by decide⟩)
theorem Encoding.pack (f : Slot) : Encoding.Statement (.pack f) :=
  Encoding.slot rfl rfl rfl (fun _ _ hf hr _ => by cases hf; cases hr; exact ⟨rfl, by decide⟩)
theorem Encoding.unpk (f : Slot) : Encoding.Statement (.unpk f) :=
  Encoding.slot rfl rfl rfl (fun _ _ hf hr _ => by cases hf; cases hr; exact ⟨rfl, by decide⟩)
theorem Encoding.reda (f : Slot) : Encoding.Statement (.reda f) :=
  Encoding.slot rfl rfl rfl (fun _ _ hf hr _ => by cases hf; cases hr; exact ⟨rfl, by decide⟩)
theorem Encoding.redm (f : Slot) : Encoding.Statement (.redm f) :=
  Encoding.slot rfl rfl rfl (fun _ _ hf hr _ => by cases hf; cases hr; exact ⟨rfl, by decide⟩)
theorem Encoding.scana (f : Slot) : Encoding.Statement (.scana f) :=
  Encoding.slot rfl rfl rfl (fun _ _ hf hr _ => by cases hf; cases hr; exact ⟨rfl, by decide⟩)
theorem Encoding.len (f : Slot) : Encoding.Statement (.len f) :=
  Encoding.slot rfl rfl rfl (fun _ _ hf hr _ => by cases hf; cases hr; exact ⟨rfl, by decide⟩)
theorem Encoding.setlen (f : Slot) : Encoding.Statement (.setlen f) :=
  Encoding.slot rfl rfl rfl (fun _ _ hf hr _ => by cases hf; cases hr; exact ⟨rfl, by decide⟩)
theorem Encoding.fadd (f : Slot) : Encoding.Statement (.fadd f) :=
  Encoding.slot rfl rfl rfl (fun _ _ hf hr _ => by cases hf; cases hr; exact ⟨rfl, by decide⟩)
theorem Encoding.fsub (f : Slot) : Encoding.Statement (.fsub f) :=
  Encoding.slot rfl rfl rfl (fun _ _ hf hr _ => by cases hf; cases hr; exact ⟨rfl, by decide⟩)
theorem Encoding.fmul (f : Slot) : Encoding.Statement (.fmul f) :=
  Encoding.slot rfl rfl rfl (fun _ _ hf hr _ => by cases hf; cases hr; exact ⟨rfl, by decide⟩)
theorem Encoding.ffma (f : Slot) : Encoding.Statement (.ffma f) :=
  Encoding.slot rfl rfl rfl (fun _ _ hf hr _ => by cases hf; cases hr; exact ⟨rfl, by decide⟩)
theorem Encoding.ffms (f : Slot) : Encoding.Statement (.ffms f) :=
  Encoding.slot rfl rfl rfl (fun _ _ hf hr _ => by cases hf; cases hr; exact ⟨rfl, by decide⟩)
theorem Encoding.fnma (f : Slot) : Encoding.Statement (.fnma f) :=
  Encoding.slot rfl rfl rfl (fun _ _ hf hr _ => by cases hf; cases hr; exact ⟨rfl, by decide⟩)
theorem Encoding.fmin (f : Slot) : Encoding.Statement (.fmin f) :=
  Encoding.slot rfl rfl rfl (fun _ _ hf hr _ => by cases hf; cases hr; exact ⟨rfl, by decide⟩)
theorem Encoding.fmax (f : Slot) : Encoding.Statement (.fmax f) :=
  Encoding.slot rfl rfl rfl (fun _ _ hf hr _ => by cases hf; cases hr; exact ⟨rfl, by decide⟩)
theorem Encoding.fabs (f : Slot) : Encoding.Statement (.fabs f) :=
  Encoding.slot rfl rfl rfl (fun _ _ hf hr _ => by cases hf; cases hr; exact ⟨rfl, by decide⟩)
theorem Encoding.fneg (f : Slot) : Encoding.Statement (.fneg f) :=
  Encoding.slot rfl rfl rfl (fun _ _ hf hr _ => by cases hf; cases hr; exact ⟨rfl, by decide⟩)
theorem Encoding.fcpys (f : Slot) : Encoding.Statement (.fcpys f) :=
  Encoding.slot rfl rfl rfl (fun _ _ hf hr _ => by cases hf; cases hr; exact ⟨rfl, by decide⟩)
theorem Encoding.fcmpeq (f : Slot) : Encoding.Statement (.fcmpeq f) :=
  Encoding.slot rfl rfl rfl (fun _ _ hf hr _ => by cases hf; cases hr; exact ⟨rfl, by decide⟩)
theorem Encoding.fcmplt (f : Slot) : Encoding.Statement (.fcmplt f) :=
  Encoding.slot rfl rfl rfl (fun _ _ hf hr _ => by cases hf; cases hr; exact ⟨rfl, by decide⟩)
theorem Encoding.fcmple (f : Slot) : Encoding.Statement (.fcmple f) :=
  Encoding.slot rfl rfl rfl (fun _ _ hf hr _ => by cases hf; cases hr; exact ⟨rfl, by decide⟩)
theorem Encoding.fcmpun (f : Slot) : Encoding.Statement (.fcmpun f) :=
  Encoding.slot rfl rfl rfl (fun _ _ hf hr _ => by cases hf; cases hr; exact ⟨rfl, by decide⟩)
theorem Encoding.fclass (f : Slot) : Encoding.Statement (.fclass f) :=
  Encoding.slot rfl rfl rfl (fun _ _ hf hr _ => by cases hf; cases hr; exact ⟨rfl, by decide⟩)
theorem Encoding.fcvt (f : Slot) : Encoding.Statement (.fcvt f) :=
  Encoding.slot rfl rfl rfl (fun _ _ hf hr _ => by cases hf; cases hr; exact ⟨rfl, by decide⟩)
theorem Encoding.fcvti (f : Slot) : Encoding.Statement (.fcvti f) :=
  Encoding.slot rfl rfl rfl (fun _ _ hf hr _ => by cases hf; cases hr; exact ⟨rfl, by decide⟩)
theorem Encoding.icvtf (f : Slot) : Encoding.Statement (.icvtf f) :=
  Encoding.slot rfl rfl rfl (fun _ _ hf hr _ => by cases hf; cases hr; exact ⟨rfl, by decide⟩)
theorem Encoding.frnd (f : Slot) : Encoding.Statement (.frnd f) :=
  Encoding.slot rfl rfl rfl (fun _ _ hf hr _ => by cases hf; cases hr; exact ⟨rfl, by decide⟩)
theorem Encoding.frcpe (f : Slot) : Encoding.Statement (.frcpe f) :=
  Encoding.slot rfl rfl rfl (fun _ _ hf hr _ => by cases hf; cases hr; exact ⟨rfl, by decide⟩)
theorem Encoding.frsqe (f : Slot) : Encoding.Statement (.frsqe f) :=
  Encoding.slot rfl rfl rfl (fun _ _ hf hr _ => by cases hf; cases hr; exact ⟨rfl, by decide⟩)
theorem Encoding.fscl (f : Slot) : Encoding.Statement (.fscl f) :=
  Encoding.slot rfl rfl rfl (fun _ _ hf hr _ => by cases hf; cases hr; exact ⟨rfl, by decide⟩)
theorem Encoding.fexpt (f : Slot) : Encoding.Statement (.fexpt f) :=
  Encoding.slot rfl rfl rfl (fun _ _ hf hr _ => by cases hf; cases hr; exact ⟨rfl, by decide⟩)
theorem Encoding.freda (f : Slot) : Encoding.Statement (.freda f) :=
  Encoding.slot rfl rfl rfl (fun _ _ hf hr _ => by cases hf; cases hr; exact ⟨rfl, by decide⟩)
theorem Encoding.fdot (f : Slot) : Encoding.Statement (.fdot f) :=
  Encoding.slot rfl rfl rfl (fun _ _ hf hr _ => by cases hf; cases hr; exact ⟨rfl, by decide⟩)
theorem Encoding.falgn (f : Slot) : Encoding.Statement (.falgn f) := Encoding.slot rfl rfl rfl (fun _ _ hf hr h => by
    cases hf; cases hr; exact ⟨by simp [instrOf, mode_three (slotFaults_mode h)], by decide⟩)
theorem Encoding.falgnExp (f : Slot) : Encoding.Statement (.falgnExp f) := Encoding.slot rfl rfl rfl (fun _ _ hf hr h => by
    cases hf; cases hr; exact ⟨by simp [instrOf, mode_three (slotFaults_mode h)], by decide⟩)
theorem Encoding.falgnHdr (f : Slot) : Encoding.Statement (.falgnHdr f) := Encoding.slot rfl rfl rfl (fun _ _ hf hr h => by
    cases hf; cases hr; exact ⟨by simp [instrOf, mode_three (slotFaults_mode h)], by decide⟩)
theorem Encoding.lute (f : Slot) : Encoding.Statement (.lute f) :=
  Encoding.slot rfl rfl rfl (fun _ _ hf hr _ => by cases hf; cases hr; exact ⟨rfl, by decide⟩)
theorem Encoding.luti (f : Slot) : Encoding.Statement (.luti f) :=
  Encoding.slot rfl rfl rfl (fun _ _ hf hr _ => by cases hf; cases hr; exact ⟨rfl, by decide⟩)
theorem Encoding.lutw (f : Slot) : Encoding.Statement (.lutw f) :=
  Encoding.slot rfl rfl rfl (fun _ _ hf hr _ => by cases hf; cases hr; exact ⟨rfl, by decide⟩)
theorem Encoding.rred (f : Slot) : Encoding.Statement (.rred f) :=
  Encoding.slot rfl rfl rfl (fun _ _ hf hr _ => by cases hf; cases hr; exact ⟨rfl, by decide⟩)
theorem Encoding.rcomb (f : Slot) : Encoding.Statement (.rcomb f) :=
  Encoding.slot rfl rfl rfl (fun _ _ hf hr _ => by cases hf; cases hr; exact ⟨rfl, by decide⟩)
theorem Encoding.lclamp (f : Slot) : Encoding.Statement (.lclamp f) :=
  Encoding.slot rfl rfl rfl (fun _ _ hf hr _ => by cases hf; cases hr; exact ⟨rfl, by decide⟩)
theorem Encoding.pass (f : Slot) : Encoding.Statement (.pass f) :=
  Encoding.slot rfl rfl rfl (fun _ _ hf hr _ => by cases hf; cases hr; exact ⟨rfl, by decide⟩)
theorem Encoding.drop (f : Slot) : Encoding.Statement (.drop f) :=
  Encoding.slot rfl rfl rfl (fun _ _ hf hr _ => by cases hf; cases hr; exact ⟨rfl, by decide⟩)
theorem Encoding.emit (f : Slot) : Encoding.Statement (.emit f) :=
  Encoding.slot rfl rfl rfl (fun _ _ hf hr _ => by cases hf; cases hr; exact ⟨rfl, by decide⟩)
theorem Encoding.eose (f : Slot) : Encoding.Statement (.eose f) :=
  Encoding.slot rfl rfl rfl (fun _ _ hf hr _ => by cases hf; cases hr; exact ⟨rfl, by decide⟩)
theorem Encoding.steer (f : Slot) : Encoding.Statement (.steer f) := Encoding.slot rfl rfl rfl (fun _ _ hf hr h => by
    cases hf; cases hr; exact ⟨by simp [instrOf, mode_one (slotFaults_mode h)], by decide⟩)
theorem Encoding.steerData (f : Slot) : Encoding.Statement (.steerData f) := Encoding.slot rfl rfl rfl (fun _ _ hf hr h => by
    cases hf; cases hr; exact ⟨by simp [instrOf, mode_one (slotFaults_mode h)], by decide⟩)
theorem Encoding.merge (f : Slot) : Encoding.Statement (.merge f) :=
  Encoding.slot rfl rfl rfl (fun _ _ hf hr _ => by cases hf; cases hr; exact ⟨rfl, by decide⟩)
theorem Encoding.split (f : Slot) : Encoding.Statement (.split f) :=
  Encoding.slot rfl rfl rfl (fun _ _ hf hr _ => by cases hf; cases hr; exact ⟨rfl, by decide⟩)
theorem Encoding.carry (f : Slot) : Encoding.Statement (.carry f) :=
  Encoding.slot rfl rfl rfl (fun _ _ hf hr _ => by cases hf; cases hr; exact ⟨rfl, by decide⟩)
theorem Encoding.delay (f : Slot) : Encoding.Statement (.delay f) :=
  Encoding.slot rfl rfl rfl (fun _ _ hf hr _ => by cases hf; cases hr; exact ⟨rfl, by decide⟩)
theorem Encoding.delta (f : Slot) : Encoding.Statement (.delta f) :=
  Encoding.slot rfl rfl rfl (fun _ _ hf hr _ => by cases hf; cases hr; exact ⟨rfl, by decide⟩)
theorem Encoding.count (f : Slot) : Encoding.Statement (.count f) :=
  Encoding.slot rfl rfl rfl (fun _ _ hf hr _ => by cases hf; cases hr; exact ⟨rfl, by decide⟩)
theorem Encoding.sink (f : Slot) : Encoding.Statement (.sink f) :=
  Encoding.slot rfl rfl rfl (fun _ _ hf hr _ => by cases hf; cases hr; exact ⟨rfl, by decide⟩)
theorem Encoding.tsend (f : Slot) : Encoding.Statement (.tsend f) := Encoding.slot rfl rfl rfl (fun _ _ hf hr h => by
    cases hf; cases hr; exact ⟨by simp [instrOf, mode_one (slotFaults_mode h)], by decide⟩)
theorem Encoding.tsendFar (f : Slot) : Encoding.Statement (.tsendFar f) := Encoding.slot rfl rfl rfl (fun _ _ hf hr h => by
    cases hf; cases hr; exact ⟨by simp [instrOf, mode_one (slotFaults_mode h)], by decide⟩)
theorem Encoding.cfgk (f : Slot) : Encoding.Statement (.cfgk f) := Encoding.slot rfl rfl rfl (fun _ _ hf hr h => by
    cases hf; cases hr; exact ⟨by simp [instrOf, mode_one (slotFaults_mode h)], by decide⟩)
theorem Encoding.cfgkFar (f : Slot) : Encoding.Statement (.cfgkFar f) := Encoding.slot rfl rfl rfl (fun _ _ hf hr h => by
    cases hf; cases hr; exact ⟨by simp [instrOf, mode_one (slotFaults_mode h)], by decide⟩)
theorem Encoding.mark (f : Slot) : Encoding.Statement (.mark f) :=
  Encoding.slot rfl rfl rfl (fun _ _ hf hr _ => by cases hf; cases hr; exact ⟨rfl, by decide⟩)
theorem Encoding.errt (f : Slot) : Encoding.Statement (.errt f) := Encoding.slot rfl rfl rfl (fun _ _ hf hr h => by
    cases hf; cases hr; exact ⟨by simp [instrOf, mode_one (slotFaults_mode h)], by decide⟩)
theorem Encoding.errtMake (f : Slot) : Encoding.Statement (.errtMake f) := Encoding.slot rfl rfl rfl (fun _ _ hf hr h => by
    cases hf; cases hr; exact ⟨by simp [instrOf, mode_one (slotFaults_mode h)], by decide⟩)
theorem Encoding.repair (f : Slot) : Encoding.Statement (.repair f) := Encoding.slot rfl rfl rfl (fun _ _ hf hr h => by
    cases hf; cases hr; exact ⟨by simp [instrOf, mode_one (slotFaults_mode h)], by decide⟩)
theorem Encoding.repairBack (f : Slot) : Encoding.Statement (.repairBack f) := Encoding.slot rfl rfl rfl (fun _ _ hf hr h => by
    cases hf; cases hr; exact ⟨by simp [instrOf, mode_one (slotFaults_mode h)], by decide⟩)
theorem Encoding.trap (f : Slot) : Encoding.Statement (.trap f) :=
  Encoding.slot rfl rfl rfl (fun _ _ hf hr _ => by cases hf; cases hr; exact ⟨rfl, by decide⟩)
theorem Encoding.time (f : Slot) : Encoding.Statement (.time f) :=
  Encoding.slot rfl rfl rfl (fun _ _ hf hr _ => by cases hf; cases hr; exact ⟨rfl, by decide⟩)
theorem Encoding.who (f : Slot) : Encoding.Statement (.who f) :=
  Encoding.slot rfl rfl rfl (fun _ _ hf hr _ => by cases hf; cases hr; exact ⟨rfl, by decide⟩)
theorem Encoding.tagof (f : Slot) : Encoding.Statement (.tagof f) :=
  Encoding.slot rfl rfl rfl (fun _ _ hf hr _ => by cases hf; cases hr; exact ⟨rfl, by decide⟩)
theorem Encoding.hdr (f : Slot) : Encoding.Statement (.hdr f) :=
  Encoding.slot rfl rfl rfl (fun _ _ hf hr _ => by cases hf; cases hr; exact ⟨rfl, by decide⟩)
theorem Encoding.sld (f : Slot) : Encoding.Statement (.sld f) :=
  Encoding.slot rfl rfl rfl (fun _ _ hf hr _ => by cases hf; cases hr; exact ⟨rfl, by decide⟩)
theorem Encoding.sst (f : Slot) : Encoding.Statement (.sst f) :=
  Encoding.slot rfl rfl rfl (fun _ _ hf hr _ => by cases hf; cases hr; exact ⟨rfl, by decide⟩)
theorem Encoding.slds (f : Slot) : Encoding.Statement (.slds f) :=
  Encoding.slot rfl rfl rfl (fun _ _ hf hr _ => by cases hf; cases hr; exact ⟨rfl, by decide⟩)
theorem Encoding.ssts (f : Slot) : Encoding.Statement (.ssts f) :=
  Encoding.slot rfl rfl rfl (fun _ _ hf hr _ => by cases hf; cases hr; exact ⟨rfl, by decide⟩)
theorem Encoding.sgth (f : Slot) : Encoding.Statement (.sgth f) :=
  Encoding.slot rfl rfl rfl (fun _ _ hf hr _ => by cases hf; cases hr; exact ⟨rfl, by decide⟩)
theorem Encoding.ssct (f : Slot) : Encoding.Statement (.ssct f) :=
  Encoding.slot rfl rfl rfl (fun _ _ hf hr _ => by cases hf; cases hr; exact ⟨rfl, by decide⟩)
theorem Encoding.samo (f : Slot) : Encoding.Statement (.samo f) :=
  Encoding.slot rfl rfl rfl (fun _ _ hf hr _ => by cases hf; cases hr; exact ⟨rfl, by decide⟩)
theorem Encoding.pqin (f : Slot) : Encoding.Statement (.pqin f) :=
  Encoding.slot rfl rfl rfl (fun _ _ hf hr _ => by cases hf; cases hr; exact ⟨rfl, by decide⟩)
theorem Encoding.pqout (f : Slot) : Encoding.Statement (.pqout f) :=
  Encoding.slot rfl rfl rfl (fun _ _ hf hr _ => by cases hf; cases hr; exact ⟨rfl, by decide⟩)
theorem Encoding.spnd (f : Slot) : Encoding.Statement (.spnd f) :=
  Encoding.slot rfl rfl rfl (fun _ _ hf hr _ => by cases hf; cases hr; exact ⟨rfl, by decide⟩)
theorem Encoding.szero (f : Slot) : Encoding.Statement (.szero f) :=
  Encoding.slot rfl rfl rfl (fun _ _ hf hr _ => by cases hf; cases hr; exact ⟨rfl, by decide⟩)
theorem Encoding.lds (f : Slot) : Encoding.Statement (.lds f) :=
  Encoding.slot rfl rfl rfl (fun _ _ hf hr _ => by cases hf; cases hr; exact ⟨rfl, by decide⟩)
theorem Encoding.sts (f : Slot) : Encoding.Statement (.sts f) :=
  Encoding.slot rfl rfl rfl (fun _ _ hf hr _ => by cases hf; cases hr; exact ⟨rfl, by decide⟩)
theorem Encoding.ldx (f : Slot) : Encoding.Statement (.ldx f) :=
  Encoding.slot rfl rfl rfl (fun _ _ hf hr _ => by cases hf; cases hr; exact ⟨rfl, by decide⟩)
theorem Encoding.stx (f : Slot) : Encoding.Statement (.stx f) :=
  Encoding.slot rfl rfl rfl (fun _ _ hf hr _ => by cases hf; cases hr; exact ⟨rfl, by decide⟩)
theorem Encoding.lda (f : Slot) : Encoding.Statement (.lda f) :=
  Encoding.slot rfl rfl rfl (fun _ _ hf hr _ => by cases hf; cases hr; exact ⟨rfl, by decide⟩)
theorem Encoding.sta (f : Slot) : Encoding.Statement (.sta f) :=
  Encoding.slot rfl rfl rfl (fun _ _ hf hr _ => by cases hf; cases hr; exact ⟨rfl, by decide⟩)
theorem Encoding.amo (f : Slot) : Encoding.Statement (.amo f) :=
  Encoding.slot rfl rfl rfl (fun _ _ hf hr _ => by cases hf; cases hr; exact ⟨rfl, by decide⟩)
theorem Encoding.mcst (f : Slot) : Encoding.Statement (.mcst f) :=
  Encoding.slot rfl rfl rfl (fun _ _ hf hr _ => by cases hf; cases hr; exact ⟨rfl, by decide⟩)
theorem Encoding.pref (f : Slot) : Encoding.Statement (.pref f) :=
  Encoding.slot rfl rfl rfl (fun _ _ hf hr _ => by cases hf; cases hr; exact ⟨rfl, by decide⟩)
theorem Encoding.fence (f : Slot) : Encoding.Statement (.fence f) :=
  Encoding.slot rfl rfl rfl (fun _ _ hf hr _ => by cases hf; cases hr; exact ⟨rfl, by decide⟩)
theorem Encoding.xfence (f : Slot) : Encoding.Statement (.xfence f) :=
  Encoding.slot rfl rfl rfl (fun _ _ hf hr _ => by cases hf; cases hr; exact ⟨rfl, by decide⟩)
theorem Encoding.drain (f : Slot) : Encoding.Statement (.drain f) :=
  Encoding.slot rfl rfl rfl (fun _ _ hf hr _ => by cases hf; cases hr; exact ⟨rfl, by decide⟩)
theorem Encoding.swait (f : Slot) : Encoding.Statement (.swait f) :=
  Encoding.slot rfl rfl rfl (fun _ _ hf hr _ => by cases hf; cases hr; exact ⟨rfl, by decide⟩)
theorem Encoding.ssig (f : Slot) : Encoding.Statement (.ssig f) :=
  Encoding.slot rfl rfl rfl (fun _ _ hf hr _ => by cases hf; cases hr; exact ⟨rfl, by decide⟩)
theorem Encoding.sinit (f : Slot) : Encoding.Statement (.sinit f) :=
  Encoding.slot rfl rfl rfl (fun _ _ hf hr _ => by cases hf; cases hr; exact ⟨rfl, by decide⟩)
theorem Encoding.binit (f : Slot) : Encoding.Statement (.binit f) :=
  Encoding.slot rfl rfl rfl (fun _ _ hf hr _ => by cases hf; cases hr; exact ⟨rfl, by decide⟩)
theorem Encoding.barv (f : Slot) : Encoding.Statement (.barv f) :=
  Encoding.slot rfl rfl rfl (fun _ _ hf hr _ => by cases hf; cases hr; exact ⟨rfl, by decide⟩)
theorem Encoding.bwait (f : Slot) : Encoding.Statement (.bwait f) :=
  Encoding.slot rfl rfl rfl (fun _ _ hf hr _ => by cases hf; cases hr; exact ⟨rfl, by decide⟩)
theorem Encoding.ecmd (f : Slot) : Encoding.Statement (.ecmd f) :=
  Encoding.slot rfl rfl rfl (fun _ _ hf hr _ => by cases hf; cases hr; exact ⟨rfl, by decide⟩)
theorem Encoding.eresp (f : Slot) : Encoding.Statement (.eresp f) :=
  Encoding.slot rfl rfl rfl (fun _ _ hf hr _ => by cases hf; cases hr; exact ⟨rfl, by decide⟩)
theorem Encoding.mwld (f : Slot) : Encoding.Statement (.mwld f) :=
  Encoding.slot rfl rfl rfl (fun _ _ hf hr _ => by cases hf; cases hr; exact ⟨rfl, by decide⟩)
theorem Encoding.mwsel (f : Slot) : Encoding.Statement (.mwsel f) :=
  Encoding.slot rfl rfl rfl (fun _ _ hf hr _ => by cases hf; cases hr; exact ⟨rfl, by decide⟩)
theorem Encoding.mpass (f : Slot) : Encoding.Statement (.mpass f) := Encoding.slot rfl rfl rfl (fun _ _ hf hr h => by
    cases hf; cases hr; exact ⟨by simp [instrOf, mode_one (slotFaults_mode h)], by decide⟩)
theorem Encoding.mpassFeed (f : Slot) : Encoding.Statement (.mpassFeed f) := Encoding.slot rfl rfl rfl (fun _ _ hf hr h => by
    cases hf; cases hr; exact ⟨by simp [instrOf, mode_one (slotFaults_mode h)], by decide⟩)
theorem Encoding.mzpc (f : Slot) : Encoding.Statement (.mzpc f) :=
  Encoding.slot rfl rfl rfl (fun _ _ hf hr _ => by cases hf; cases hr; exact ⟨rfl, by decide⟩)
theorem Encoding.mscl (f : Slot) : Encoding.Statement (.mscl f) :=
  Encoding.slot rfl rfl rfl (fun _ _ hf hr _ => by cases hf; cases hr; exact ⟨rfl, by decide⟩)
theorem Encoding.mout (f : Slot) : Encoding.Statement (.mout f) :=
  Encoding.slot rfl rfl rfl (fun _ _ hf hr _ => by cases hf; cases hr; exact ⟨rfl, by decide⟩)
theorem Encoding.mclr (f : Slot) : Encoding.Statement (.mclr f) :=
  Encoding.slot rfl rfl rfl (fun _ _ hf hr _ => by cases hf; cases hr; exact ⟨rfl, by decide⟩)
theorem Encoding.mfeed (f : Slot) : Encoding.Statement (.mfeed f) :=
  Encoding.slot rfl rfl rfl (fun _ _ hf hr _ => by cases hf; cases hr; exact ⟨rfl, by decide⟩)
theorem Encoding.msumw (f : Slot) : Encoding.Statement (.msumw f) :=
  Encoding.slot rfl rfl rfl (fun _ _ hf hr _ => by cases hf; cases hr; exact ⟨rfl, by decide⟩)
theorem Encoding.mstat (f : Slot) : Encoding.Statement (.mstat f) :=
  Encoding.slot rfl rfl rfl (fun _ _ hf hr _ => by cases hf; cases hr; exact ⟨rfl, by decide⟩)
theorem Encoding.achain (f : Slot) : Encoding.Statement (.achain f) :=
  Encoding.slot rfl rfl rfl (fun _ _ hf hr _ => by cases hf; cases hr; exact ⟨rfl, by decide⟩)
theorem Encoding.arsv (f : Slot) : Encoding.Statement (.arsv f) :=
  Encoding.slot rfl rfl rfl (fun _ _ hf hr _ => by cases hf; cases hr; exact ⟨rfl, by decide⟩)
theorem Encoding.asend (f : Slot) : Encoding.Statement (.asend f) := Encoding.slot rfl rfl rfl (fun _ _ hf hr h => by
    cases hf; cases hr; exact ⟨by simp [instrOf, mode_three (slotFaults_mode h)], by decide⟩)
theorem Encoding.asendIdx (f : Slot) : Encoding.Statement (.asendIdx f) := Encoding.slot rfl rfl rfl (fun _ _ hf hr h => by
    cases hf; cases hr; exact ⟨by simp [instrOf, mode_three (slotFaults_mode h)], by decide⟩)
theorem Encoding.asendPin (f : Slot) : Encoding.Statement (.asendPin f) := Encoding.slot rfl rfl rfl (fun _ _ hf hr h => by
    cases hf; cases hr; exact ⟨by simp [instrOf, mode_three (slotFaults_mode h)], by decide⟩)
theorem Encoding.aadd (f : Slot) : Encoding.Statement (.aadd f) := Encoding.slot rfl rfl rfl (fun _ _ hf hr h => by
    cases hf; cases hr; exact ⟨by simp [instrOf, mode_one (slotFaults_mode h)], by decide⟩)
theorem Encoding.aaddPin (f : Slot) : Encoding.Statement (.aaddPin f) := Encoding.slot rfl rfl rfl (fun _ _ hf hr h => by
    cases hf; cases hr; exact ⟨by simp [instrOf, mode_one (slotFaults_mode h)], by decide⟩)
theorem Encoding.awr (f : Slot) : Encoding.Statement (.awr f) :=
  Encoding.slot rfl rfl rfl (fun _ _ hf hr _ => by cases hf; cases hr; exact ⟨rfl, by decide⟩)
theorem Encoding.ard (f : Slot) : Encoding.Statement (.ard f) :=
  Encoding.slot rfl rfl rfl (fun _ _ hf hr _ => by cases hf; cases hr; exact ⟨rfl, by decide⟩)
theorem Encoding.aflsh (f : Slot) : Encoding.Statement (.aflsh f) :=
  Encoding.slot rfl rfl rfl (fun _ _ hf hr _ => by cases hf; cases hr; exact ⟨rfl, by decide⟩)
theorem Encoding.aclr (f : Slot) : Encoding.Statement (.aclr f) :=
  Encoding.slot rfl rfl rfl (fun _ _ hf hr _ => by cases hf; cases hr; exact ⟨rfl, by decide⟩)
theorem Encoding.arel (f : Slot) : Encoding.Statement (.arel f) :=
  Encoding.slot rfl rfl rfl (fun _ _ hf hr _ => by cases hf; cases hr; exact ⟨rfl, by decide⟩)
theorem Encoding.await (f : Slot) : Encoding.Statement (.await f) :=
  Encoding.slot rfl rfl rfl (fun _ _ hf hr _ => by cases hf; cases hr; exact ⟨rfl, by decide⟩)
theorem Encoding.axs (f : Slot) : Encoding.Statement (.axs f) :=
  Encoding.slot rfl rfl rfl (fun _ _ hf hr _ => by cases hf; cases hr; exact ⟨rfl, by decide⟩)
theorem Encoding.copy (c : Command) : Encoding.Statement (.copy c) := Encoding.command rfl rfl rfl (fun _ _ _ e h => by
    cases e; have o := commandHeader_opc h; simp [decodeCommand, o, h])
theorem Encoding.copym (c : Command) : Encoding.Statement (.copym c) := Encoding.command rfl rfl rfl (fun _ _ _ e h => by
    cases e; have o := commandHeader_opc h; simp [decodeCommand, o, h])
theorem Encoding.copyv (c : Command) : Encoding.Statement (.copyv c) := Encoding.command rfl rfl rfl (fun _ _ _ e h => by
    cases e; have o := commandHeader_opc h; simp [decodeCommand, o, h])
theorem Encoding.fill (c : Command) : Encoding.Statement (.fill c) := Encoding.command rfl rfl rfl (fun _ _ _ e h => by
    cases e; have o := commandHeader_opc h; simp [decodeCommand, o, h])
theorem Encoding.cksm (c : Command) : Encoding.Statement (.cksm c) := Encoding.command rfl rfl rfl (fun _ _ _ e h => by
    cases e; have o := commandHeader_opc h; simp [decodeCommand, o, h])
theorem Encoding.binap (c : Command) : Encoding.Statement (.binap c) := Encoding.command rfl rfl rfl (fun _ _ _ e h => by
    cases e; have o := commandHeader_opc h; simp [decodeCommand, o, h])
theorem Encoding.binpl (c : Command) : Encoding.Statement (.binpl c) := Encoding.command rfl rfl rfl (fun _ _ _ e h => by
    cases e; have o := commandHeader_opc h; simp [decodeCommand, o, h])
theorem Encoding.cred (c : Command) : Encoding.Statement (.cred c) := Encoding.command rfl rfl rfl (fun _ _ _ e h => by
    cases e; have o := commandHeader_opc h; simp [decodeCommand, o, h])
theorem Encoding.card (c : Command) : Encoding.Statement (.card c) := Encoding.command rfl rfl rfl (fun _ _ _ e h => by
    cases e; have o := commandHeader_opc h; simp [decodeCommand, o, h])
theorem Encoding.caga (c : Command) : Encoding.Statement (.caga c) := Encoding.command rfl rfl rfl (fun _ _ _ e h => by
    cases e; have o := commandHeader_opc h; simp [decodeCommand, o, h])
theorem Encoding.cbcs (c : Command) : Encoding.Statement (.cbcs c) := Encoding.command rfl rfl rfl (fun _ _ _ e h => by
    cases e; have o := commandHeader_opc h; simp [decodeCommand, o, h])
theorem Encoding.lnch (c : Command) : Encoding.Statement (.lnch c) := Encoding.command rfl rfl rfl (fun _ _ _ e h => by
    cases e; have o := commandHeader_opc h; simp [decodeCommand, o, h])
theorem Encoding.nopq (p : QPacket) : Encoding.Statement (.nopq p) := Encoding.packet rfl rfl rfl (fun _ _ e h => by
    cases e; have o := queuePacket_type h; simp [decodeQueue, o, h])
theorem Encoding.launch (p : QPacket) : Encoding.Statement (.launch p) := Encoding.packet rfl rfl rfl (fun _ _ e h => by
    cases e; have o := queuePacket_type h; simp [decodeQueue, o, h])
theorem Encoding.queueDelta (p : QPacket) : Encoding.Statement (.queueDelta p) := Encoding.packet rfl rfl rfl (fun _ _ e h => by
    cases e; have o := queuePacket_type h; simp [decodeQueue, o, h])
theorem Encoding.copyh (p : QPacket) : Encoding.Statement (.copyh p) := Encoding.packet rfl rfl rfl (fun _ _ e h => by
    cases e; have o := queuePacket_type h; simp [decodeQueue, o, h])
theorem Encoding.waitq (p : QPacket) : Encoding.Statement (.waitq p) := Encoding.packet rfl rfl rfl (fun _ _ e h => by
    cases e; have o := queuePacket_type h; simp [decodeQueue, o, h])
theorem Encoding.sigq (p : QPacket) : Encoding.Statement (.sigq p) := Encoding.packet rfl rfl rfl (fun _ _ e h => by
    cases e; have o := queuePacket_type h; simp [decodeQueue, o, h])
theorem Encoding.fenceq (p : QPacket) : Encoding.Statement (.fenceq p) := Encoding.packet rfl rfl rfl (fun _ _ e h => by
    cases e; have o := queuePacket_type h; simp [decodeQueue, o, h])
theorem Encoding.create (m : MgmtPacket) : Encoding.Statement (.create m) := Encoding.management rfl rfl rfl (fun _ _ e h => by
    cases e; have o := mgmtPacket_op h; simp [decodeManagement, o, h])
theorem Encoding.destroy (m : MgmtPacket) : Encoding.Statement (.destroy m) := Encoding.management rfl rfl rfl (fun _ _ e h => by
    cases e; have o := mgmtPacket_op h; simp [decodeManagement, o, h])
theorem Encoding.mapq (m : MgmtPacket) : Encoding.Statement (.mapq m) := Encoding.management rfl rfl rfl (fun _ _ e h => by
    cases e; have o := mgmtPacket_op h; simp [decodeManagement, o, h])
theorem Encoding.unmapq (m : MgmtPacket) : Encoding.Statement (.unmapq m) := Encoding.management rfl rfl rfl (fun _ _ e h => by
    cases e; have o := mgmtPacket_op h; simp [decodeManagement, o, h])
theorem Encoding.key (m : MgmtPacket) : Encoding.Statement (.key m) := Encoding.management rfl rfl rfl (fun _ _ e h => by
    cases e; have o := mgmtPacket_op h; simp [decodeManagement, o, h])
theorem Encoding.thaw (m : MgmtPacket) : Encoding.Statement (.thaw m) := Encoding.management rfl rfl rfl (fun _ _ e h => by
    cases e; have o := mgmtPacket_op h; simp [decodeManagement, o, h])
theorem Encoding.discard (m : MgmtPacket) : Encoding.Statement (.discard m) := Encoding.management rfl rfl rfl (fun _ _ e h => by
    cases e; have o := mgmtPacket_op h; simp [decodeManagement, o, h])
theorem Encoding.enroll (m : MgmtPacket) : Encoding.Statement (.enroll m) := Encoding.management rfl rfl rfl (fun _ _ e h => by
    cases e; have o := mgmtPacket_op h; simp [decodeManagement, o, h])
theorem Encoding.domain (m : MgmtPacket) : Encoding.Statement (.domain m) := Encoding.management rfl rfl rfl (fun _ _ e h => by
    cases e; have o := mgmtPacket_op h; simp [decodeManagement, o, h])
theorem Encoding.map (m : MgmtPacket) : Encoding.Statement (.map m) := Encoding.management rfl rfl rfl (fun _ _ e h => by
    cases e; have o := mgmtPacket_op h; simp [decodeManagement, o, h])
theorem Encoding.unmap (m : MgmtPacket) : Encoding.Statement (.unmap m) := Encoding.management rfl rfl rfl (fun _ _ e h => by
    cases e; have o := mgmtPacket_op h; simp [decodeManagement, o, h])
theorem Encoding.attest (m : MgmtPacket) : Encoding.Statement (.attest m) := Encoding.management rfl rfl rfl (fun _ _ e h => by
    cases e; have o := mgmtPacket_op h; simp [decodeManagement, o, h])
theorem Encoding.telem (m : MgmtPacket) : Encoding.Statement (.telem m) := Encoding.management rfl rfl rfl (fun _ _ e h => by
    cases e; have o := mgmtPacket_op h; simp [decodeManagement, o, h])
theorem Encoding.managementPacketMalformed (m : MgmtPacket) : Encoding.Statement (.managementPacketMalformed m) := Encoding.event rfl rfl rfl rfl
theorem Encoding.engineCommandAccept (core eng : Nat) : Encoding.Statement (.engineCommandAccept core eng) := Encoding.event rfl rfl rfl rfl
theorem Encoding.engineCommandStart (core eng : Nat) : Encoding.Statement (.engineCommandStart core eng) := Encoding.event rfl rfl rfl rfl
theorem Encoding.engineChunk (core eng idx : Nat) : Encoding.Statement (.engineChunk core eng idx) := Encoding.event rfl rfl rfl rfl
theorem Encoding.engineCommandComplete (core eng idx : Nat) : Encoding.Statement (.engineCommandComplete core eng idx) :=
  Encoding.event rfl rfl rfl rfl
theorem Encoding.linkTransfer (key out : Nat) : Encoding.Statement (.linkTransfer key out) := Encoding.event rfl rfl rfl rfl
theorem Encoding.headerLatch (key inp : Nat) : Encoding.Statement (.headerLatch key inp) := Encoding.event rfl rfl rfl rfl
theorem Encoding.joinStep (key : Nat) : Encoding.Statement (.joinStep key) := Encoding.event rfl rfl rfl rfl
theorem Encoding.switchWave (key : Nat) : Encoding.Statement (.switchWave key) := Encoding.event rfl rfl rfl rfl
theorem Encoding.withy (key : Nat) : Encoding.Statement (.withy key) := Encoding.event rfl rfl rfl rfl
theorem Encoding.commitWave (key : Nat) : Encoding.Statement (.commitWave key) := Encoding.event rfl rfl rfl rfl
theorem Encoding.returnBufferDrain (key : Nat) : Encoding.Statement (.returnBufferDrain key) := Encoding.event rfl rfl rfl rfl
theorem Encoding.loadDataReturn (n : Nat) : Encoding.Statement (.loadDataReturn n) := Encoding.event rfl rfl rfl rfl
theorem Encoding.rowIntake (key : Nat) : Encoding.Statement (.rowIntake key) := Encoding.event rfl rfl rfl rfl
theorem Encoding.localPortAccept (key : Nat) : Encoding.Statement (.localPortAccept key) := Encoding.event rfl rfl rfl rfl
theorem Encoding.localPortDeliver (core : Nat) : Encoding.Statement (.localPortDeliver core) := Encoding.event rfl rfl rfl rfl
theorem Encoding.taskDeliver (core n : Nat) : Encoding.Statement (.taskDeliver core n) := Encoding.event rfl rfl rfl rfl
theorem Encoding.contributionArrival (n : Nat) : Encoding.Statement (.contributionArrival n) := Encoding.event rfl rfl rfl rfl
theorem Encoding.markerArrival (n : Nat) : Encoding.Statement (.markerArrival n) := Encoding.event rfl rfl rfl rfl
theorem Encoding.unbindArrival (n : Nat) : Encoding.Statement (.unbindArrival n) := Encoding.event rfl rfl rfl rfl
theorem Encoding.bindRequest (n : Nat) : Encoding.Statement (.bindRequest n) := Encoding.event rfl rfl rfl rfl
theorem Encoding.bindAnswer (n : Nat) : Encoding.Statement (.bindAnswer n) := Encoding.event rfl rfl rfl rfl
theorem Encoding.bindRetry (key chain : Nat) : Encoding.Statement (.bindRetry key chain) := Encoding.event rfl rfl rfl rfl
theorem Encoding.refusalArrival (n : Nat) : Encoding.Statement (.refusalArrival n) := Encoding.event rfl rfl rfl rfl
theorem Encoding.refusalTrap (key : Nat) : Encoding.Statement (.refusalTrap key) := Encoding.event rfl rfl rfl rfl
theorem Encoding.memoryAccess (n : Nat) : Encoding.Statement (.memoryAccess n) := Encoding.event rfl rfl rfl rfl
theorem Encoding.wakeComplete (core : Nat) : Encoding.Statement (.wakeComplete core) := Encoding.event rfl rfl rfl rfl
theorem Encoding.pendingLineTimeout (core spad line : Nat) : Encoding.Statement (.pendingLineTimeout core spad line) := Encoding.event rfl rfl rfl rfl
theorem Encoding.deadlock (core block : Nat) : Encoding.Statement (.deadlock core block) := Encoding.event rfl rfl rfl rfl
theorem Encoding.launchPlacement (launch : Nat) (place : List Nat) : Encoding.Statement (.launchPlacement launch place) :=
  Encoding.event rfl rfl rfl rfl
theorem Encoding.deltaApply (launch : Nat) : Encoding.Statement (.deltaApply launch) := Encoding.event rfl rfl rfl rfl
theorem Encoding.waitqEvaluate (thread : Nat) : Encoding.Statement (.waitqEvaluate thread) := Encoding.event rfl rfl rfl rfl
theorem Encoding.invocationCompletion (core block : Nat) : Encoding.Statement (.invocationCompletion core block) := Encoding.event rfl rfl rfl rfl
theorem Encoding.childLaunchReceive (n : Nat) : Encoding.Statement (.childLaunchReceive n) := Encoding.event rfl rfl rfl rfl
theorem Encoding.childStart (core block : Nat) : Encoding.Statement (.childStart core block) := Encoding.event rfl rfl rfl rfl
theorem Encoding.cutComplete (core block : Nat) : Encoding.Statement (.cutComplete core block) := Encoding.event rfl rfl rfl rfl
theorem Encoding.cutOverdue (core block : Nat) : Encoding.Statement (.cutOverdue core block) := Encoding.event rfl rfl rfl rfl
theorem Encoding.translationWalk (walker : Walker) (va : Nat) : Encoding.Statement (.translationWalk walker va) := Encoding.event rfl rfl rfl rfl
theorem Encoding.patrolScrub (sector : Nat) : Encoding.Statement (.patrolScrub sector) := Encoding.event rfl rfl rfl rfl
theorem Encoding.wakeFailure (core : Nat) : Encoding.Statement (.wakeFailure core) := Encoding.event rfl rfl rfl rfl
theorem Encoding.stateStorageError (core elem unit : Nat) : Encoding.Statement (.stateStorageError core elem unit) := Encoding.event rfl rfl rfl rfl
theorem Encoding.windowWrite (w : WinAccess) : Encoding.Statement (.windowWrite w) := Encoding.event rfl rfl rfl rfl
theorem Encoding.constantWrite (w : WinAccess) : Encoding.Statement (.constantWrite w) := Encoding.event rfl rfl rfl rfl
theorem Encoding.descriptorWrite (w : WinAccess) : Encoding.Statement (.descriptorWrite w) := Encoding.event rfl rfl rfl rfl
theorem Encoding.contextImageWrite (w : WinAccess) : Encoding.Statement (.contextImageWrite w) := Encoding.event rfl rfl rfl rfl
theorem Encoding.amWindowWrite (w : WinAccess) : Encoding.Statement (.amWindowWrite w) := Encoding.event rfl rfl rfl rfl
theorem Encoding.semaphoreWrite (w : WinAccess) : Encoding.Statement (.semaphoreWrite w) := Encoding.event rfl rfl rfl rfl
theorem Encoding.semaphoreAtomicAdd (w : WinAccess) : Encoding.Statement (.semaphoreAtomicAdd w) := Encoding.event rfl rfl rfl rfl
theorem Encoding.barrierArrivalAdd (w : WinAccess) : Encoding.Statement (.barrierArrivalAdd w) := Encoding.event rfl rfl rfl rfl
theorem Encoding.barrierByteAdd (w : WinAccess) : Encoding.Statement (.barrierByteAdd w) := Encoding.event rfl rfl rfl rfl
theorem Encoding.configurationLoad (core : Nat) (img : List ImageElem) : Encoding.Statement (.configurationLoad core img) :=
  Encoding.event rfl rfl rfl rfl
theorem Encoding.tlbInvalidate (tcid lo hi : Nat) : Encoding.Statement (.tlbInvalidate tcid lo hi) := Encoding.event rfl rfl rfl rfl
theorem Encoding.kidPurge (die kid : Nat) : Encoding.Statement (.kidPurge die kid) := Encoding.event rfl rfl rfl rfl
theorem Encoding.keySlotWrite (kid : Nat) : Encoding.Statement (.keySlotWrite kid) := Encoding.event rfl rfl rfl rfl
theorem Encoding.orderingControlWrite (v : Bool) : Encoding.Statement (.orderingControlWrite v) := Encoding.event rfl rfl rfl rfl
theorem Encoding.consChangeComplete : Encoding.Statement .consChangeComplete := Encoding.event rfl rfl rfl rfl
theorem Encoding.queueDoorbell (thread : Nat) : Encoding.Statement (.queueDoorbell thread) := Encoding.event rfl rfl rfl rfl
theorem Encoding.runListTurn : Encoding.Statement .runListTurn := Encoding.event rfl rfl rfl rfl
theorem Encoding.preEmpt (core block : Nat) : Encoding.Statement (.preEmpt core block) := Encoding.event rfl rfl rfl rfl
theorem Encoding.resume (core block : Nat) : Encoding.Statement (.resume core block) := Encoding.event rfl rfl rfl rfl
theorem Encoding.resumeSkipping (core block : Nat) : Encoding.Statement (.resumeSkipping core block) := Encoding.event rfl rfl rfl rfl
theorem Encoding.regionDiscard (core block : Nat) : Encoding.Statement (.regionDiscard core block) := Encoding.event rfl rfl rfl rfl
theorem Encoding.restore (save core row col : Nat) : Encoding.Statement (.restore save core row col) := Encoding.event rfl rfl rfl rfl
theorem Encoding.rdmaWrite (qp : Nat) (rkey : BitVec 32) (va : Nat) (data : List Byte) : Encoding.Statement (.rdmaWrite qp rkey va data) :=
  Encoding.event rfl rfl rfl rfl
theorem Encoding.rdmaRead (qp : Nat) (rkey : BitVec 32) (va len : Nat) : Encoding.Statement (.rdmaRead qp rkey va len) :=
  Encoding.event rfl rfl rfl rfl
theorem Encoding.rdmaInvalidRequest (qp : Nat) : Encoding.Statement (.rdmaInvalidRequest qp) := Encoding.event rfl rfl rfl rfl
theorem Encoding.cnpReceive (qp : Nat) : Encoding.Statement (.cnpReceive qp) := Encoding.event rfl rfl rfl rfl
theorem Encoding.mkaExchange (port : Nat) (frame : List Byte) : Encoding.Statement (.mkaExchange port frame) := Encoding.event rfl rfl rfl rfl
theorem Encoding.daxaraDataFrame (port : Nat) (fr : Frame) : Encoding.Statement (.daxaraDataFrame port fr) := Encoding.event rfl rfl rfl rfl
theorem Encoding.daxaraAck (port ack : Nat) : Encoding.Statement (.daxaraAck port ack) := Encoding.event rfl rfl rfl rfl
theorem Encoding.daxaraNak (port ack : Nat) : Encoding.Statement (.daxaraNak port ack) := Encoding.event rfl rfl rfl rfl
theorem Encoding.daxaraCredit (port : Nat) (credits : List Nat) : Encoding.Statement (.daxaraCredit port credits) := Encoding.event rfl rfl rfl rfl
theorem Encoding.replayTimeout (port : Nat) : Encoding.Statement (.replayTimeout port) := Encoding.event rfl rfl rfl rfl
theorem Encoding.linkRetrain (port : Nat) : Encoding.Statement (.linkRetrain port) := Encoding.event rfl rfl rfl rfl
theorem Encoding.linkFailed (port : Nat) : Encoding.Statement (.linkFailed port) := Encoding.event rfl rfl rfl rfl
theorem Encoding.peerAttestation (port : Nat) (report : List Byte) : Encoding.Statement (.peerAttestation port report) :=
  Encoding.event rfl rfl rfl rfl
theorem Encoding.peerRequest (r : PeerReq) : Encoding.Statement (.peerRequest r) := Encoding.event rfl rfl rfl rfl
theorem Encoding.peerRefusal (r : PeerReq) : Encoding.Statement (.peerRefusal r) := Encoding.event rfl rfl rfl rfl
theorem Encoding.boot : Encoding.Statement .boot := Encoding.event rfl rfl rfl rfl
theorem Encoding.telemetryUpdate (rec : Nat) (counts : BitVec 512) : Encoding.Statement (.telemetryUpdate rec counts) :=
  Encoding.event rfl rfl rfl rfl
theorem Encoding.clockThrottle : Encoding.Statement .clockThrottle := Encoding.event rfl rfl rfl rfl
theorem Encoding.emergencyStop : Encoding.Statement .emergencyStop := Encoding.event rfl rfl rfl rfl
theorem Encoding.corePowerGating (core : Nat) : Encoding.Statement (.corePowerGating core) := Encoding.event rfl rfl rfl rfl
theorem Encoding.clockRestore : Encoding.Statement .clockRestore := Encoding.event rfl rfl rfl rfl
theorem Encoding.priorityFlowControl (pause : Bool) : Encoding.Statement (.priorityFlowControl pause) := Encoding.event rfl rfl rfl rfl
theorem Encoding.macsecDrop (port : Nat) : Encoding.Statement (.macsecDrop port) := Encoding.event rfl rfl rfl rfl
theorem Encoding.ownerKeyProvisioning (ecdsa : List Byte) (hss : List Byte) : Encoding.Statement (.ownerKeyProvisioning ecdsa hss) :=
  Encoding.event rfl rfl rfl rfl
theorem Encoding.powerLoss : Encoding.Statement .powerLoss := Encoding.event rfl rfl rfl rfl

end Sys2Proof.Laws
end

