-- ==== Sys2Proof/Tests/Slice0.lean ====
section
/-! SUPPORT. Tests: words of every instruction that has words, written field by field from the tables of the spec; an ill-formed term for each check;
a small step of some instructions; and for every statement states and operands that meet its hypotheses. -/

set_option Elab.async false

namespace Sys2Proof.Tests

open Sys2Proof.Machine

/-! Words: opcode at bit 40 and VAL at bit 39 (spec 08 R165), then fields as (bit, value). The opcodes are those of the map of spec 08 R173, the modes
those of the encoding tables of spec 09 R185, 10 R223, 11 R242, 12 R265, 13 R298, 14 R323. -/

/-- The 96 bits of a valid slot with an opcode and the fields listed. -/
def word (op : Nat) (l : List (Nat × Nat)) : Nat := (l.map (fun x => x.2 * 2 ^ x.1)).foldl (· + ·) (2 ^ 39 + op * 2 ^ 40)

def wordsInteger : List (Nat × (Slot → Instr)) :=
  [(word 0x01 [], .add), (word 0x02 [], .sub), (word 0x03 [], .adds), (word 0x04 [], .subs), (word 0x05 [], .mul), (word 0x06 [], .mulh), 
   (word 0x07 [], .mulhn), (word 0x08 [(56, 1)], .madd), (word 0x09 [], .abs), (word 0x0A [], .neg), (word 0x0B [], .min), (word 0x0C [], .max), 
   (word 0x0D [], .minn), (word 0x0E [], .maxn), (word 0x0F [], .and), (word 0x10 [], .or), (word 0x11 [], .xor), (word 0x12 [], .andn), 
   (word 0x13 [], .shl), (word 0x14 [], .shr), (word 0x15 [], .sha), (word 0x16 [], .rol), (word 0x17 [], .clz), (word 0x18 [], .ctz), 
   (word 0x19 [], .popc), (word 0x1A [], .brev), (word 0x1B [(84, 1)], .biti), (word 0x1C [(84, 1)], .bitd), (word 0x1D [], .bfx), 
   (word 0x1E [], .bfi), (word 0x1F [], .cmpeq), (word 0x20 [], .cmpne), (word 0x21 [], .cmplt), (word 0x22 [], .cmpltn), 
   (word 0x23 [], .cmple), (word 0x24 [], .cmplen), (word 0x25 [], .sel), (word 0x25 [(56, 1), (76, 1)], .selLane), (word 0x26 [], .mov), 
   (word 0x27 [], .movi), (word 0x28 [], .movh), (word 0x29 [], .movx), (word 0x29 [(76, 1)], .movxLane), (word 0x2A [(56, 1)], .movxw), 
   (word 0x2A [(56, 1), (76, 1)], .movxwLane), (word 0x2B [], .shuf), (word 0x2C [], .bcast), (word 0x2D [], .extl), (word 0x2E [], .insl), 
   (word 0x2F [], .pack), (word 0x30 [], .unpk), (word 0x31 [], .reda), (word 0x32 [], .redm), (word 0x33 [], .scana), (word 0x34 [], .len), 
   (word 0x35 [], .setlen)]

def wordsFloat : List (Nat × (Slot → Instr)) :=
  [(word 0x40 [], .fadd), (word 0x41 [], .fsub), (word 0x42 [], .fmul), (word 0x43 [(56, 1)], .ffma), (word 0x44 [(56, 1)], .ffms), 
   (word 0x45 [(56, 1)], .fnma), (word 0x46 [], .fmin), (word 0x47 [], .fmax), (word 0x48 [], .fabs), (word 0x49 [], .fneg), 
   (word 0x4A [], .fcpys), (word 0x4B [], .fcmpeq), (word 0x4C [], .fcmplt), (word 0x4D [], .fcmple), (word 0x4E [], .fcmpun), 
   (word 0x4F [], .fclass), (word 0x50 [], .fcvt), (word 0x51 [], .fcvti), (word 0x52 [], .icvtf), (word 0x53 [], .frnd), 
   (word 0x54 [], .frcpe), (word 0x55 [], .frsqe), (word 0x56 [], .fscl), (word 0x57 [], .fexpt), (word 0x58 [], .freda), (word 0x59 [], .fdot), 
   (word 0x5A [], .falgn), (word 0x5A [(76, 1)], .falgnExp), (word 0x5A [(76, 2)], .falgnHdr), (word 0x60 [], .lute), (word 0x61 [], .luti), 
   (word 0x62 [], .lutw), (word 0x63 [], .rred), (word 0x64 [], .rcomb), (word 0x65 [], .lclamp)]

def wordsToken : List (Nat × (Slot → Instr)) :=
  [(word 0x00 [], .nop), (word 0x70 [], .pass), (word 0x71 [(48, 4), (67, 1)], .drop), (word 0x72 [], .emit), (word 0x73 [(48, 4)], .eose), 
   (word 0x74 [(57, 1)], .steer), (word 0x74 [(57, 1), (76, 1)], .steerData), (word 0x75 [(48, 4), (57, 1), (67, 1)], .merge), 
   (word 0x76 [(48, 4), (57, 1), (67, 1)], .split), (word 0x77 [(15, 1), (48, 4), (51, 5), (57, 1), (67, 1), (68, 1)], .carry), 
   (word 0x78 [(48, 4), (56, 1), (57, 1), (67, 1)], .delay), (word 0x79 [(48, 4), (51, 6), (57, 1)], .delta), 
   (word 0x7A [(48, 4), (57, 1), (67, 1)], .count), (word 0x7B [(48, 4), (67, 1)], .sink), (word 0x7C [(62, 1)], .tsend), 
   (word 0x7C [(62, 1), (76, 1)], .tsendFar), (word 0x7D [(62, 1)], .cfgk), (word 0x7D [(62, 1), (76, 1)], .cfgkFar), (word 0x7E [], .mark), 
   (word 0x7F [(26, 2), (48, 4), (62, 1), (67, 1)], .errt), (word 0x7F [(57, 1), (76, 1)], .errtMake), 
   (word 0x80 [(26, 2), (48, 4), (57, 1), (67, 1)], .repair), (word 0x80 [(26, 2), (48, 4), (62, 1), (67, 1), (76, 1)], .repairBack), 
   (word 0x81 [], .trap), (word 0x82 [], .time), (word 0x83 [], .who), (word 0x84 [], .tagof), (word 0x85 [], .hdr)]

def wordsMemory : List (Nat × (Slot → Instr)) :=
  [(word 0x90 [], .sld), (word 0x91 [], .sst), (word 0x92 [], .slds), (word 0x93 [], .ssts), (word 0x94 [], .sgth), (word 0x95 [], .ssct), 
   (word 0x96 [], .samo), (word 0x97 [], .pqin), (word 0x98 [], .pqout), (word 0x99 [], .spnd), (word 0x9A [], .szero), (word 0x9B [], .lds), 
   (word 0x9C [], .sts), (word 0x9D [], .ldx), (word 0x9E [], .stx), (word 0x9F [], .lda), (word 0xA0 [], .sta), (word 0xA1 [], .amo), 
   (word 0xA2 [], .mcst), (word 0xA3 [], .pref), (word 0xB0 [(76, 1)], .fence), (word 0xB1 [(84, 1)], .xfence), (word 0xB2 [], .drain), 
   (word 0xB3 [], .swait), (word 0xB4 [], .ssig), (word 0xB5 [], .sinit), (word 0xB6 [], .binit), (word 0xB7 [], .barv), (word 0xB8 [], .bwait), 
   (word 0xB9 [], .ecmd), (word 0xBA [], .eresp)]

def wordsMatrix : List (Nat × (Slot → Instr)) :=
  [(word 0xC0 [], .mwld), (word 0xC1 [], .mwsel), (word 0xC2 [], .mpass), (word 0xC2 [(76, 1)], .mpassFeed), (word 0xC3 [], .mzpc), 
   (word 0xC4 [(82, 1)], .mscl), (word 0xC5 [], .mout), (word 0xC6 [], .mclr), (word 0xC7 [], .mfeed), (word 0xC8 [], .msumw), 
   (word 0xC9 [], .mstat), (word 0xD0 [], .achain), (word 0xD1 [], .arsv), (word 0xD2 [], .asend), (word 0xD2 [(76, 1)], .asendIdx), 
   (word 0xD2 [(76, 2)], .asendPin), (word 0xD3 [], .aadd), (word 0xD3 [(76, 1)], .aaddPin), (word 0xD4 [], .awr), (word 0xD5 [], .ard), 
   (word 0xD6 [], .aflsh), (word 0xD7 [], .aclr), (word 0xD8 [], .arel), (word 0xD9 [], .await), (word 0xDA [], .axs)]

/-- Whether every word decodes to the instruction beside it, with the word's fields. -/
def decodes (l : List (Nat × (Slot → Instr))) : Bool := l.all (fun x => decide (decodeSlot x.1 = .ok (x.2 (slotOf x.1).2)))

theorem test_words_integer : decodes wordsInteger = true := by decide +kernel
theorem test_words_float : decodes wordsFloat = true := by decide +kernel
theorem test_words_token : decodes wordsToken = true := by decide +kernel
theorem test_words_memory : decodes wordsMemory = true := by decide +kernel
theorem test_words_matrix : decodes wordsMatrix = true := by decide +kernel

/-- Every field of a slot where spec 08 R165 puts it: the worked word of each field, one at a time, in an ADD. -/
theorem test_field_places : (slotOf (word 0x01 [(0, 0x2A), (6, 0x15), (12, 3), (15, 5), (18, 6), (21, 1), (22, 3), (25, 1), (26, 2), (28, 1), (30, 0x11), (36, 2), (38, 1),
      (48, 4), (51, 5), (54, 3), (56, 1), (57, 0x22), (63, 5), (66, 1), (67, 1), (68, 0), (69, 0x2D), (75, 1), (76, 9), (80, 0xBEEF)]))
    = (0x01, { sv := 0x2A, sm := 0x15, qa := 3, qb := 5, ta := 6, tea := true, tb := 3, teb := true, ka := 2, kb := 1, os := 0x11, pcl := 2, str := true
               val := true, sa := 4, sb := 5, dd := 3, dwe := true, om := 0x22, ot := 5, oeos := true, dqa := true, dqb := false, ns := 0x2D, nse := true
               md := 9, imm := 0xBEEF }) := by decide +kernel

/-- The commands of spec 05 R102, R104: opcode and path class in word 0. -/
def wordsCommand : List (Nat × (Command → Instr)) :=
  [(0x101, .copy), (0x102, .copym), (0x103, .copyv), (0x104, .fill), (0x105, .cksm), (0x210, .binap), (0x211, .binpl), (0x320, .cred), (0x321, .card),
   (0x322, .caga), (0x323, .cbcs), (0x130, .lnch)]
theorem test_words_command : wordsCommand.all (fun x => decide (decodeCommand (commandOf x.1) = .ok (x.2 (commandOf x.1)))) = true := by decide +kernel

/-- The queue packets of spec 16 R368: TYPE in bits 7 to 0, SLM 1 at bit 16 of a COPYH, which carries a COPY. -/
def wordsQueue : List (Nat × (QPacket → Instr)) :=
  [(0, .nopq), (1, .launch), (2, .queueDelta), (3 + 2 ^ 16 + 2 ^ 512 * 0x101, .copyh), (4, .waitq), (5, .sigq), (6, .fenceq)]
theorem test_words_queue : wordsQueue.all (fun x =>
    let p : QPacket := { first := commandOf (x.1 % 2 ^ 512), second := commandOf (x.1 / 2 ^ 512) }
    decide (decodeQueue p = .ok (x.2 p))) = true := by decide +kernel

/-- A management packet of spec 18 R422 with OP o: its body of n operand words at 0x1_0000, its reply at 0xC_0000, a signature record of zero length. -/
def packet (o n : Nat) (l : List (Nat × Nat)) : MgmtPacket :=
  { slot := { blankWords with w0 := BitVec.ofNat 64 o, w1 := BitVec.ofNat 64 (0x10000 + 8 * n * 2 ^ 32), w2 := 0xC0000 }
    operands := (List.range n).map (fun i => BitVec.ofNat 64 ((l.filter (fun x => x.1 = i)).map (fun x => x.2)).sum), sig := [] }

/-- The operations of spec 18 R422 with the count of their operand words. -/
def wordsManagement : List (MgmtPacket × (MgmtPacket → Instr)) :=
  [(packet 0x01 5 [], .create), (packet 0x02 1 [], .destroy), (packet 0x03 2 [], .mapq), (packet 0x04 1 [], .unmapq), (packet 0x05 5 [], .key),
   (packet 0x06 1 [], .thaw), (packet 0x07 1 [], .discard), (packet 0x08 21 [], .enroll), (packet 0x09 333 [], .domain), (packet 0x0A 4 [], .map),
   (packet 0x0B 4 [], .unmap), (packet 0x10 8 [], .attest), (packet 0x11 1 [], .telem)]
theorem test_words_management : wordsManagement.all (fun x => decide (decodeManagement x.1 = x.2 x.1)) = true := by decide +kernel

/-! Ill-formed terms, one for each check of WellFormed, with the bit position that the refusal names. -/

/-- What every slot meets (spec 08 R168, R169, R163, 07 R161). -/
def refusedCommon : List (Nat × Nat) :=
  [(word 0x01 [(12, 7), (18, 1), (21, 1)], 18), (word 0x01 [(12, 7), (21, 1)], 21), (word 0x01 [(12, 7), (26, 1)], 26), (word 0x01 [(12, 7), (67, 1)], 67),
   (word 0x01 [(15, 7), (22, 1), (25, 1)], 22), (word 0x01 [(15, 7), (25, 1)], 25), (word 0x01 [(15, 7), (28, 1)], 28), (word 0x01 [(15, 7), (68, 1)], 68),
   (word 0x01 [(12, 7), (48, 4)], 48), (word 0x01 [(12, 7), (51, 4)], 51), (word 0x01 [(15, 7), (48, 5)], 48), (word 0x01 [(15, 7), (51, 5)], 51),
   (word 0x01 [(18, 1)], 18), (word 0x01 [(22, 1)], 22), (word 0x01 [(54, 1)], 54), (word 0x01 [(69, 1)], 69), (word 0x01 [(66, 1)], 66), (word 0x01 [(63, 1)], 63),
   (word 0x1D [(48, 7)], 48), (word 0x00 [(48, 1)], 48), (word 0x1E [(51, 7)], 51), (word 0x1D [(51, 1)], 51), (word 0x01 [(48, 6), (51, 7)], 48),
   (word 0x1F [(48, 7), (76, 1)], 48), (word 0x91 [(56, 1)], 56), (word 0x91 [(57, 1)], 57), (word 0x0B [(76, 1)], 76), (word 0x01 [(76, 12)], 78),
   (word 0xA0 [(76, 1)], 76), (word 0x00 [(80, 1)], 80), (word 0x1F [(76, 1), (93, 6)], 93), (word 0xA0 [(93, 7)], 93), (word 0x92 [(76, 2), (90, 6)], 90)]
/-- What the chapters add for the local port, OEOS and the kinds of heads (spec 12 R262, R265, 10 R220, 11 R240). -/
def refusedChapter : List (Nat × Nat) :=
  [(word 0x7C [(57, 1)], 57), (word 0x01 [(62, 1)], 62), (word 0x01 [(35, 1)], 35), (word 0x70 [(57, 1), (66, 1)], 66), (word 0x01 [(48, 4), (26, 1)], 26),
   (word 0x40 [(51, 5), (28, 2)], 28)]
/-- What the row of one instruction adds. -/
def refusedOwn : List (Nat × Nat) :=
  [(word 0x00 [(67, 1)], 67), (word 0x00 [(68, 1)], 68), (word 0x08 [], 56), (word 0x1B [], 84), (word 0x1C [], 84), (word 0x25 [(76, 1)], 56),
   (word 0x25 [(76, 4)], 78), (word 0x25 [(93, 6)], 93), (word 0x25 [(48, 7)], 48), (word 0x2A [], 56), (word 0x2A [(54, 1), (56, 1)], 54),
   (word 0x43 [], 56), (word 0x44 [], 56), (word 0x45 [], 56), (word 0x59 [(76, 1)], 56), (word 0x63 [(76, 3)], 76), (word 0x71 [(48, 4)], 67),
   (word 0x71 [(48, 4), (51, 5), (67, 1)], 68), (word 0x73 [(48, 4), (26, 2)], 26), (word 0x74 [], 57), (word 0x74 [(57, 7)], 57), (word 0x74 [(57, 1), (93, 6)], 93),
   (word 0x75 [(48, 4)], 67), (word 0x75 [(48, 4), (67, 1), (26, 2)], 26), (word 0x76 [(48, 4)], 67), (word 0x76 [(48, 4), (67, 1), (26, 2)], 26),
   (word 0x77 [(48, 4), (51, 5)], 67), (word 0x77 [(48, 4), (51, 5), (67, 1)], 68), (word 0x77 [(48, 4), (51, 5), (67, 1), (68, 1), (26, 2)], 26),
   (word 0x78 [(48, 4), (56, 1)], 67), (word 0x78 [(48, 4), (67, 1)], 56), (word 0x78 [(48, 4), (56, 1), (67, 1), (26, 2)], 26), (word 0x79 [(48, 4), (51, 6), (26, 1)], 26),
   (word 0x7A [(48, 4)], 67), (word 0x7A [(48, 4), (67, 1), (26, 2)], 26), (word 0x7B [(48, 4)], 67), (word 0x7B [(48, 4), (67, 1), (26, 2)], 26),
   (word 0x7C [(48, 4), (62, 1), (26, 1)], 26), (word 0x7F [(48, 4), (62, 1)], 26), (word 0x80 [(48, 4)], 26), (word 0x80 [(48, 4), (26, 2)], 67),
   (word 0x96 [(84, 9)], 84), (word 0x99 [(89, 10)], 80), (word 0x99 [(80, 1), (89, 9)], 80), (word 0x99 [(93, 6)], 93), (word 0x9A [(89, 10)], 80),
   (word 0x9A [(80, 1), (89, 9)], 80), (word 0xA1 [(84, 11)], 84), (word 0xB1 [(80, 7)], 80), (word 0xB1 [(84, 7)], 84), (word 0xB1 [], 84), (word 0xB2 [(80, 4)], 80),
   (word 0xB2 [(84, 5)], 84), (word 0xB3 [(82, 6)], 82), (word 0xC0 [(76, 7)], 76), (word 0xC0 [(76, 1), (88, 1)], 88), (word 0xC4 [], 82)]
/-- Whether every word is refused at the bit beside it. -/
def refuses (l : List (Nat × Nat)) : Bool := l.all (fun x => decide (decodeSlot x.1 = .error (.field x.2)))
theorem test_refused_common : refuses refusedCommon = true := by decide +kernel
theorem test_refused_chapter : refuses refusedChapter = true := by decide +kernel
theorem test_refused_own : refuses refusedOwn = true := by decide +kernel
/-- A term with VAL 0 is ill formed, and its word is no instruction; modes that no row assigns (spec 11 R242 FALGN 11, 14 R323 ASEND 11). -/
theorem test_refused_invalid : (Instr.add blankSlot).wellFormed = false ∧ decodeSlot (2 ^ 40) = .error (.field 39)
    ∧ decodeSlot (word 0x5A [(76, 3)]) = .error (.unassigned 0x5A) ∧ decodeSlot (word 0xD2 [(76, 3)]) = .error (.unassigned 0xD2) := by decide +kernel
/-- Commands: a path class not the engine's, and a set bit 62 (spec 05 R105). -/
theorem test_refused_command : (Instr.copy { blankWords with w0 := 0x201 }).wellFormed = false ∧ (Instr.copy { blankWords with w0 := 2 ^ 62 + 0x101 }).wellFormed = false
    ∧ decodeCommand { blankWords with w0 := 0x331 } = .error (.badCommand 0x31) := by decide +kernel
/-- Queue packets: reserved bits of word 0, SLM of a packet of one slot, a reserved bit of word 1, a second slot, a COPYH without a copy or to core 384
(spec 16 R368). -/
theorem test_refused_queue : [({ first := { blankWords with w0 := 0x200 }, second := blankWords } : QPacket), { first := { blankWords with w0 := 2 ^ 16 }, second := blankWords },
    { first := { blankWords with w0 := 2 ^ 19 }, second := blankWords }, { first := { blankWords with w1 := 1 }, second := blankWords },
    { first := blankWords, second := { blankWords with w0 := 1 } }].all (fun p => !(Instr.nopq p).wellFormed) = true
    ∧ (Instr.copyh { first := { blankWords with w0 := 3 + 2 ^ 16 }, second := { blankWords with w0 := 0x106 } }).wellFormed = false
    ∧ (Instr.copyh { first := { blankWords with w0 := 3 + 2 ^ 16, w1 := 384 }, second := { blankWords with w0 := 0x101 } }).wellFormed = false := by decide +kernel
/-- Management packets (spec 18 R422): an OP field, body and reply outside their areas, a length not the operation's, an operand bit that must be 0. -/
theorem test_refused_management :
    (Instr.destroy (packet 0x03 1 [])).wellFormed = false ∧ (Instr.destroy { packet 0x02 1 [] with slot := { (packet 0x02 1 []).slot with w1 := 0x800000040 } }).wellFormed = false
    ∧ (Instr.destroy { packet 0x02 1 [] with slot := { (packet 0x02 1 []).slot with w2 := 0x100000 } }).wellFormed = false ∧ (Instr.destroy (packet 0x02 2 [])).wellFormed = false
    ∧ (Instr.destroy (packet 0x02 1 [(0, 1024)])).wellFormed = false ∧ (Instr.destroy { packet 0x02 1 [] with slot := { (packet 0x02 1 []).slot with w3 := 1 } }).wellFormed = false
    := by decide +kernel


/-! States and operands that meet the hypotheses of the statements. -/

/-- An element that is active with context 0 loaded. -/
def elemOn : Elem := { Elem.reset with active := true, loaded := 1 }

/-- The bytes of a number at an address, the zero bytes unlisted. -/
def cellsOf (a n x : Nat) : List Host.Cell := ((leBytes n x).zipIdx.map (fun y => (a + y.2, y.1))).filter (fun y => y.2 ≠ 0)

/-- A state whose focus is slot 0 of context 0 of an element, with its header and routing word. -/
def rig (key hdr rt : Nat) (e : Elem) : State :=
  { State.reset with focus := .slot key 0 0, elems := [(key, e)], mem := cellsOf (imageBase key 0) 8 hdr ++ cellsOf (imageBase key 0 + 8) 8 rt }

/-- The firing of a slot at a rig of that element. -/
def fireAt (s : State) (key : Nat) (f : Slot) : Fire :=
  { key := key, ctx := 0, n := 0, f := f, e := s.elem key, hdr := s.header key 0, rt := s.routing key 0 }

/-- A valid slot that reads d0 and d1 and no queue. -/
def plainSlot : Slot := { blankSlot with val := true, qa := 7, qb := 7, sb := 1 }

/-- The operands of a firing, or an empty one. -/
def noOpnd : Opnd := { pkt := dataPacket 0 0 false [], hdr := HReg.neutral, isConst := false, fixed := false }
def argA (s : State) (fr : Fire) : Opnd := (s.opA fr).getD noOpnd
def argB (s : State) (fr : Fire) : Opnd := (s.opB fr).getD noOpnd

/-- A data entry of unpoisoned lanes of width code lw. -/
def entryOf (lw : BitVec 2) (l : List Nat) : DEntry := (dataPacket lw 0 false (l.map (fun x => (x, false)))).entry

/-- A vector element of i32 with lanes in d0, d1, d2. -/
def vectors (a b c : List Nat) : State := rig 3 2 0 { elemOn with d := [(0, entryOf 2 a), (1, entryOf 2 b), (2, entryOf 2 c)] }

theorem test_integer_pairs : ∃ s f fr a b n, Fires f ownGuard always s fr ∧ s.opA fr = some a ∧ s.opB fr = some b ∧ badWidth (fmtLw fr.fmt) [a, b] = none
    ∧ outLen fr.w [a, b] = some n ∧ n = 8 :=
  let s := vectors [1, 2, 3, 4, 5, 6, 7, 8] [31, 32, 33, 0, 0xFFFFFFFF, 1, 2, 3] []
  let fr := fireAt s 3 plainSlot
  ⟨s, plainSlot, fr, argA s fr, argB s fr, 8, by unfold Fires; decide +kernel⟩
theorem test_integer_singles : ∃ s f fr a n, Fires f ownGuard always s fr ∧ s.opA fr = some a ∧ badWidth (fmtLw fr.fmt) [a] = none ∧ outLen fr.w [a] = some n ∧ fr.md 0 = true :=
  let s := vectors [0x80000000] [] []
  let f : Slot := { plainSlot with md := 1, sb := 0 }
  let fr := fireAt s 3 f
  ⟨s, f, fr, argA s fr, 1, by unfold Fires; decide +kernel⟩
/-- The length-1 operand d0 is broadcast. -/
theorem test_integer_triples : ∃ s f fr a b n, Fires f ownGuard always s fr ∧ s.opA fr = some a ∧ s.opB fr = some b ∧ badWidth (fmtLw fr.fmt) [a, b, fr.opD] = none
    ∧ outLen fr.w [a, b, fr.opD] = some n ∧ n = 2 :=
  let s := vectors [3] [4, 5] [0, 1]
  let f : Slot := { plainSlot with dwe := true, dd := 2 }
  let fr := fireAt s 3 f
  ⟨s, f, fr, argA s fr, argB s fr, 2, by unfold Fires; decide +kernel⟩
/-- MOD 1: a state bit is written, and no lane that takes part is poisoned. -/
theorem test_compares : ∃ s f fr a b n, Fires f ownGuard always s fr ∧ s.opA fr = some a ∧ s.opB fr = some b ∧ badWidth (fmtLw fr.fmt) [a, b] = none
    ∧ outLen fr.w [a, b] = some n ∧ fr.md 0 = true ∧ (fr.md 0 = true → ∀ i < n, fr.active true i = true → (a.bp i || b.bp i) = false) :=
  let s := vectors [3, 5] [4, 5] []
  let f : Slot := { plainSlot with md := 1 }
  let fr := fireAt s 3 f
  ⟨s, f, fr, argA s fr, argB s fr, 2, by unfold Fires; decide +kernel⟩
theorem test_float_compares : ∃ s f fr a b n, Fires f ownGuard always s fr ∧ s.opA fr = some a ∧ s.opB fr = some b ∧ badWidth (fmtLw fr.fmt) [a, b] = none
    ∧ outLen fr.w [a, b] = some n ∧ (fr.md 0 = true → ∀ i < n, fr.active true i = true → (a.bp i || b.bp i) = false) ∧ fr.fmt = 8 :=
  let s := rig 3 8 0 { elemOn with d := [(0, entryOf 2 [0x3F800000]), (1, entryOf 2 [0x7FC00000])] }
  let f : Slot := { plainSlot with md := 3 }
  let fr := fireAt s 3 f
  ⟨s, f, fr, argA s fr, argB s fr, 1, by unfold Fires; decide +kernel⟩
/-- A poisoned lane under a compare that writes a state bit, with EPOL 1 and 0. -/
def poisoned (hdr : Nat) : State := rig 3 hdr 0 { elemOn with d := [(0, (dataPacket 2 0 false [(3, true), (4, false)]).entry), (1, entryOf 2 [3, 4])] }
theorem test_poisoned_predicate (epol : Bool) : ∃ s f fr a b n, Fires f ownGuard always s fr ∧ s.opA fr = some a ∧ s.opB fr = some b ∧ badWidth (fmtLw fr.fmt) [a, b] = none
    ∧ outLen fr.w [a, b] = some n ∧ fr.md 0 = true
    ∧ packFields ((List.range n).map (fun i => (1, bit01 ((a.bp i || b.bp i) && fr.active true i)))) ≠ 0 ∧ fr.epol = epol :=
  let f : Slot := { plainSlot with md := 1 }
  match epol with
  | true =>
    let s := poisoned (2 + 2 ^ 31)
    ⟨s, f, fireAt s 3 f, argA s (fireAt s 3 f), argB s (fireAt s 3 f), 2, by unfold Fires; decide +kernel⟩
  | false =>
    let s := poisoned 2
    ⟨s, f, fireAt s 3 f, argA s (fireAt s 3 f), argB s (fireAt s 3 f), 2, by unfold Fires; decide +kernel⟩
/-- SEL with its bit of st clear reads B. -/
theorem test_fields_sel : ∃ s f fr o, Fires f ownGuard always s fr ∧ (if fr.e.st.getLsbD (fr.imm 13 3) then s.opA fr else s.opB fr) = some o
    ∧ badWidth (fmtLw fr.fmt) [o] = none ∧ fr.imm 13 3 = 5 :=
  let s := vectors [3] [4] []
  let f : Slot := { plainSlot with imm := 0xA000 }
  ⟨s, f, fireAt s 3 f, argB s (fireAt s 3 f), by unfold Fires; decide +kernel⟩
theorem test_fields : ∃ s f fr a b n, Fires f ownGuard always s fr ∧ s.opA fr = some a ∧ badWidth (fmtLw fr.fmt) [a] = none ∧ outLen fr.w [a] = some n
    ∧ s.opB fr = some b ∧ badWidth (fmtLw fr.fmt) [a, b] = none ∧ outLen fr.w [a, b] = some n ∧ fr.imm 4 6 = 63 ∧ fr.imm 10 6 = 63 :=
  let s := vectors [3, 7] [4, 5] []
  let f : Slot := { plainSlot with imm := 0xFFF0 }
  ⟨s, f, fireAt s 3 f, argA s (fireAt s 3 f), argB s (fireAt s 3 f), 2, by unfold Fires; decide +kernel⟩
/-- The last lane of A. -/
theorem test_lane_moves : ∃ s f fr a b, Fires f ownGuard always s fr ∧ s.opA fr = some a ∧ badWidth (fmtLw fr.fmt) [a] = none ∧ fr.imm 4 3 < a.pkt.lanes
    ∧ s.opB fr = some b ∧ badWidth (fmtLw fr.fmt) [a, b] = none ∧ fr.imm 4 3 = 7 :=
  let s := vectors [1, 2, 3, 4, 5, 6, 7, 8] [31] []
  let f : Slot := { plainSlot with imm := 0x0070 }
  ⟨s, f, fireAt s 3 f, argA s (fireAt s 3 f), argB s (fireAt s 3 f), by unfold Fires; decide +kernel⟩
/-- Index 3, the last entry, and the last lane of B and of the destination. -/
theorem test_indexed_moves : ∃ s f fr a x b, Fires f ownGuard always s fr ∧ s.opA fr = some a ∧ a.raw 0 = (x, false) ∧ x ≤ 3 ∧ badWidth (fmtLw fr.fmt) [a] = none
    ∧ (fr.e.dReg x).lw = fmtLw fr.fmt ∧ s.opB fr = some b ∧ badWidth (fmtLw fr.fmt) [a, b] = none ∧ x < b.pkt.lanes ∧ x < fr.opD.pkt.lanes
    ∧ badWidth (fmtLw fr.fmt) [a, b, fr.opD] = none ∧ x = 3 :=
  let s := vectors [3] [4, 5, 6, 7] [8, 9, 10, 11]
  let f : Slot := { plainSlot with dd := 2, dwe := true }
  ⟨s, f, fireAt s 3 f, argA s (fireAt s 3 f), 3, argB s (fireAt s 3 f), by unfold Fires; decide +kernel⟩
/-- Three lanes under MOD[0], whole groups of 3; one lane whose parts fill a packet; a lane that is not in coordinate mode; UNPK from i8. -/
theorem test_pack_reduce : ∃ s f fr a, Fires f ownGuard always s fr ∧ s.opA fr = some a ∧ badWidth (fmtLw fr.fmt) [a] = none ∧ a.pkt.lanes % (if fr.md 0 then 3 else 2) = 0
    ∧ a.pkt.crd = false ∧ a.values = (7, false) :: [(8, false), (9, false)] :=
  let s := vectors [7, 8, 9] [] []
  let f : Slot := { plainSlot with md := 1 }
  ⟨s, f, fireAt s 3 f, argA s (fireAt s 3 f), by unfold Fires; decide +kernel⟩
theorem test_unpack : ∃ s f fr a, Fires f ownGuard always s fr ∧ s.opA fr = some a ∧ badWidth (fmtLw (fr.imm 4 5)) [a] = none ∧ fr.imm 4 5 = 14 ∧ 2 * a.pkt.lanes ≤ maxLanes fr.w
    ∧ a.pkt.lanes = 4 :=
  let s := rig 3 2 0 { elemOn with d := [(0, entryOf 0 [1, 2, 3, 4])] }
  let f : Slot := { plainSlot with imm := 0xE0 }
  ⟨s, f, fireAt s 3 f, argA s (fireAt s 3 f), by unfold Fires; decide +kernel⟩
theorem test_unpack_whole : ∃ s f fr a, Fires f ownGuard always s fr ∧ s.opA fr = some a ∧ badWidth (fmtLw (fr.imm 4 5)) [a] = none ∧ fr.imm 4 5 ≠ 14 ∧ a.pkt.lanes ≤ maxLanes fr.w
    ∧ badWidth (fmtLw fr.fmt) [a] = none ∧ a.pkt.lanes * (if fr.md 0 then 3 else 2) ≤ maxLanes fr.w ∧ a.pkt.lanes = 4 :=
  let s := rig 3 2 0 { elemOn with d := [(0, entryOf 2 [1, 2, 3, 4])] }
  let f : Slot := { plainSlot with imm := 0x20 }
  ⟨s, f, fireAt s 3 f, argA s (fireAt s 3 f), by unfold Fires; decide +kernel⟩
/-- f32 operands: 1.0 and 2.0, and the destination 0.5. -/
def floats : State := rig 3 8 0 { elemOn with d := [(0, entryOf 2 [0x3F800000]), (1, entryOf 2 [0x40000000]), (2, entryOf 2 [0x3F000000])] }
theorem test_floats : ∃ s f fr a b n, Fires f ownGuard always s fr ∧ s.opA fr = some a ∧ s.opB fr = some b ∧ badWidth (fmtLw fr.fmt) [a, b] = none ∧ outLen fr.w [a, b] = some n
    ∧ badWidth (fmtLw fr.fmt) [a] = none ∧ outLen fr.w [a] = some n ∧ badWidth (fmtLw fr.fmt) [a, b, fr.opD] = none ∧ outLen fr.w [a, b, fr.opD] = some n ∧ fr.fmt = 8 :=
  let f : Slot := { plainSlot with dd := 2, dwe := true }
  ⟨floats, f, fireAt floats 3 f, argA floats (fireAt floats 3 f), argB floats (fireAt floats 3 f), 1, by unfold Fires; decide +kernel⟩
/-- From bf16 to f32, as many lanes as fit; from e4m3 to the pair format. -/
theorem test_conversions (pair : Bool) : ∃ s f fr a, Fires f ownGuard always s fr ∧ s.opA fr = some a ∧ badWidth (fmtLw (fr.imm 4 5)) [a] = none
    ∧ (if pair then fr.fmt = 13 ∧ ((a.elements (fr.imm 4 5)).length + 1) / 2 ≤ maxLanes fr.w else fr.fmt ≠ 13 ∧ (a.elements (fr.imm 4 5)).length ≤ maxLanes fr.w)
    ∧ (a.elements (fr.imm 4 5)).length = 8 :=
  match pair with
  | false =>
    let s := rig 3 8 0 { elemOn with d := [(0, entryOf 1 [1, 2, 3, 4, 5, 6, 7, 8])] }
    let f : Slot := { plainSlot with imm := 0x90 }
    ⟨s, f, fireAt s 3 f, argA s (fireAt s 3 f), by unfold Fires; decide +kernel⟩
  | true =>
    let s := rig 3 13 0 { elemOn with d := [(0, entryOf 0 [1, 2, 3, 4, 5, 6, 7, 8])] }
    let f : Slot := { plainSlot with imm := 0xB0 }
    ⟨s, f, fireAt s 3 f, argA s (fireAt s 3 f), by unfold Fires; decide +kernel⟩

theorem test_align : ∃ (s : State) (f : Slot) (fr : Fire) (a b : Opnd) (n : Nat) (ys : List (Nat × Bool)), Fires f ownGuard always s fr ∧ s.opA fr = some a ∧ s.opB fr = some b ∧ badWidth (fmtLw fr.fmt) [a, b] = none ∧ outLen fr.w [a, b] = some n
    ∧ (fr.md 0 = true → badWidth (fmtLw fr.fmt) [fr.opD] = none) ∧ (a.elements fr.fmt).length ≤ 8
    ∧ (a.elements fr.fmt).map (fun x => alignElem fr.fmt (a.value fr.fmt x.1) x.2 (b.bp 0) (b.int 0)) = ys.map some ∧ ys.length = 1 :=
  let s := rig 3 8 0 { elemOn with d := [(0, entryOf 2 [0x3F800000]), (1, entryOf 2 [4])] }
  let f : Slot := { plainSlot with md := 1, dwe := true }
  let fr := fireAt s 3 f
  let a := argA s fr
  let b := argB s fr
  ⟨s, f, fr, a, b, 1, (a.elements fr.fmt).filterMap (fun x => alignElem fr.fmt (a.value fr.fmt x.1) x.2 (b.bp 0) (b.int 0)), by unfold Fires; decide +kernel⟩
/-- The scale exponent 254, the largest, and 0. -/
theorem test_align_header (low : Bool) : ∃ s f fr b, Fires f ownGuard always s fr ∧ s.opB fr = some b ∧ b.bp 0 = false
    ∧ b.int 0 - serialWidth fr.fmt + 128 = (if low then 0 else 254) :=
  match low with
  | true =>
    let s := rig 3 8 0 { elemOn with d := [(1, entryOf 2 [0xFFFFFF88])] }
    ⟨s, plainSlot, fireAt s 3 plainSlot, argB s (fireAt s 3 plainSlot), by unfold Fires; decide +kernel⟩
  | false =>
    let s := rig 3 8 0 { elemOn with d := [(1, entryOf 2 [134])] }
    ⟨s, plainSlot, fireAt s 3 plainSlot, argB s (fireAt s 3 plainSlot), by unfold Fires; decide +kernel⟩
/-- LUTE over one lane; in pair mode over an even count. LUTI of entries 0 and 255; RRED of four lanes; RCOMB; LCLAMP with two lanes of B. -/
theorem test_lookup (pair : Bool) : ∃ s f fr a b n, Fires f ownGuard always s fr ∧ s.opA fr = some a ∧ badWidth (fmtLw fr.fmt) [a] = none ∧ outLen fr.w [a] = some n
    ∧ fr.md 0 = pair ∧ a.pkt.lanes % 2 = 0 ∧ (∀ x ∈ a.values, x.2 = false → x.1 ≤ 255) ∧ 2 * a.pkt.lanes ≤ maxLanes fr.w ∧ f.md.toNat % 4 ≠ 3
    ∧ s.opB fr = some b ∧ badWidth (fmtLw fr.fmt) [a, b] = none ∧ 2 ≤ b.pkt.lanes :=
  let s := rig 88 8 0 { elemOn with d := [(0, entryOf 2 [0, 255, 7, 9]), (1, entryOf 2 [0, 0x3F800000])] }
  match pair with
  | true => let f : Slot := { plainSlot with md := 1 }; ⟨s, f, fireAt s 88 f, argA s (fireAt s 88 f), argB s (fireAt s 88 f), 4, by unfold Fires; decide +kernel⟩
  | false => let f := plainSlot; ⟨s, f, fireAt s 88 f, argA s (fireAt s 88 f), argB s (fireAt s 88 f), 4, by unfold Fires; decide +kernel⟩
/-- LUTW of entries 256, a sound TC0, and 257. -/
theorem test_table_write : ∃ s f fr a b, Fires f ownGuard always s fr ∧ s.opA fr = some a ∧ s.opB fr = some b ∧ badWidth 3 [a] = none ∧ b.bp 0 = false
    ∧ b.nat 0 + a.pkt.lanes - 1 = 257
    ∧ ((((List.range a.pkt.lanes).map a.raw).zipIdx).any (fun x => b.nat 0 + x.2 = 256 && tc0Bad x.1.1) = false) :=
  let s := rig 88 8 0 { elemOn with d := [(0, entryOf 3 [0x3F800000, 5]), (1, entryOf 2 [256])] }
  ⟨s, plainSlot, fireAt s 88 plainSlot, argA s (fireAt s 88 plainSlot), argB s (fireAt s 88 plainSlot), by unfold Fires; decide +kernel⟩

/-- A slot that reads the head of queue 0 of any kind and pops it. -/
def headSlot : Slot := { blankSlot with val := true, qb := 7, sa := 4, sb := 1, ka := 3, dqa := true }
/-- An element whose queue 0 holds a packet. -/
def headed (p : Packet) (e : Elem) : State := rig 3 2 0 (({ e with active := true, loaded := 1 } : Elem).setQueue 0 [p])
def dataHead (tag : BitVec 3) (n : Nat) : Packet := dataPacket 2 tag false ((List.range n).map (fun i => (i, false)))
/-- Whether a slot on a head fires with that head as operand A of the slot's width. -/
def heads (f : Slot) (p : Packet) (e : Elem) : Prop :=
  ∃ a, Fires f ownGuard always (headed p e) (fireAt (headed p e) 3 f) ∧ (headed p e).opA (fireAt (headed p e) 3 f) = some a
    ∧ badWidth (fmtLw (fireAt (headed p e) 3 f).fmt) [a] = none ∧ a.pkt = p
theorem heads_of {f p e} (h : (headed p e).fireOf f = some (fireAt (headed p e) 3 f) ∧ (headed p e).canFire (fireAt (headed p e) 3 f) ownGuard always = true
    ∧ (headed p e).opA (fireAt (headed p e) 3 f) = some (argA (headed p e) (fireAt (headed p e) 3 f))
    ∧ badWidth (fmtLw (fireAt (headed p e) 3 f).fmt) [argA (headed p e) (fireAt (headed p e) 3 f)] = none
    ∧ (argA (headed p e) (fireAt (headed p e) 3 f)).pkt = p) : heads f p e := ⟨_, ⟨h.1, h.2.1⟩, h.2.2.1, h.2.2.2.1, h.2.2.2.2⟩

/-- EOSE on a DATA head; on an EOS raised, lowered to 0, and dropped; the two outputs of STEER by a state bit and by data. -/
theorem test_eose : heads headSlot (dataHead 0 2) elemOn ∧ heads { headSlot with imm := 7 } (eosPacket 2 7) elemOn
    ∧ heads { headSlot with md := 1, imm := 3 } (eosPacket 2 3) elemOn ∧ heads { headSlot with md := 1, imm := 4 } (eosPacket 2 3) elemOn :=
  ⟨heads_of (by decide +kernel), heads_of (by decide +kernel), heads_of (by decide +kernel), heads_of (by decide +kernel)⟩
theorem test_steer : ∃ s f fr a b, Fires f ownGuard always s fr ∧ s.opA fr = some a ∧ badWidth (fmtLw fr.fmt) [a] = none ∧ fr.md 1 = false ∧ s.opB fr = some b
    ∧ (b.raw 0).2 = false ∧ (b.raw 0).1 ≠ 0 ∧ fr.e.st.getLsbD (fr.imm 13 3) = true ∧ lowOut f.om ≠ highOut f.om :=
  let s := rig 3 2 0 { elemOn with st := 32, d := [(0, entryOf 2 [5]), (1, entryOf 2 [6])] }
  let f : Slot := { plainSlot with om := 3, imm := 0xA000 }
  ⟨s, f, fireAt s 3 f, argA s (fireAt s 3 f), argB s (fireAt s 3 f), by unfold Fires; decide +kernel⟩
theorem test_steer_low : ∃ s f fr a b, Fires f ownGuard always s fr ∧ s.opA fr = some a ∧ badWidth (fmtLw fr.fmt) [a] = none ∧ fr.md 1 = false ∧ s.opB fr = some b
    ∧ (b.raw 0).2 = false ∧ (b.raw 0).1 = 0 ∧ fr.e.st.getLsbD (fr.imm 13 3) = false ∧ lowOut f.om ≠ highOut f.om :=
  let s := rig 3 2 0 { elemOn with d := [(0, entryOf 2 [5]), (1, entryOf 2 [0])] }
  let f : Slot := { plainSlot with om := 3 }
  ⟨s, f, fireAt s 3 f, argA s (fireAt s 3 f), argB s (fireAt s 3 f), by unfold Fires; decide +kernel⟩
/-- DROP: silent; counting an ERR head. -/
theorem test_drop : heads { headSlot with md := 1, sb := 0 } (dataHead 0 1) elemOn ∧ heads { headSlot with sb := 0 } (errToken 3 0 0 0 0x24 0 0) elemOn :=
  ⟨heads_of (by decide +kernel), heads_of (by decide +kernel)⟩
/-- MERGE: no packet kept; one that still fits exactly; one of another tag; a token behind a kept packet; a token alone. -/
theorem test_merge : heads headSlot (dataHead 1 2) elemOn ∧ heads headSlot (dataHead 1 2) { elemOn with merge := some (dataHead 1 6) }
    ∧ heads headSlot (dataHead 1 2) { elemOn with merge := some (dataHead 1 7) } ∧ heads headSlot (eosPacket 2 0) { elemOn with merge := some (dataHead 1 7) }
    ∧ heads headSlot (eosPacket 2 0) elemOn :=
  ⟨heads_of (by decide +kernel), heads_of (by decide +kernel), heads_of (by decide +kernel), heads_of (by decide +kernel), heads_of (by decide +kernel)⟩
/-- SPLIT of DATA and of a token; COUNT of DATA, at an EOS of its level and below it; DELAY of DATA and of a token, with B of the slot's width. -/
theorem test_split_count : heads { headSlot with imm := 1 } (dataHead 1 3) { elemOn with split := 2 } ∧ heads headSlot (eosPacket 2 0) elemOn
    ∧ heads { headSlot with imm := 1 } (eosPacket 2 1) { elemOn with count := 5 } ∧ heads { headSlot with imm := 1 } (eosPacket 2 0) elemOn :=
  ⟨heads_of (by decide +kernel), heads_of (by decide +kernel), heads_of (by decide +kernel), heads_of (by decide +kernel)⟩
theorem test_delay : ∃ s f fr a b, Fires f ownGuard always s fr ∧ s.opA fr = some a ∧ badWidth (fmtLw fr.fmt) [a] = none ∧ s.opB fr = some b ∧ badWidth (fmtLw fr.fmt) [a, b] = none
    ∧ a.pkt.isData = true ∧ fr.carryFlag = true :=
  let s := headed (dataHead 2 1) { elemOn with carry := 1 }
  let f : Slot := { headSlot with om := 1, dwe := true }
  ⟨s, f, fireAt s 3 f, argA s (fireAt s 3 f), argB s (fireAt s 3 f), by unfold Fires; decide +kernel⟩
theorem test_delay_token : ∃ s f fr a b, Fires f ownGuard always s fr ∧ s.opA fr = some a ∧ badWidth (fmtLw fr.fmt) [a] = none ∧ s.opB fr = some b ∧ badWidth (fmtLw fr.fmt) [a, b] = none
    ∧ a.pkt.isData = false :=
  let s := headed (eosPacket 2 0) elemOn
  let f : Slot := { headSlot with om := 1, dwe := true }
  ⟨s, f, fireAt s 3 f, argA s (fireAt s 3 f), argB s (fireAt s 3 f), by unfold Fires; decide +kernel⟩
/-- CARRY with its flag clear needs no head of QB, and with its flag set none of QA. -/
theorem test_carry : ∃ s f fr a, Fires f carryGuard always s fr ∧ fr.e.carry.getLsbD fr.n = false ∧ s.opA fr = some a ∧ badWidth (fmtLw fr.fmt) [a] = none :=
  let s := headed (dataHead 2 1) elemOn
  let f : Slot := { headSlot with qb := 1, sb := 5, om := 1 }
  ⟨s, f, fireAt s 3 f, argA s (fireAt s 3 f), by unfold Fires; decide +kernel⟩
theorem test_carry_set : ∃ s f fr b, Fires f carryGuard always s fr ∧ fr.e.carry.getLsbD fr.n = true ∧ s.opB fr = some b ∧ badWidth (fmtLw fr.fmt) [b] = none :=
  let s := rig 3 2 0 (({ elemOn with carry := 1 } : Elem).setQueue 1 [eosPacket 2 3])
  let f : Slot := { headSlot with qb := 1, sb := 5, kb := 3, om := 1, imm := 3 }
  ⟨s, f, fireAt s 3 f, argB s (fireAt s 3 f), by unfold Fires; decide +kernel⟩
/-- SINK: DATA, ERR, an EOS that is not the last, and the last. -/
theorem test_sink : heads headSlot (dataHead 0 1) elemOn ∧ heads headSlot (errToken 3 0 0 0 0x24 0 0) elemOn ∧ heads { headSlot with imm := 1 } (eosPacket 2 0) elemOn
    ∧ (∃ b, ({ headed (eosPacket 2 0) elemOn with regions := [(0, { Region.reset with state := .running, nrows := 8, ncols := 16 })] } : State).regionOf 3 = some b) :=
  ⟨heads_of (by decide +kernel), heads_of (by decide +kernel), heads_of (by decide +kernel), 0, by decide +kernel⟩
theorem test_sink_last : ∃ s f fr a b, Fires f ownGuard always s fr ∧ s.opA fr = some a ∧ fr.e.reported = false ∧ a.pkt.kind = kEos ∧ hdrSnkl fr.hdr ≤ a.pkt.tag.toNat
    ∧ f.imm.toNat + 1 ≤ fr.e.sinkc + 1 ∧ s.regionOf fr.key = some b :=
  let s : State := { headed (eosPacket 2 0) elemOn with regions := [(0, { Region.reset with state := .running, nrows := 8, ncols := 16 })] }
  ⟨s, headSlot, fireAt s 3 headSlot, argA s (fireAt s 3 headSlot), 0, by unfold Fires; decide +kernel⟩
/-- A task of 128 bits, for the last core. -/
theorem test_tasks : ∃ s f fr a b c, Fires f ownGuard always s fr ∧ s.opA fr = some a ∧ badWidth (fmtLw fr.fmt) [a] = none ∧ a.pkt.lanes * a.pkt.width = 128
    ∧ s.opB fr = some b ∧ b.raw 0 = (c, false) ∧ c = 383 :=
  let s := rig 3 2 0 { elemOn with d := [(0, entryOf 2 [1, 2, 3, 4]), (1, entryOf 2 [383])] }
  let f : Slot := { plainSlot with om := 32 }
  ⟨s, f, fireAt s 3 f, argA s (fireAt s 3 f), argB s (fireAt s 3 f), 383, by unfold Fires; decide +kernel⟩
/-- REPAIR back to element 3 of core 0, inside the region. -/
theorem test_repair : ∃ s f fr a b blk, Fires f ownGuard always s fr ∧ s.opA fr = some a ∧ s.opB fr = some b ∧ badWidth (fmtLw fr.fmt) [b] = none ∧ s.regionOf fr.key = some blk
    ∧ a.pkt.pay.toNat / 2 ^ 23 % 2 ^ 9 = fr.core ∧ (s.region blk).covers (a.pkt.pay.toNat / 2 ^ 16 % 2 ^ 7) = true ∧ a.pkt.pay.toNat / 2 ^ 16 % 2 ^ 7 = 127 :=
  let s : State := { headed (errToken 127 0 0 0 0x24 0 0) { elemOn with d := [(1, entryOf 2 [9])] } with
    regions := [(0, { Region.reset with state := .running, nrows := 8, ncols := 16 })] }
  let f : Slot := { headSlot with om := 32 }
  ⟨s, f, fireAt s 3 f, argA s (fireAt s 3 f), argB s (fireAt s 3 f), 0, by unfold Fires; decide +kernel⟩
theorem test_errt : ∃ s f fr a, Fires f ownGuard always s fr ∧ s.opA fr = some a ∧ badWidth (fmtLw fr.fmt) [a] = none ∧ (a.pkt.isData = true → a.pkt.lw = 2) :=
  let s := rig 3 2 0 { elemOn with d := [(0, entryOf 2 [1])] }
  ⟨s, plainSlot, fireAt s 3 plainSlot, argA s (fireAt s 3 plainSlot), by unfold Fires; decide +kernel⟩
/-- TIME in 64-bit and in 32-bit lanes. -/
theorem test_time (wide : Bool) : ∃ s f fr, Fires f ownGuard always s fr ∧ (if wide then fr.w = 64 else fr.w ≠ 64) :=
  match wide with
  | true => let s := rig 3 3 0 elemOn; ⟨s, plainSlot, fireAt s 3 plainSlot, by unfold Fires; decide +kernel⟩
  | false => let s := rig 3 2 0 elemOn; ⟨s, plainSlot, fireAt s 3 plainSlot, by unfold Fires; decide +kernel⟩
/-- TRAP in a region without a trap, its guard met; and its guard not met. -/
theorem test_trap : ∃ (s : State) (f : Slot) (fr : Fire) (a : Opnd) (b : Nat), s.canonical = true ∧ s.fireOf f = some fr ∧ s.canFire fr ownGuard always = true ∧ s.opA fr = some a ∧ s.regionOf fr.key = some b
    ∧ (s.region b).tv = false ∧ fr.md 0 = true :=
  let s : State := { vectors [7] [] [] with regions := [(0, { Region.reset with state := .running, nrows := 8, ncols := 16 })] }
  let f : Slot := { plainSlot with md := 1, imm := 0x70 }
  ⟨s, f, fireAt s 3 f, argA s (fireAt s 3 f), 0, by decide +kernel⟩
theorem test_trap_idle : ∃ (s : State) (f : Slot) (fr : Fire), s.canonical = true ∧ s.fireOf f = some fr ∧ s.canFire fr ownGuard always = false :=
  let s := vectors [7] [] []
  let f : Slot := { plainSlot with sm := 1, sv := 1 }
  ⟨s, f, fireAt s 3 f, by decide +kernel⟩


/-- A generator or table descriptor (spec 04 R86): base, lane width code, lanes, first count − 1 and its stride. -/
def genWord (base lw lanes cntm stride : Nat) : KReg :=
  { val := BitVec.ofNat 256 (base + lw * 2 ^ 48 + (lanes - 1) * 2 ^ 50 + cntm * 2 ^ 64 + stride * 2 ^ 80), pois := 0 }
/-- A scratchpad element with a table of i32 entries 0 to 3 in k0. -/
def pad (e : Elem) : State := rig 1 2 0 { e with active := true, loaded := 1, k := [(0, genWord 0x100 2 2 3 4)] }

/-- SLD of the last lane of a line; SLDS with its wrap bit; SGTH of the last entry and a poisoned index. -/
theorem test_scratch_loads : ∃ s f fr x, Fires f ownGuard Fire.readySld s fr ∧ Fires f ownGuard Fire.readySlds s fr ∧ Fires f ownGuard Fire.readySgth s fr ∧ s.opA fr = some x
    ∧ (((List.range x.pkt.lanes).map x.raw).any (fun i => !i.2 && decide (fr.desc.cntm 0 < i.1)) = false) ∧ x.raw 0 = (3, false) ∧ x.raw 1 = (9, true) :=
  let s := pad { elemOn with d := [(0, (dataPacket 2 0 false [(3, false), (9, true)]).entry)], pend := [(2, 0, 0)] }
  let f : Slot := { plainSlot with md := 2, imm := 60 }
  ⟨s, f, fireAt s 1 f, argA s (fireAt s 1 f), by unfold Fires; decide +kernel⟩
/-- SST of the last two lanes of the scratchpad, and with a poisoned lane beyond its end. -/
theorem test_scratch_store (beyond : Bool) : ∃ s f fr a, Fires f ownGuard Fire.readySst s fr ∧ s.opA fr = some a ∧ badWidth (fmtLw fr.fmt) [a] = none
    ∧ (((((List.range a.pkt.lanes).map a.raw).zipIdx).map (fun x => (fr.imm 0 15 + x.2 * (fr.w / 8), x.1))).filter (fun x => decide (32768 < x.1 + fr.w / 8) && !x.2.2) = [])
    ∧ fr.imm 0 15 = (if beyond then 32764 else 32760) :=
  match beyond with
  | false =>
    let s := pad { elemOn with d := [(0, entryOf 2 [3, 9])] }
    let f : Slot := { plainSlot with imm := 32760 }
    ⟨s, f, fireAt s 1 f, argA s (fireAt s 1 f), by unfold Fires; decide +kernel⟩
  | true =>
    let s := pad { elemOn with d := [(0, (dataPacket 2 0 false [(3, false), (9, true)]).entry)] }
    let f : Slot := { plainSlot with imm := 32764 }
    ⟨s, f, fireAt s 1 f, argA s (fireAt s 1 f), by unfold Fires; decide +kernel⟩
theorem test_scratch_stores : ∃ s f fr a, Fires f ownGuard Fire.readySsts s fr ∧ Fires f ownGuard Fire.readySzero s fr ∧ s.opA fr = some a ∧ badWidth (fmtLw fr.fmt) [a] = none
    ∧ a.pkt.lanes = fr.desc.lanes :=
  let s := pad { elemOn with d := [(0, entryOf 2 [3, 9])] }
  ⟨s, plainSlot, fireAt s 1 plainSlot, argA s (fireAt s 1 plainSlot), by unfold Fires; decide +kernel⟩
/-- SSCT and SAMO of the last entry and of a poisoned index. -/
theorem test_scatter : ∃ s f fr x b n, Fires f ownGuard Fire.storeReady s fr ∧ s.opA fr = some x ∧ s.opB fr = some b ∧ badWidth (fmtLw fr.fmt) [b] = none ∧ outLen fr.w [x, b] = some n
    ∧ (((List.range n).map (fun i => (x.bl i, x.bp i))).any (fun i => !i.2 && decide (fr.desc.cntm 0 < i.1)) = false)
    ∧ (∀ i < n, x.bp i = false → x.bl i ≤ fr.desc.cntm 0) ∧ n = 2 :=
  let s := pad { elemOn with d := [(0, (dataPacket 2 0 false [(3, false), (9, true)]).entry), (1, entryOf 2 [7])] }
  ⟨s, plainSlot, fireAt s 1 plainSlot, argA s (fireAt s 1 plainSlot), argB s (fireAt s 1 plainSlot), 2, by unfold Fires; decide +kernel⟩
/-- PQIN that fills the queue to its last place: a packet in coordinate mode. -/
theorem test_pqin : ∃ s f fr a, Fires f ownGuard Fire.readyPqin s fr ∧ s.opA fr = some a ∧ badWidth (fmtLw fr.fmt) [a] = none ∧ a.pkt.crd = true ∧ a.entries.length = 2 :=
  let s := rig 1 2 0 (elemOn.setQueue 0 [dataPacket 2 0 true [(5, false), (6, false), (7, true), (8, false)]])
  ⟨s, headSlot, fireAt s 1 headSlot, argA s (fireAt s 1 headSlot), by unfold Fires; decide +kernel⟩
/-- PQOUT without a bound on an empty queue under MOD[0], and with a bound that the front entry meets. -/
theorem test_pqout : (∃ s f fr, Fires f ownGuard Fire.readyPqout s fr ∧ fr.md 1 = false ∧ fr.e.pq = [])
    ∧ ∃ s f fr b, Fires f ownGuard Fire.readyPqout s fr ∧ fr.md 1 = true ∧ s.opB fr = some b ∧ b.pkt.lw = 2 ∧ b.bp 0 = false ∧ fr.e.pq.length = 1 :=
  ⟨let s := pad elemOn
   let f : Slot := { plainSlot with md := 1, sb := 0 }
   ⟨s, f, fireAt s 1 f, by unfold Fires; decide +kernel⟩,
   let s := pad { elemOn with d := [(1, entryOf 2 [5])], pq := [{ key := 5, val := 6, pois := false }] }
   let f : Slot := { plainSlot with md := 2 }
   ⟨s, f, fireAt s 1 f, argB s (fireAt s 1 f), by unfold Fires; decide +kernel⟩⟩
/-- DELTA of a token, and of a pair in coordinate mode at the table's last entry. -/
theorem test_delta : (∃ s f fr a, Fires f ownGuard Fire.readyDelta s fr ∧ s.opA fr = some a ∧ a.pkt.isData = false)
    ∧ ∃ s f fr a, Fires f ownGuard Fire.readyDelta s fr ∧ s.opA fr = some a ∧ a.pkt.isData = true ∧ a.pkt.crd = true ∧ badWidth (fmtLw fr.fmt) [a] = none
      ∧ (∀ i < a.pkt.lanes, i % 2 = 0 → (a.raw i).2 = false → (a.raw i).1 ≤ fr.desc.cntm 0) ∧ a.pkt.lanes = 2 :=
  ⟨let s := rig 1 2 0 (elemOn.setQueue 0 [eosPacket 2 0])
   ⟨s, headSlot, fireAt s 1 headSlot, argA s (fireAt s 1 headSlot), by unfold Fires; decide +kernel⟩,
   let s := pad (elemOn.setQueue 0 [dataPacket 2 0 true [(3, false), (6, false)]])
   ⟨s, headSlot, fireAt s 1 headSlot, argA s (fireAt s 1 headSlot), by unfold Fires; decide +kernel⟩⟩

/-- A stream element of process 1, whose virtual addresses 0 to 1 GiB lie at 0x4000_0000, with a table of four i32 entries in k0. -/
def stream (e : Elem) : State :=
  { rig 0 2 0 { e with active := true, loaded := 1, k := [(0, genWord 0x100 2 1 3 4)] } with
    regions := [(0, { Region.reset with state := .running, tcid := 1, nrows := 8, ncols := 16 })]
    tlb := [(384, [{ tcid := 1, vpage := 0, size := 2, leaf := ringLeaf 0 }])] }
/-- What a check answers. -/
def got {ε α : Type} (x : Except ε (List α)) : List α := match x with | .ok l => l | .error _ => []
/-- Index 3, the last of the table, and data 7; order bits in md. -/
def streamed : State := stream { elemOn with d := [(0, entryOf 2 [3]), (1, entryOf 2 [7])] }

theorem test_stream_loads : ∃ s f fr x ps qs, Fires f ownGuard always s fr ∧ s.opA fr = some x
    ∧ (((List.range x.pkt.lanes).map x.raw).any (fun i => !i.2 && decide (fr.desc.cntm 0 < i.1)) = false)
    ∧ s.located (s.fabWho fr.key 0) .read fr.affine.zipIdx = .ok ps ∧ s.locatedAll (s.fabWho fr.key 0) .read (fr.indexItems ((List.range x.pkt.lanes).map x.raw)) = .ok qs
    ∧ ps.length = 1 ∧ qs.length = 1 :=
  let f : Slot := { plainSlot with om := 1 }
  let fr := fireAt streamed 0 f
  let x := argA streamed fr
  ⟨streamed, f, fr, x, got (streamed.located (streamed.fabWho fr.key 0) .read fr.affine.zipIdx),
   got (streamed.locatedAll (streamed.fabWho fr.key 0) .read (fr.indexItems ((List.range x.pkt.lanes).map x.raw))), by unfold Fires; decide +kernel⟩
theorem test_stream_store : ∃ s f fr a ps st, Fires f ownGuard always s fr ∧ s.opA fr = some a ∧ badWidth (fmtLw fr.fmt) [a] = none ∧ a.pkt.lanes = fr.desc.lanes
    ∧ s.located (s.fabWho fr.key 0) .write fr.affine.zipIdx = .ok ps
    ∧ storesAt (s.fabWho fr.key 0) (markedBytes fr.desc.laneBytes ((List.range a.pkt.lanes).map a.raw)) ps = .ok st ∧ st.length = 1 :=
  let fr := fireAt streamed 0 plainSlot
  let a := argA streamed fr
  let w := streamed.fabWho fr.key 0
  let ps := got (streamed.located w .write fr.affine.zipIdx)
  ⟨streamed, plainSlot, fr, a, ps, got (storesAt w (markedBytes fr.desc.laneBytes ((List.range a.pkt.lanes).map a.raw)) ps), by unfold Fires; decide +kernel⟩
theorem test_stream_scatter : ∃ s f fr x b n ps st, Fires f ownGuard always s fr ∧ s.opA fr = some x ∧ s.opB fr = some b ∧ badWidth (fmtLw fr.fmt) [b] = none
    ∧ outLen fr.w [x, b] = some n ∧ (((List.range n).map (fun i => (x.bl i, x.bp i))).any (fun i => !i.2 && decide (fr.desc.cntm 0 < i.1)) = false)
    ∧ s.locatedAll (s.fabWho fr.key 0) .write (fr.indexItems ((List.range n).map (fun i => (x.bl i, x.bp i)))) = .ok ps
    ∧ storesAt (s.fabWho fr.key 0) (markedBytes fr.desc.laneBytes ((List.range n).map (fun i => (b.bl i, b.bp i)))) ps = .ok st ∧ st.length = 1 :=
  let fr := fireAt streamed 0 plainSlot
  let x := argA streamed fr
  let b := argB streamed fr
  let w := streamed.fabWho fr.key 0
  let ps := got (streamed.locatedAll w .write (fr.indexItems ((List.range 1).map (fun i => (x.bl i, x.bp i)))))
  ⟨streamed, plainSlot, fr, x, b, 1, ps, got (storesAt w (markedBytes fr.desc.laneBytes ((List.range 1).map (fun i => (b.bl i, b.bp i)))) ps), by unfold Fires; decide +kernel⟩
/-- LDA.sc, STA.sc with nothing pending, at the last entry of the table. -/
theorem test_ordered : ∃ s f fr x b ps qs st, Fires f ownGuard always s fr ∧ s.opA fr = some x ∧ x.bp 0 = false ∧ x.nat 0 = fr.desc.cntm 0 ∧ fr.order = 3
    ∧ s.located (s.fabWho fr.key fr.scope) .read (fr.desc.entry (x.nat 0)).zipIdx = .ok ps ∧ s.lacking fr.e.asks (ps.map (fun p => p.2)) = []
    ∧ s.mustWait fr.key false (if fr.order = 3 then some fr.scope else none) ps = false ∧ ps.any (fun p => (s.gatedFor p.2.x.pkg p.2.x.pa).isSome) = false
    ∧ s.cutPiece (ps.map (fun p => p.2)) = none ∧ s.opB fr = some b ∧ badWidth (fmtLw fr.fmt) [b] = none
    ∧ s.located (s.fabWho fr.key fr.scope) .write (fr.desc.entry (x.nat 0)).zipIdx = .ok qs
    ∧ storesAt (s.fabWho fr.key fr.scope) (markedBytes fr.desc.laneBytes [(b.bl 0, b.bp 0)]) qs = .ok st ∧ (fr.order = 3 → s.unperformed fr.key fr.scope = []) ∧ st.length = 1 :=
  let f : Slot := { plainSlot with md := 3, imm := 0xC000 }
  let fr := fireAt streamed 0 f
  let x := argA streamed fr
  let b := argB streamed fr
  let w := streamed.fabWho fr.key fr.scope
  let qs := got (streamed.located w .write (fr.desc.entry (x.nat 0)).zipIdx)
  ⟨streamed, f, fr, x, b, got (streamed.located w .read (fr.desc.entry (x.nat 0)).zipIdx), qs, got (storesAt w (markedBytes fr.desc.laneBytes [(b.bl 0, b.bp 0)]) qs),
   by unfold Fires; decide +kernel⟩
theorem test_amo : ∃ s f fr x b p l, Fires f ownGuard always s fr ∧ s.opA fr = some x ∧ x.bp 0 = false ∧ x.nat 0 ≤ fr.desc.cntm 0 ∧ s.opB fr = some b
    ∧ badWidth (fmtLw fr.fmt) [b] = none ∧ fr.imm 4 4 ≠ 9 ∧ s.checkPart (s.fabWho fr.key fr.scope) .atomic ((fr.desc.entry (x.nat 0)).headD 0) fr.desc.laneBytes = .ok (p :: l)
    ∧ p.x.pkg = s.pkgNum ∧ atomicRefused p.x.pa (fr.imm 4 4) = false ∧ s.mustWait fr.key true fr.amoFence [(0, p)] = false ∧ s.gatedFor p.x.pkg p.x.pa = none ∧ s.cutPiece [p] = none :=
  let f : Slot := { plainSlot with imm := 0x8000 }
  let fr := fireAt streamed 0 f
  let x := argA streamed fr
  let none : Piece := ⟨⟨0, 0, false, 0⟩, 0, 0⟩
  let ps := got (streamed.checkPart (streamed.fabWho fr.key fr.scope) .atomic ((fr.desc.entry (x.nat 0)).headD 0) fr.desc.laneBytes)
  ⟨streamed, f, fr, x, argB streamed fr, ps.headD none, ps.drop 1, by unfold Fires; decide +kernel⟩
/-- MCST of 64 bits. -/
theorem test_multicast : ∃ s f fr a b ps st, Fires f ownGuard always s fr ∧ s.opA fr = some a ∧ s.opB fr = some b ∧ badWidth (fmtLw fr.fmt) [a] = none
    ∧ a.pkt.lanes * a.pkt.width = 64 ∧ b.bp 0 = false ∧ b.nat 0 ≤ fr.desc.cntm 0
    ∧ s.located (s.fabWho fr.key fr.scope) .write ((List.range (a.pkt.lanes * a.pkt.width / 8)).map (fun (j : Nat) => ((fr.desc.entry (b.nat 0)).headD 0 + (j : Int), j))) = .ok ps
    ∧ storesAt (s.fabWho fr.key fr.scope) (markedBytes (a.pkt.width / 8) ((List.range a.pkt.lanes).map a.raw)) ps = .ok st :=
  let s := stream { elemOn with d := [(0, entryOf 2 [3, 4]), (1, entryOf 2 [2])] }
  let f : Slot := { plainSlot with imm := 0x8000 }
  let fr := fireAt s 0 f
  let a := argA s fr
  let b := argB s fr
  let w := s.fabWho fr.key fr.scope
  let ps := got (s.located w .write ((List.range (a.pkt.lanes * a.pkt.width / 8)).map (fun (j : Nat) => ((fr.desc.entry (b.nat 0)).headD 0 + (j : Int), j))))
  ⟨s, f, fr, a, b, ps, got (storesAt w (markedBytes (a.pkt.width / 8) ((List.range a.pkt.lanes).map a.raw)) ps), by unfold Fires; decide +kernel⟩
/-- The four orders of FENCE. -/
theorem test_fences : ∀ o ∈ [1, 2, 3], ∃ s f fr, Fires f ownGuard always s fr ∧ fr.order = o ∧ s.unperformed fr.key fr.scope = [] := by
  intro o ho
  simp only [List.mem_cons, List.not_mem_nil, or_false] at ho
  rcases ho with rfl | rfl | rfl
  · exact ⟨streamed, { plainSlot with md := 1 }, fireAt streamed 0 { plainSlot with md := 1 }, by unfold Fires; decide +kernel⟩
  · exact ⟨streamed, { plainSlot with md := 2 }, fireAt streamed 0 { plainSlot with md := 2 }, by unfold Fires; decide +kernel⟩
  · exact ⟨streamed, { plainSlot with md := 3 }, fireAt streamed 0 { plainSlot with md := 3 }, by unfold Fires; decide +kernel⟩
/-- A load of this element on its way to another package. -/
def sentLoad : Access :=
  { id := 4, key := 0, op := .load 0 0, pkg := 1, pa := 0x40000000, size := 4, kid := 0, noAlloc := false, tcid := 1, va := 0, after := [], sent := true }
/-- AMO at another package once it has answered with the old value. -/
theorem test_amo_far : ∃ s f fr x b p l, Fires f ownGuard always s fr ∧ s.opA fr = some x ∧ x.bp 0 = false ∧ x.nat 0 ≤ fr.desc.cntm 0 ∧ s.opB fr = some b
    ∧ badWidth (fmtLw fr.fmt) [b] = none ∧ (fr.imm 4 4 = 9 → b.count = 2) ∧ s.checkPart (s.fabWho fr.key fr.scope) .atomic ((fr.desc.entry (x.nat 0)).headD 0) fr.desc.laneBytes = .ok (p :: l)
    ∧ (p.x.pkg = s.pkgNum → atomicRefused p.x.pa (fr.imm 4 4) = false) ∧ s.mustWait fr.key true fr.amoFence [(0, p)] = false ∧ s.gatedFor p.x.pkg p.x.pa = none
    ∧ s.cutPiece [p] = none ∧ p.x.pkg = 1 ∧ p.x.pkg ≠ s.pkgNum ∧ s.lacking fr.e.asks [p] = [] :=
  let e : Elem := { elemOn with d := [(0, entryOf 2 [3]), (1, entryOf 2 [7])], asks := [{ tag := 5, pkg := 1, pa := 0x4000010C, size := 4, got := some ([9, 0, 0, 0], 0) }] }
  let s : State := { stream e with
    tlb := [(384, [{ tcid := 1, vpage := 0, size := 2, leaf := ringLeaf 0 + BitVec.ofNat 64 (2 ^ 57) }])]
    routes := [(1, BitVec.ofNat 64 (2 ^ 6))], ports := [(0, { Port.reset with attested := true, keyed := true })] }
  let f : Slot := { plainSlot with imm := 0x8000 }
  let fr := fireAt s 0 f
  let x := argA s fr
  let none : Piece := ⟨⟨0, 0, false, 0⟩, 0, 0⟩
  let ps := got (s.checkPart (s.fabWho fr.key fr.scope) .atomic ((fr.desc.entry (x.nat 0)).headD 0) fr.desc.laneBytes)
  ⟨s, f, fr, x, argB s fr, ps.headD none, ps.drop 1, by unfold Fires; decide +kernel⟩
/-- XFENCE and DRAIN that begin with nothing to wait for; in progress when all that they watched is done; waiting for a load, from their beginning
and in progress. -/
theorem test_class_fences :
    (∃ s f fr, Fires f ownGuard always s fr ∧ fr.e.busy = none ∧ s.firstClass fr.key fr.scope (fr.imm 0 3) = [] ∧ s.drained fr.key (fr.imm 0 3) (fr.imm 4 3) = [])
    ∧ (∃ s f fr, Fires f ownGuard always s fr ∧ fr.e.busy = some fr.n ∧ fr.e.watch = [3] ∧ ∀ i ∈ fr.e.watch, i ∉ s.unfinished fr.core)
    ∧ (∃ s f fr, Fires f ownGuard always s fr ∧ fr.e.busy = none
        ∧ (s.firstClass fr.key fr.scope (fr.imm 0 3)).filter (fun i => (s.unfinished fr.core).contains i) = [4])
    ∧ ∃ s f fr, Fires f ownGuard always s fr ∧ fr.e.busy = some fr.n ∧ fr.e.watch.filter (fun i => (s.unfinished fr.core).contains i) = [4] ∧ fr.e.watch = [3, 4] :=
  ⟨⟨streamed, plainSlot, fireAt streamed 0 plainSlot, by unfold Fires; decide +kernel⟩,
   let s := stream { elemOn with busy := some 0, watch := [3] }
   ⟨s, plainSlot, fireAt s 0 plainSlot, by unfold Fires; decide +kernel⟩,
   let s : State := { streamed with pending := [sentLoad] }
   let f : Slot := { plainSlot with imm := 0xC000 }
   ⟨s, f, fireAt s 0 f, by unfold Fires; decide +kernel⟩,
   let s : State := { stream { elemOn with busy := some 0, watch := [3, 4] } with pending := [sentLoad] }
   ⟨s, plainSlot, fireAt s 0 plainSlot, by unfold Fires; decide +kernel⟩⟩
/-- SWAIT of threshold 0; BWAIT of a phase that has passed; SINIT; BINIT with 4095 arrivals; BARV with 4095 arrivals. -/
theorem test_synchronisation : ∃ s f fr a, s.opA fr = some a ∧ Fires f ownGuard Fire.readySwait s fr ∧ Fires f ownGuard Fire.readyBwait s fr ∧ a.nat 0 = 0 :=
  let s : State := { stream { elemOn with d := [(0, entryOf 2 [0])] } with bars := [(0, BitVec.ofNat 128 (2 ^ 34))] }
  let f : Slot := { plainSlot with imm := 0x8000 }
  ⟨s, f, fireAt s 0 f, argA s (fireAt s 0 f), by unfold Fires; decide +kernel⟩
theorem test_barrier_init : ∃ s f fr a, s.opA fr = some a ∧ Fires f ownGuard always s fr ∧ a.pkt.lw = 2 ∧ 2 ≤ a.pkt.lanes ∧ (a.raw 0).1 = 4095 ∧ 1 ≤ a.nat 0 ∧ a.nat 0 = 4095 :=
  let s := stream { elemOn with d := [(0, entryOf 2 [4095, 8])] }
  ⟨s, plainSlot, fireAt s 0 plainSlot, argA s (fireAt s 0 plainSlot), by unfold Fires; decide +kernel⟩
/-- ECMD of 64 bytes; ERESP with the oldest record there. -/
theorem test_engine_slots : (∃ s f fr a b, Fires f ownGuard Fire.readyEcmd s fr ∧ s.opA fr = some a ∧ s.opB fr = some b ∧ a.pkt.lanes * a.pkt.width = 256
      ∧ b.pkt.lanes * b.pkt.width = 256 ∧ a.anyPois = false ∧ b.anyPois = false ∧ s.offered fr.key (engineOf (commandFrom a.pkt.pay b.pkt.pay)) = false
      ∧ (s.consOf fr.key fr.e && s.pending.any (fun p => p.key = fr.key && p.op.isLoad)) = false)
    ∧ ∃ s f fr t rest r, Fires f ownGuard Fire.readyEresp s fr ∧ fr.e.tracked = t :: rest ∧ t.done = some r :=
  ⟨let s := stream { elemOn with d := [(0, entryOf 3 [0x101, 0, 0, 0]), (1, entryOf 3 [0, 0, 0, 0])] }
   ⟨s, plainSlot, fireAt s 0 plainSlot, argA s (fireAt s 0 plainSlot), argB s (fireAt s 0 plainSlot), by unfold Fires; decide +kernel⟩,
   let s := stream { elemOn with tracked := [{ cmd := 1, done := some 5 }] }
   ⟨s, plainSlot, fireAt s 0 plainSlot, { cmd := 1, done := some 5 }, [], 5, by unfold Fires; decide +kernel⟩⟩


/-- A matrix element of i8, its own state given. -/
def matrix (m : MeState) (e : Elem) : State := rig 8 0 0 { e with active := true, loaded := 1, me := m }
/-- One row of element bits. -/
def rowOf (x : BitVec 16) : ARow := { bits := x, pois := false, hdr := HReg.neutral }

/-- MWLD of integer weights to the last columns of bank 0; MSCL of its last column. -/
theorem test_weights : ∃ (s : State) (f : Slot) (fr : Fire) (a : Opnd) (cells : List CellWrite), Fires f ownGuard always s fr ∧ s.opA fr = some a ∧ f.md.toNat < 3 ∧ badWidth 0 [{ a with fixed := false }] = none
    ∧ fr.weightCells a none = cells.map some ∧ fr.imm 8 7 + cells.length - 1 < modeCols (BitVec.ofNat 2 (weightMode f.md.toNat))
    ∧ fr.imm 8 7 + cells.length - 1 = 63 ∧ (∀ c ∈ cells, -128 ≤ c.xb ∧ c.xb ≤ 127) :=
  let s := matrix MeState.reset { elemOn with d := [(0, entryOf 0 [1, 2])] }
  let f : Slot := { plainSlot with imm := 0x3E00 }
  ⟨s, f, fireAt s 8 f, argA s (fireAt s 8 f), ((fireAt s 8 f).weightCells (argA s (fireAt s 8 f)) none).filterMap id, by unfold Fires; decide +kernel⟩
theorem test_float_weights : ∃ (s : State) (f : Slot) (fr : Fire) (a o : Opnd) (cells : List CellWrite), Fires f ownGuard always s fr ∧ s.opA fr = some a ∧ 3 ≤ f.md.toNat ∧ s.opB fr = some o
    ∧ badWidth (lwCode (weightBits f.md.toNat)) [{ a with fixed := false }] = none ∧ a.count = o.count ∧ fr.weightCells a (some o) = cells.map some
    ∧ fr.imm 8 7 + cells.length - 1 < modeCols (BitVec.ofNat 2 (weightMode f.md.toNat)) ∧ (∀ c ∈ cells, -128 ≤ c.xb ∧ c.xb ≤ 127) ∧ cells ≠ [] :=
  let s := matrix MeState.reset { elemOn with d := [(0, entryOf 1 [0x3F80]), (1, entryOf 2 [1])] }
  let f : Slot := { plainSlot with md := 5 }
  ⟨s, f, fireAt s 8 f, argA s (fireAt s 8 f), argB s (fireAt s 8 f), ((fireAt s 8 f).weightCells (argA s (fireAt s 8 f)) (some (argB s (fireAt s 8 f)))).filterMap id,
   by unfold Fires; decide +kernel⟩
theorem test_descriptors : ∃ (s : State) (f : Slot) (fr : Fire) (a : Opnd), Fires f ownGuard always s fr ∧ s.opA fr = some a ∧ a.pkt.lw = 2 ∧ fr.imm 8 7 + a.pkt.lanes = fr.e.me.cols (fr.imm 0 2) :=
  let s := matrix MeState.reset { elemOn with d := [(0, entryOf 2 [1])] }
  let f : Slot := { plainSlot with imm := 0x3F04 }
  ⟨s, f, fireAt s 8 f, argA s (fireAt s 8 f), by unfold Fires; decide +kernel⟩
/-- MPASS over the older of two ready buffers without zero points; MZPC after a pass; MFEED of the 64th row; MOUT alone and with the row from the north. -/
theorem test_pass : ∃ (s : State) (f : Slot) (fr : Fire) (i : Nat), Fires f ownGuard Fire.readyMpass s fr ∧ fr.e.me.older = some i ∧ mixedZero (fr.e.me.buf i).rows = none
    ∧ ((∀ r ∈ (fr.e.me.buf i).rows, r.zero = 0) ∨ fr.e.me.svOf fr.e.me.ab.toNat = true) ∧ i = 1 :=
  let s := matrix { MeState.reset with rb0 := { state := .ready, rows := [rowOf 1], seq := 2 }, rb1 := { state := .ready, rows := [rowOf 3, rowOf 4], seq := 1 } } elemOn
  ⟨s, plainSlot, fireAt s 8 plainSlot, 1, by unfold Fires; decide +kernel⟩
theorem test_correct : ∃ (s : State) (f : Slot) (fr : Fire), Fires f ownGuard always s fr ∧ fr.e.me.rv = true :=
  let s := matrix { MeState.reset with rv := true } elemOn
  ⟨s, plainSlot, fireAt s 8 plainSlot, by unfold Fires; decide +kernel⟩
theorem test_feed : ∃ (s : State) (f : Slot) (fr : Fire) (a : Opnd) (m : MeState) (i : Nat), Fires f ownGuard Fire.readyMfeed s fr ∧ s.opA fr = some a ∧ badWidth (fmtLw fr.fmt) [a] = none
    ∧ fr.e.me.take (rowsOf fr.fmt a (if (f.sa = 4 || f.sa = 5) && hdrHle fr.hdr then a.hdr else HReg.neutral)) = some (m, i) ∧ (m.buf i).state = .ready :=
  let s := matrix { MeState.reset with rb0 := { state := .filling, rows := List.replicate 63 (rowOf 1), seq := 0 } } { elemOn with d := [(0, entryOf 0 [9])] }
  let fr := fireAt s 8 plainSlot
  let r := (fr.e.me.take (rowsOf fr.fmt (argA s fr) HReg.neutral)).getD (MeState.reset, 0)
  ⟨s, plainSlot, fr, argA s fr, r.1, r.2, by unfold Fires; decide +kernel⟩
theorem test_out : (∃ (s : State) (f : Slot) (fr : Fire), Fires f ownGuard Fire.readyMout s fr ∧ fr.md 0 = false)
    ∧ ∃ (s : State) (f : Slot) (fr : Fire) (p : PartialRow), Fires f ownGuard Fire.readyMout s fr ∧ fr.md 0 = true ∧ s.pinOf fr.key = some p
      ∧ p.n = fr.e.me.cols fr.e.me.ab.toNat :=
  ⟨let s := matrix MeState.reset elemOn
   ⟨s, plainSlot, fireAt s 8 plainSlot, by unfold Fires; decide +kernel⟩,
   let p : PartialRow := { xc := 0, n := 64, cols := [(63, { v := 5, flags := 0 })] }
   let s := matrix MeState.reset { elemOn with pin := some p }
   let f : Slot := { plainSlot with md := 1 }
   ⟨s, f, fireAt s 8 f, p, by unfold Fires; decide +kernel⟩⟩

/-- An accumulate element of f32, with ranges of its core. -/
def accum (hdr : Nat) (l : List (Nat × RangeDesc)) (e : Elem) : State := { rig 72 hdr 0 { e with active := true, loaded := 1 } with ranges := l }
/-- A live range of entries 32,766 and 32,767 that expects one contribution. -/
def topRange : RangeDesc := { RangeDesc.reset with live := true, first := 32766, count := 2, exp := 1, arr := 1 }

/-- ARSV up to the last entry, beside a live range, in the descriptor whose quarantine has just ended. -/
theorem test_reserve : ∃ (s : State) (f : Slot) (fr : Fire) (l : List Nat) (d : Nat), Fires f ownGuard always s fr ∧ s.descLanes fr 3 = .ok l ∧ firstXOk (l.getD 0 0) = true ∧ 1 ≤ l.getD 1 0
    ∧ l.getD 0 0 % 2 ^ 15 + l.getD 1 0 = 32768 ∧ 1 ≤ l.getD 2 0 ∧ s.rangeMeets fr.core (l.getD 0 0 % 2 ^ 15) (l.getD 1 0) = none ∧ s.freeRange fr.core = some d ∧ d = 1 :=
  let s := accum 8 [(0, { topRange with first := 0, count := 100 })] { elemOn with d := [(0, entryOf 2 [100, 32668, 1])] }
  ⟨s, plainSlot, fireAt s 72 plainSlot, [100, 32668, 1], 1, by unfold Fires; decide +kernel⟩
/-- AREL of a range that begins at entry 32,766; ACLR of 2,048 entries to the last. -/
theorem test_release : ∃ (s : State) (f : Slot) (fr : Fire) (l : List Nat) (d : Nat), Fires f ownGuard always s fr ∧ s.descLanes fr 1 = .ok l ∧ l.getD 0 0 ≤ 32767
    ∧ s.rangeFrom fr.core (l.getD 0 0) = some d :=
  let s := accum 8 [(63, topRange)] { elemOn with d := [(0, entryOf 2 [32766])] }
  ⟨s, plainSlot, fireAt s 72 plainSlot, [32766], 63, by unfold Fires; decide +kernel⟩
theorem test_clear : ∃ (s : State) (f : Slot) (fr : Fire) (l : List Nat), Fires f ownGuard always s fr ∧ s.descLanes fr 2 = .ok l ∧ 1 ≤ l.getD 1 0 ∧ l.getD 1 0 = 2048
    ∧ l.getD 0 0 + l.getD 1 0 = 32768 :=
  let s := accum 8 [] { elemOn with d := [(0, entryOf 2 [30720, 2048])] }
  ⟨s, plainSlot, fireAt s 72 plainSlot, [30720, 2048], by unfold Fires; decide +kernel⟩
/-- AWR and AADD at entry 32,767 and at a poisoned entry lane. -/
theorem test_entries : ∃ (s : State) (f : Slot) (fr : Fire) (a b : Opnd) (its : List Item) (k : Nat), Fires f ownGuard always s fr ∧ s.opA fr = some a ∧ s.opB fr = some b
    ∧ badWidth (fmtLw fr.fmt) [a] = none ∧ fr.items a = some its ∧ itemLength a its.length b = some k
    ∧ (∀ x ∈ (List.range k).map (fun i => (b.bl i, b.bp i)), x.2 = false → x.1 ≤ 32767)
    ∧ (∀ x ∈ (List.range k).map (fun i => (b.bl i, b.bp i)), x.2 = false → (s.rangeAt fr.core x.1).isSome = true) ∧ k = 2 :=
  let s := accum 8 [(63, topRange)] { elemOn with d := [(0, entryOf 2 [0x3F800000]), (1, (dataPacket 2 0 false [(32767, false), (40000, true)]).entry)] }
  let fr := fireAt s 72 plainSlot
  ⟨s, plainSlot, fr, argA s fr, argB s fr, (fr.items (argA s fr)).getD [], 2, by unfold Fires; decide +kernel⟩
/-- AADD of a full PIN that ends at the last entry. -/
theorem test_add_row : ∃ (s : State) (f : Slot) (fr : Fire) (b : Opnd) (p : PartialRow), Fires f ownGuard Fire.readyAaddPin s fr ∧ s.opB fr = some b ∧ b.bp 0 = false ∧ s.pinOf fr.key = some p
    ∧ (∀ j < p.n, b.nat 0 + j ≤ 32767 ∧ (s.rangeAt fr.core (b.nat 0 + j)).isSome = true) ∧ p.n = 2 :=
  let p : PartialRow := { xc := 0, n := 2, cols := [(1, { v := 5, flags := 0 })] }
  let s := accum 8 [(63, topRange)] { elemOn with d := [(1, entryOf 2 [32766])], pin := some p }
  ⟨s, plainSlot, fireAt s 72 plainSlot, argB s (fireAt s 72 plainSlot), p, by unfold Fires; decide +kernel⟩
/-- ARD of the last entry and of a poisoned entry lane, rounded and raw. -/
theorem test_read (raw : Bool) : ∃ (s : State) (f : Slot) (fr : Fire) (a : Opnd), Fires f ownGuard always s fr ∧ s.opA fr = some a ∧ a.pkt.lanes = 2 ∧ a.pkt.lanes ≤ fr.readCap
    ∧ (∀ x ∈ (List.range a.pkt.lanes).map a.raw, x.2 = false → x.1 ≤ 32767) ∧ (if raw then fr.fmt = 16 else fr.fmt ≠ 16)
    ∧ (∀ x ∈ (List.range a.pkt.lanes).map a.raw, x.2 = false → (s.rangeAt fr.core x.1).isSome = true) :=
  match raw with
  | false =>
    let s := accum 8 [(63, topRange)] { elemOn with d := [(0, (dataPacket 2 0 false [(32767, false), (40000, true)]).entry)] }
    ⟨s, plainSlot, fireAt s 72 plainSlot, argA s (fireAt s 72 plainSlot), by unfold Fires; decide +kernel⟩
  | true =>
    let s := accum 16 [(63, topRange)] { elemOn with d := [(0, (dataPacket 2 0 false [(32767, false), (40000, true)]).entry)] }
    ⟨s, plainSlot, fireAt s 72 plainSlot, argA s (fireAt s 72 plainSlot), by unfold Fires; decide +kernel⟩
/-- AFLSH that wraps at the end of a range of two entries; AWAIT of a complete range. -/
theorem test_flush : ∃ (s : State) (f : Slot) (fr : Fire) (d : List Nat), Fires f ownGuard always s fr ∧ s.descLanes fr 2 = .ok d ∧ 1 ≤ d.getD 1 0 ∧ d.getD 0 0 + d.getD 1 0 = 32768
    ∧ (fr.fmt ≠ 16 → ∀ i < Nat.min fr.readCap (d.getD 1 0 - (if d.getD 1 0 ≤ fr.e.fc then 0 else fr.e.fc)),
        (s.rangeAt fr.core (d.getD 0 0 + (if d.getD 1 0 ≤ fr.e.fc then 0 else fr.e.fc) + i)).isSome = true) ∧ fr.e.fc = 1 :=
  let s := accum 8 [(63, topRange)] { elemOn with d := [(0, entryOf 2 [32766, 2])], fc := 1 }
  ⟨s, plainSlot, fireAt s 72 plainSlot, [32766, 2], by unfold Fires; decide +kernel⟩
theorem test_await : ∃ (s : State) (f : Slot) (fr : Fire) (l : List Nat) (d : Nat), Fires f ownGuard Fire.readyAwait s fr ∧ s.descLanes fr 1 = .ok l ∧ l.getD 0 0 ≤ 32767
    ∧ s.rangeFrom fr.core (l.getD 0 0) = some d :=
  let s := accum 8 [(63, topRange)] { elemOn with d := [(0, entryOf 2 [32766])] }
  ⟨s, plainSlot, fireAt s 72 plainSlot, [32766], 63, by unfold Fires; decide +kernel⟩

/-- A bound chain of two entries whose NSEND leaves room for two more. -/
def chained : Chain := { Chain.reset with bound := true, count := 2, nsend := 3, sent := 1 }
/-- The items of a send within COUNT and NSEND, the last of them about to enter a buffer with room for one. -/
def sendFits (s : State) (fr : Fire) (its : List (Item × (Int × Bool))) : Prop :=
  (fr.e.feed = none → (∀ x ∈ its, x.2.2 = false → x.2.1 < (fr.chain.count : Int)) ∧ fr.chain.sent + its.length ≤ fr.chain.nsend)
  ∧ ((fr.e.feed = none ∧ chainLeft fr s its = []) ∨ (∃ w, chainLeft fr s its = [w]) ∧ fr.e.inj.length < 8)
/-- The word that a send still has to put into the buffer. -/
def lastWord (s : State) (fr : Fire) (its : List (Item × (Int × Bool))) : AccWord := (chainLeft fr s its).headD (.marker 0 0 0 0 0 0)
/-- ASEND of one item at COUNT and NSEND, by index with a poisoned entry lane, and in the last cycle of a firing that has sent a word before. -/
theorem test_send (later : Bool) : ∃ (s : State) (f : Slot) (fr : Fire) (a b : Opnd) (its : List Item) (k : Nat), Fires f ownGuard always s fr ∧ fr.chain.bound = true ∧ s.opA fr = some a
    ∧ badWidth (fmtLw fr.fmt) [a] = none ∧ fr.items a = some its
    ∧ sendFits s fr (its.zipIdx.map (fun x => (x.1, (((fr.chain.base + fr.chain.cur + x.2 : Nat) : Int), false))))
    ∧ s.opB fr = some b ∧ itemLength a its.length b = some k
    ∧ sendFits s fr ((List.range k).map (fun i => (itemAt its i, (((fr.chain.base + b.bl i : Nat) : Int), b.bp i)))) ∧ its.length = 1 ∧ k = (if later then 1 else 2)
    ∧ fr.e.feed.isSome = later :=
  match later with
  | false =>
    let s := accum 8 [] { elemOn with d := [(0, entryOf 2 [0x3F800000]), (1, (dataPacket 2 0 false [(1, false), (9, true)]).entry)], chains := [(0, { chained with cur := 1 })] }
    let fr := fireAt s 72 plainSlot
    let its := (fr.items (argA s fr)).getD []
    ⟨s, plainSlot, fr, argA s fr, argB s fr, its, 2, by
      unfold Fires sendFits
      refine ⟨by decide +kernel, by decide +kernel, by decide +kernel, by decide +kernel, by decide +kernel,
        ⟨fun _ => by decide +kernel, .inr ⟨⟨lastWord s fr (its.zipIdx.map (fun x => (x.1, (((fr.chain.base + fr.chain.cur + x.2 : Nat) : Int), false)))), by decide +kernel⟩, by decide +kernel⟩⟩,
        by decide +kernel, by decide +kernel,
        ⟨fun _ => by decide +kernel, .inr ⟨⟨lastWord s fr ((List.range 2).map (fun i => (itemAt its i, (((fr.chain.base + (argB s fr).bl i : Nat) : Int), (argB s fr).bp i)))), by decide +kernel⟩, by decide +kernel⟩⟩,
        by decide +kernel, by decide +kernel, by decide +kernel⟩⟩
  | true =>
    let w : AccWord := .marker 0 0 0 0 0 72
    let s := accum 8 [] { elemOn with d := [(0, entryOf 2 [0x3F800000]), (1, entryOf 2 [1])], chains := [(0, { chained with cur := 1 })], feed := some [w], busy := some 0, inj := List.replicate 7 w }
    let fr := fireAt s 72 plainSlot
    let its := (fr.items (argA s fr)).getD []
    ⟨s, plainSlot, fr, argA s fr, argB s fr, its, 1, by
      unfold Fires sendFits
      refine ⟨by decide +kernel, by decide +kernel, by decide +kernel, by decide +kernel, by decide +kernel,
        ⟨fun _ => by decide +kernel, .inr ⟨⟨w, by decide +kernel⟩, by decide +kernel⟩⟩,
        by decide +kernel, by decide +kernel,
        ⟨fun _ => by decide +kernel, .inr ⟨⟨w, by decide +kernel⟩, by decide +kernel⟩⟩,
        by decide +kernel, by decide +kernel, by decide +kernel⟩⟩
theorem test_send_row : ∃ (s : State) (f : Slot) (fr : Fire) (p : PartialRow), Fires f ownGuard Fire.readyAsendPin s fr ∧ fr.chain.bound = true ∧ s.pinOf fr.key = some p
    ∧ sendFits s fr (p.items.zipIdx.map (fun x => (x.1, (((fr.chain.base + fr.chain.cur + x.2 : Nat) : Int), false)))) ∧ p.items.length = 1 :=
  let p : PartialRow := { xc := 0, n := 1, cols := [] }
  let s := accum 8 [] { elemOn with pin := some p, chains := [(0, { chained with cur := 1 })] }
  let fr := fireAt s 72 plainSlot
  let its := p.items.zipIdx.map (fun x => (x.1, (((fr.chain.base + fr.chain.cur + x.2 : Nat) : Int), false)))
  ⟨s, plainSlot, fr, p, by
    unfold Fires sendFits
    exact ⟨by decide +kernel, by decide +kernel, by decide +kernel,
      ⟨fun _ => by decide +kernel, .inr ⟨⟨lastWord s fr its, by decide +kernel⟩, by decide +kernel⟩⟩, by decide +kernel⟩⟩
/-- AXS of the last word of a live range. -/
theorem test_exchange : ∃ (s : State) (f : Slot) (fr : Fire) (l : List Nat) (d : Nat), Fires f ownGuard always s fr ∧ fr.chain.bound = true ∧ s.descLanes fr 2 = .ok l
    ∧ 1 ≤ l.getD 1 0 ∧ l.getD 1 0 ≤ 256 ∧ l.getD 0 0 = 32767 ∧ s.rangeAt fr.core (l.getD 0 0) = some d
    ∧ (s.range fr.core d).holds (l.getD 0 0 + l.getD 1 0 - 1) = true ∧ (s.range fr.core d).x = fr.chain.x
    ∧ sendFits s fr ((List.range (l.getD 1 0)).map (fun i =>
        (Item.word (waMask (s.amEntry fr.core (l.getD 0 0 + i)).toNat), (((fr.chain.base + fr.chain.cur + i : Nat) : Int), false)))) :=
  let s := accum 8 [(63, topRange)] { elemOn with d := [(0, entryOf 2 [32767, 1])], chains := [(0, { chained with cur := 1 })] }
  let fr := fireAt s 72 plainSlot
  let its := (List.range 1).map (fun i => (Item.word (waMask (s.amEntry fr.core (32767 + i)).toNat), (((fr.chain.base + fr.chain.cur + i : Nat) : Int), false)))
  ⟨s, plainSlot, fr, [32767, 1], 63, by
    unfold Fires sendFits
    exact ⟨by decide +kernel, by decide +kernel, by decide +kernel, by decide +kernel, by decide +kernel, by decide +kernel, by decide +kernel, by decide +kernel, by decide +kernel,
      ⟨fun _ => by decide +kernel, .inr ⟨⟨lastWord s fr its, by decide +kernel⟩, by decide +kernel⟩⟩⟩⟩
/-- A launch on cores 0 and 5. -/
def aLaunch : Launch :=
  { id := 7, hnd := 9, tcid := 1, thread := 0, packet := 0, cpl := 0, img := 0, dlt := 0, poff := 0, params := [], levels := [], roles := [], res := true, place := [0, 5], ncores := 2
    regions := [0], rem := 1, labels := [], waiting := false, delta := none, deltaThread := 0, deltaPacket := 0 }
/-- ACHAIN to the launch's logical core 1, which is core 5. -/
theorem test_chain : ∃ (s : State) (f : Slot) (fr : Fire) (l : List Nat) (core : Nat), Fires f ownGuard always s fr ∧ fr.e.bindOf fr.chainNo = .idle ∧ fr.chain.bound = false
    ∧ s.descLanes fr 5 = .ok l ∧ l.getD 0 0 < 2 ^ 15 ∧ firstXOk (l.getD 1 0) = true ∧ l.getD 2 0 < 2 ^ 15 ∧ l.getD 3 0 ≤ 32768 ∧ 1 ≤ l.getD 4 0
    ∧ s.resolve fr.key (l.getD 0 0 / 2 ^ 9 % 2 ^ 6) (l.getD 0 0 % 512) = some (s.pkgNum, core) ∧ core = 5 ∧ s.inDomain s.pkgNum = true ∧ s.cutOff s.pkgNum = false :=
  let s : State := { accum 8 [] { elemOn with d := [(0, entryOf 2 [1, 32767, 0, 32768, 1])] } with
    regions := [(0, { Region.reset with state := .running, nrows := 8, ncols := 16, launch := 7 })], launches := [aLaunch] }
  ⟨s, plainSlot, fireAt s 72 plainSlot, [1, 32767, 0, 32768, 1], 5, by unfold Fires; decide +kernel⟩


/-- A command of eight words. -/
def commandWord (l : List Nat) : Command :=
  let w (i : Nat) : Word := BitVec.ofNat 64 (l.getD i 0)
  { w0 := w 0, w1 := w 1, w2 := w 2, w3 := w 3, w4 := w 4, w5 := w 5, w6 := w 6, w7 := w 7 }
/-- A running command of process 1, whose virtual addresses 0 to 1 GiB lie at 0x4000_0000. -/
def runningOf (c : Command) : Cmd := { startedCommand 1 c with tcid := 1 }
def commanded (eng : Nat) (c : Command) : State :=
  { State.reset with focus := .command 0 eng 0, engines := [(eng, { Engine.reset with running := [runningOf c] })]
                     tlb := [(384, [{ tcid := 1, vpage := 0, size := 2, leaf := ringLeaf 0 }])], mem := [(0x40002008, 1)] }
/-- The issuer of its accesses. -/
def whoOf (eng : Nat) (c : Command) : Who := (commanded eng c).engWho 0 eng 1
def aCopy : Command := commandWord [0x101, 0x1000, 0x2000, 8]
/-- That a chunk from byte 0 passes its checks and nothing holds it back. -/
def chunkPasses (eng : Nat) (c : Command) (total : Nat) (first : List (Int × Nat)) (more : List (List (Int × Nat)))
    (data : List (Byte × Bool) → List (Byte × Bool) → List (Byte × Bool)) : Prop :=
  let s := commanded eng c
  let w := whoOf eng c
  s.commandOf c = some (0, eng, runningOf c) ∧ ∃ sp sp2 dps sts, s.located w .read first = .ok sp ∧ s.locatedAll w .read more = .ok sp2
    ∧ s.destPieces w c 0 (Nat.min total 65536 - 0) = .ok dps
    ∧ (let read := (sp ++ sp2).map (fun x => x.2)
       let bytes := s.fetchFrom [] s.free read
       let n := sp.foldl (fun a x => a + x.2.size) 0
       dps.zipIdx.mapM (fun x => storesAt w (data (bytes.take n) (bytes.drop n)) x.1) = .ok sts
       ∧ chunkFree s 0 (runningOf c) read (read ++ dps.flatMap (fun l => l.map (fun x => x.2))))

/-- The pieces that the checks answer are computed; `m` is what they must not be: an error. -/
def isOk {ε α : Type} (x : Except ε α) : Bool := match x with | .ok _ => true | .error _ => false
theorem isOk_some {ε α : Type} {x : Except ε α} (h : isOk x = true) : ∃ l, x = .ok l := by
  cases x with
  | ok l => exact ⟨l, rfl⟩
  | error e => cases h

theorem chunkPasses_of {eng : Nat} {c : Command} {total : Nat} {first : List (Int × Nat)} {more : List (List (Int × Nat))}
    {data : List (Byte × Bool) → List (Byte × Bool) → List (Byte × Bool)} (h : (commanded eng c).commandOf c = some (0, eng, runningOf c))
    (h' : (let s := commanded eng c
       let w := whoOf eng c
       let sp := s.located w .read first
       let sp2 := s.locatedAll w .read more
       let dps := s.destPieces w c 0 (Nat.min total 65536 - 0)
       let read := (got sp ++ got sp2).map (fun x => x.2)
       let bytes := s.fetchFrom [] s.free read
       let n := (got sp).foldl (fun a x => a + x.2.size) 0
       let all := read ++ (got dps).flatMap (fun l => l.map (fun x => x.2))
       isOk sp && isOk sp2 && isOk dps && isOk ((got dps).zipIdx.mapM (fun x => storesAt w (data (bytes.take n) (bytes.drop n)) x.1))
         && (decide (s.lacking [] read = []) && decide (s.gateOf all = none) && decide (s.cutPiece all = none) && !s.chunkWaits 0 all)) = true) :
    chunkPasses eng c total first more data := by
  refine ⟨h, ?_⟩
  simp only [Bool.and_eq_true, decide_eq_true_eq, Bool.not_eq_true'] at h'
  obtain ⟨⟨⟨⟨a, b⟩, d⟩, e⟩, ⟨f, g⟩, i⟩ := h'
  obtain ⟨sp, a⟩ := isOk_some a
  obtain ⟨sp2, b⟩ := isOk_some b
  obtain ⟨dps, d⟩ := isOk_some d
  obtain ⟨sts, e⟩ := isOk_some e
  simp only [a, b, d, got] at e f g i
  exact ⟨sp, sp2, dps, sts, a, b, d, e, f.1, f.2, g, i⟩

def aCopym : Command := commandWord [0x102, 0x1000, 0x100, 8, 0, 0, 0, 1]
def aBroadcast : Command := commandWord [0x323, 0x1000, 0x100, 8, 0, 0, 0, 1]
def aScatter : Command := commandWord [0x323, 0x1000, 0x100, 8, 0, 2 ^ 24, 0, 3]
def aFill : Command := commandWord [0x104, 5, 0x2000, 8]
def aChecksum : Command := commandWord [0x105, 0x1000, 0x2000, 8]
theorem test_copy : aCopy.op = 1 ∧ chunkPasses 0 aCopy (geoOf aCopy).total (itemsFrom (geoOf aCopy).srcAt 0 8) [] (fun b _ => b) :=
  ⟨by decide +kernel, chunkPasses_of (by decide +kernel) (by decide +kernel)⟩
theorem test_copym : aCopym.op = 2 ∧ chunkPasses 0 aCopym (geoOf aCopym).total (itemsFrom (geoOf aCopym).srcAt 0 8) [] (fun b _ => b) :=
  ⟨by decide +kernel, chunkPasses_of (by decide +kernel) (by decide +kernel)⟩
theorem test_broadcast : aBroadcast.op = 0x23 ∧ aBroadcast.fld 4 0 48 = 0 ∧ aBroadcast.fld 5 24 1 = 0
    ∧ chunkPasses 2 aBroadcast (geoOf aBroadcast).total (itemsFrom (geoOf aBroadcast).srcAt 0 8) [] (fun b _ => b) :=
  ⟨by decide +kernel, by decide +kernel, by decide +kernel, chunkPasses_of (by decide +kernel) (by decide +kernel)⟩
theorem test_cluster_scatter : aScatter.op = 0x23 ∧ aScatter.fld 4 0 48 = 0 ∧ aScatter.fld 5 24 1 = 1
    ∧ chunkPasses 2 aScatter (geoOf aScatter).total (itemsFrom (geoOf aScatter).srcAt 0 8)
        [itemsFrom (fun u => (geoOf aScatter).srcAt u + 8) 0 8] (fun b _ => b) :=
  ⟨by decide +kernel, by decide +kernel, by decide +kernel, chunkPasses_of (by decide +kernel) (by decide +kernel)⟩
theorem test_fill : aFill.op = 4 ∧ chunkPasses 0 aFill (geoOf aFill).total [] [] (fun _ _ => (List.range 8).map (fun i =>
    (byteOf (aFill.word 1) (((geoOf aFill).dstLogical (0 + i)) % 8).toNat, false))) :=
  ⟨by decide +kernel, chunkPasses_of (by decide +kernel) (by decide +kernel)⟩
theorem test_checksum : aChecksum.op = 5 ∧ chunkPasses 0 aChecksum 4 (itemsFrom (geoOf aChecksum).srcAt 0 (geoOf aChecksum).run) []
    (fun b _ => (leBytes 4 (crc32c (b.map (fun x => x.1)))).map (fun x => (x, b.any (fun y => y.2)))) :=
  ⟨by decide +kernel, chunkPasses_of (by decide +kernel) (by decide +kernel)⟩
/-- The worked value of spec 09 R216: the checksum of the nine bytes "123456789". -/
theorem test_crc : crc32c [0x31, 0x32, 0x33, 0x34, 0x35, 0x36, 0x37, 0x38, 0x39] = 0xE3069283 := by decide +kernel
/-- A conversion from f32 to bf16; an append of one record, and of two to bushels of room for one; a replay; a launch: every hypothesis holds. -/
def answer {ε α : Type} (d : α) (x : Except ε α) : α := match x with | .ok l => l | .error _ => d
def aConvert : Command := commandWord [0x103, 0x1000, 0x2000, 8, 0, 0, 0, 8 * 2 ^ 32 + 9 * 2 ^ 37]
theorem test_convert : let s := commanded 0 aConvert
    let g := geoOf aConvert
    let w := whoOf 0 aConvert
    let hi := Nat.min g.total 65536
    let (e0, e1, b0, b1, u0) := spanOf aConvert 0 hi
    let sp := got (s.located w .read (itemsFrom g.srcAt u0 ((b1 * g.es + 7) / 8 - u0)))
    let dps := got (s.destPieces w aConvert 0 (hi - 0))
    let read := sp.map (fun x => x.2)
    let bytes := s.fetchFrom [] s.free read
    let made := convert aConvert b0 (((elemsOf g.es (bytes.take (sp.foldl (fun a x => a + x.2.size) 0))).drop (if g.es = 4 then b0 % 2 else 0)).take (b1 - b0))
    let data := packElems g.ed g.elems s.free e0 ((made.1.drop (e0 - b0)).take (e1 - e0))
    let n := aConvert.fld 7 45 8 + 1
    let scales := made.2.filter (fun b => decide (e0 ≤ b.1 * n) && decide (b.1 * n < e1))
    let scp := got (s.locatedAll w .write (scales.map (fun b => [(((aConvert.fld 5 0 48 + b.1 : Nat) : Int), 0)])))
    s.commandOf aConvert = some (0, 0, runningOf aConvert) ∧ aConvert.op = 3
      ∧ s.located w .read (itemsFrom g.srcAt u0 ((b1 * g.es + 7) / 8 - u0)) = .ok sp ∧ s.destPieces w aConvert 0 (hi - 0) = .ok dps
      ∧ s.locatedAll w .write (scales.map (fun b => [(((aConvert.fld 5 0 48 + b.1 : Nat) : Int), 0)])) = .ok scp
      ∧ dps.mapM (storesAt w data) = .ok (got (dps.mapM (storesAt w data)))
      ∧ s.lacking [] read = [] ∧ s.gateOf (read ++ dps.flatMap (fun l => l.map (fun x => x.2)) ++ scp.map (fun x => x.2)) = none
      ∧ s.cutPiece (read ++ dps.flatMap (fun l => l.map (fun x => x.2)) ++ scp.map (fun x => x.2)) = none
      ∧ s.chunkWaits 0 (read ++ dps.flatMap (fun l => l.map (fun x => x.2)) ++ scp.map (fun x => x.2)) = false := by decide +kernel

def anAppend (n : Nat) : Command := commandWord [0x210, 0x1000, 0x2000, n + 2 ^ 48]
/-- A bushel at 0x3000 with room for one record of bushel 0, of which n are held. -/
def bushels (eng : Nat) (c : Command) (n : Nat) : State :=
  { commanded eng c with mem := cellsOf 0x40002000 16 (0x3000 + 2 ^ 64 + n * 2 ^ 96) }
theorem test_append_one : let s := bushels 1 (anAppend 1) 0
    let w := whoOf 1 (anAppend 1)
    let src := got (s.checkAccess w .read ((0x1000 + 0 : Nat) : Int) (8 - 0))
    let recs := s.fetchFrom [] s.free src
    let t := s.apply (s.reachAll 0 1 false src)
    let b := leNat ((recs.take 4).map (fun x => x.1)) / 2 ^ (anAppend 1).fld 3 32 5
    let e := answer ([], []) (t.bushelPieces w 0x2000 b)
    let x := t.bushelAt [] e.1
    let ps := got (t.checkAccess w .write ((x.base + 8 * x.fill : Nat) : Int) 8)
    s.commandOf (anAppend 1) = some (0, 1, runningOf (anAppend 1)) ∧ (anAppend 1).fld 3 0 32 = 1 ∧ recs.length = 8 ∧ b ≤ (anAppend 1).fld 3 48 16
      ∧ s.checkAccess w .read ((0x1000 + 0 : Nat) : Int) (8 - 0) = .ok src ∧ t.bushelPieces w 0x2000 b = .ok e ∧ x.fill < x.cap
      ∧ t.checkAccess w .write ((x.base + 8 * x.fill : Nat) : Int) 8 = .ok ps ∧ (∀ p ∈ e.1, p.x.pkg = t.pkgNum) ∧ s.lacking [] src = [] ∧ t.lacking [] e.1 = []
      ∧ s.gateOf (src ++ (ps ++ e.1)) = none ∧ s.cutPiece (src ++ (ps ++ e.1)) = none ∧ s.chunkWaits 0 (src ++ (ps ++ e.1)) = false := by
  decide +kernel
/-- Two records, with room for one: the first goes to its bushel and the second stops the chunk (spec 09 R217, status 7). -/
theorem test_append_full : let s := bushels 1 (anAppend 2) 0
    let w := whoOf 1 (anAppend 2)
    let src := got (s.checkAccess w .read ((0x1000 + 0 : Nat) : Int) (16 - 0))
    let recs := s.fetchFrom [] s.free src
    let t := s.apply (s.reachAll 0 1 false src)
    let r := t.appendRecords w [] 0x2000 0 1 (chunksOf 8 16 recs)
    let a := answer Appended.none r
    s.commandOf (anAppend 2) = some (0, 1, runningOf (anAppend 2)) ∧ s.checkAccess w .read ((0x1000 + 0 : Nat) : Int) (16 - 0) = .ok src ∧ r = .ok a
      ∧ a.count = 1 ∧ a.full = true ∧ a.need = [] ∧ s.lacking [] src = [] ∧ s.gateOf (src ++ a.touched) = none ∧ s.cutPiece (src ++ a.touched) = none
      ∧ s.chunkWaits 0 (src ++ a.touched) = false := by decide +kernel
def aReplay : Command := commandWord [0x211, 0x2000, 0x4000]
theorem test_replay : let s := bushels 1 aReplay 1
    let w := whoOf 1 aReplay
    let n := 4 * 2 ^ aReplay.fld 4 32 5
    let e := answer ([], []) (s.bushelPieces w 0x2000 0)
    let x := s.bushelAt [] e.1
    let rs := got (s.checkAccess w .read (x.base : Int) (8 * x.fill))
    let src := got (s.checkAccess w .read 0x4000 n)
    let dst := got (s.checkAccess w .write 0x4000 n)
    let stage := got (s.checkWindow w .write 0 (aReplay.fld 3 0 21 : Int) n)
    let all := rs ++ src ++ dst ++ stage ++ e.2
    s.commandOf aReplay = some (0, 1, runningOf aReplay) ∧ aReplay.fld 4 0 16 = 0 ∧ s.bushelPieces w 0x2000 0 = .ok e ∧ x.fill = 1
      ∧ s.checkAccess w .read (x.base : Int) (8 * x.fill) = .ok rs ∧ s.checkAccess w .read 0x4000 n = .ok src ∧ s.checkAccess w .write 0x4000 n = .ok dst
      ∧ s.checkWindow w .write 0 (aReplay.fld 3 0 21 : Int) n = .ok stage ∧ s.lacking [] e.1 = [] ∧ s.lacking [] (rs ++ src) = [] ∧ s.gateOf all = none
      ∧ s.cutPiece all = none ∧ s.chunkWaits 0 all = false := by decide +kernel
def aLaunchCommand : Command := commandWord [0x130, 0x1000]
theorem test_launch_command : let s := commanded 3 aLaunchCommand
    let w := whoOf 3 aLaunchCommand
    let p := got (s.checkAccess w .read 0x1000 8)
    let q := got (s.checkAccess w .read 0 0)
    s.commandOf aLaunchCommand = some (0, 3, runningOf aLaunchCommand) ∧ aLaunchCommand.fld 1 0 48 = 0x1000 ∧ aLaunchCommand.fld 1 48 5 = 0
      ∧ aLaunchCommand.fld 2 0 48 = 0 ∧ aLaunchCommand.fld 2 48 8 = 0 ∧ s.checkAccess w .read 0x1000 8 = .ok p ∧ s.checkAccess w .read 0 0 = .ok q
      ∧ s.lacking [] (p ++ q) = [] ∧ s.gateOf (p ++ q) = none ∧ s.cutPiece (p ++ q) = none ∧ s.chunkWaits 0 (p ++ q) = false := by decide +kernel

/-- A collective of one member, core 0, whose group table is a word of zero at 0x3000; it is issued, and it is under way with its source read or not. -/
def collective (op : Nat) : Command := commandWord [0x300 + op, 0x1000 + 8 * 2 ^ 48 + 8 * 2 ^ 53, 0x2000, 1, 0x3000]
def memberOf (c : Command) : Member := { core := 0, cmd := runningOf c }
def allMeet (c : Command) : Prop :=
  let s := commanded 2 c
  let ps := got (s.groupTable (whoOf 2 c) c)
  s.commandOf c = some (0, 2, runningOf c) ∧ c.fld 4 0 48 ≠ 0 ∧ s.groupTable (whoOf 2 c) c = .ok ps ∧ s.lacking [] ps = []
    ∧ s.entriesOf (runningOf c) ps = [0] ∧ entryOk 0 = true ∧ entryPkg 0 = s.pkgNum ∧ (s.collOf 0 1 (c.fld 4 0 48)).map (fun d => d.id) = some (runningOf c).id
    ∧ [0].map (s.memberAt 1 (c.fld 4 0 48)) = [memberOf c].map some
    ∧ (∀ x ∈ [memberOf c], x.cmd.paused = false ∧ (s.engine x.core 2).frozen = false)
    ∧ (∀ x ∈ [memberOf c].zipIdx, collAgrees c x.1.cmd.c = true ∧ x.1.cmd.c.fld 3 32 16 = x.2)
    ∧ collRoot c = 0 ∧ s.rangeMeets 0 (c.fld 5 0 15) (c.fld 3 0 32) = none ∧ s.freeRange 0 = some 0
theorem test_reduce : (collective 0x20).op = 0x20 ∧ collSums (collective 0x20) = true ∧ allMeet (collective 0x20) := by unfold allMeet; decide +kernel
theorem test_reduce_all : (collective 0x21).op = 0x21 ∧ allMeet (collective 0x21) := by unfold allMeet; decide +kernel
theorem test_gather : (collective 0x22).op = 0x22 ∧ collSums (collective 0x22) = false ∧ allMeet (collective 0x22) := by unfold allMeet; decide +kernel
theorem test_broadcast_group : (collective 0x23).op = 0x23 ∧ allMeet (collective 0x23) := by unfold allMeet; decide +kernel
/-- The collective under way: the ranks that have joined, the command's progress. -/
def underWay (c : Command) (joined : List Nat) : Coll :=
  { id := 5, tab := [0], coms := [c], cmds := [some 1], peers := [none], joined := joined, told := false, dix := some 0 }
def joining (c : Command) (prog : Nat) : Cmd := { runningOf c with coll := some 5, prog := prog }
def onWay (c : Command) (joined : List Nat) (prog : Nat) : State :=
  { commanded 2 c with engines := [(2, { Engine.reset with running := [joining c prog] })], colls := [underWay c joined] }
def goesOn (c : Command) (joined : List Nat) (prog : Nat) : Prop :=
  let s := onWay c joined prog
  s.commandOf c = some (0, 2, joining c prog) ∧ s.colls.find? (fun y => y.id = 5) = some (underWay c joined)
    ∧ (∀ e ∈ [0], entryPkg e = s.pkgNum ∧ s.heard 2 1 (c.fld 4 0 48) e = none)
    ∧ (∀ y ∈ s.liveMembers (underWay c joined), y.1.cmd.paused = false ∧ (s.engine y.1.core 2).frozen = false ∧ y.1.cmd.landing = none)
theorem test_joins : let c := collective 0x21
    let s := onWay c [] 0
    let ps := got (s.sourceOf 0 1 c 0 (collLens c 0).1)
    goesOn c [] 0 ∧ (List.range 1).find? (fun r => !([] : List Nat).contains r) = some 0
      ∧ s.rankCmd (underWay c []) 0 = some { core := 0, cmd := joining c 0 } ∧ s.sourceOf 0 1 c 0 (collLens c 0).1 = .ok ps
      ∧ s.lacking [] ps = [] ∧ s.gateOf ps = none ∧ s.cutPiece ps = none ∧ s.chunkWaits 0 ps = false := by unfold goesOn; decide +kernel
theorem test_receives : let c := collective 0x22
    let s := onWay c [0] 0
    let hi := Nat.min (collLens c 0).2 65536
    let dst := got (s.checkAccess (whoOf 2 c) .write ((0x2000 + 0 : Nat) : Int) (hi - 0))
    let src := got (s.partPieces (underWay c [0]) (joining c 0) (collParts c 1 0 0 hi))
    goesOn c [0] 0 ∧ 0 < (collLens c 0).2 ∧ s.checkAccess (whoOf 2 c) .write ((0x2000 + 0 : Nat) : Int) (hi - 0) = .ok dst
      ∧ s.partPieces (underWay c [0]) (joining c 0) (collParts c 1 0 0 hi) = .ok src ∧ s.lacking [] src = [] ∧ s.gateOf (src ++ dst) = none
      ∧ s.cutPiece (src ++ dst) = none ∧ s.chunkWaits 0 (src ++ dst) = false := by unfold goesOn; decide +kernel
theorem test_group_ends : let c := collective 0x22
    let s := onWay c [0] 8
    goesOn c [0] 8 ∧ collRoot c < (underWay c [0]).tab.length ∧ (collLens c 0).2 ≤ 8 ∧ (∀ y ∈ s.liveMembers (underWay c [0]), (collLens c y.2).2 ≤ y.1.cmd.prog)
      ∧ (s.liveMembers (underWay c [0])).filter (fun y => y.2 ≠ 0) = [] := by unfold goesOn; decide +kernel

/-- An offer to an engine whose queue holds 31 commands; a head that waits on a semaphore in error, on one whose condition holds, and on none, with
three active; a running and a finished command. -/
def queued (c : Command) (n : Nat) : Engine :=
  { Engine.reset with queue := List.replicate n (runningOf c), running := [2, 3, 4].map (fun i => { runningOf aCopy with id := i }) }
def anOffer : Offer := { c := aCopy, src := .elem 0, tcid := 1, slot := 0 }
theorem test_accept : let g : Engine := { queued aCopy 31 with offers := [anOffer] }
    g.frozen = false ∧ g.nextOffer = some anOffer ∧ (g.queue.filter (fun c => !c.paused)).length < 32 := by decide +kernel
def aWait (n : Nat) : Command := commandWord [0x901 + n * 2 ^ 21]
def semaphored (c : Command) (w : BitVec 64) : State := { State.reset with engines := [(0, queued c 1)], sems := [(0, w)] }
theorem test_start_error : let s := semaphored (aWait 1) (2 ^ 31)
    (s.engine 0 0).queue.find? (fun d => !d.paused) = some (runningOf (aWait 1)) ∧ (runningOf (aWait 1)).recheck = false
    ∧ (aWait 1).fld 0 11 1 = 1 ∧ semErr (s.sem 0 ((aWait 1).fld 0 13 8)) = true := by decide +kernel
theorem test_start : let s := semaphored (aWait 1) 1
    (s.engine 0 0).queue.find? (fun d => !d.paused) = some (runningOf (aWait 1)) ∧ (aWait 1).fld 0 11 1 = 1 ∧ semErr (s.sem 0 ((aWait 1).fld 0 13 8)) = false
    ∧ semCond (s.sem 0 ((aWait 1).fld 0 13 8)) ((aWait 1).fld 0 12 1 = 1) ((aWait 1).fld 0 21 16) = true ∧ (s.engine 0 0).active.length = 3 := by decide +kernel
theorem test_chunk_turn : let s := commanded 0 aCopy
    (s.engine 0 0).running[0]? = some (runningOf aCopy) ∧ (s.engine 0 0).mayRun (runningOf aCopy) = true := by decide +kernel
def finishedCopy (r : Option Xlat) : Cmd := { runningOf aCopy with finished := true, replyAt := r }
def finishing (r : Option Xlat) : State := { State.reset with engines := [(0, { Engine.reset with running := [finishedCopy r] })] }
theorem test_finished : let s := finishing none
    (s.engine 0 0).running[0]? = some (finishedCopy none) ∧ (s.engine 0 0).frozen = false
    ∧ (s.engine 0 0).running.find? (fun d => d.id = 1) = some (finishedCopy none) ∧ (finishedCopy none).owes = [] := by decide +kernel
/-- A completion record in main memory. -/
def recordAt : Xlat := { pkg := 0, kid := 0, noAlloc := false, pa := 0x40002000 }
theorem test_record : let s := finishing (some recordAt)
    let m := finishedCopy (some recordAt)
    let record : MemOp := .store (leBytes 8 m.record) (List.replicate 8 false)
    let t := commandPut (s.apply (s.writePieces (s.engineRole 0 0) 1 [(record, ⟨recordAt, m.c.word 6, 8⟩)])) 0 0 1
      (fun c => { c with replyAt := none, gate := none, owes := [] })
    (s.engine 0 0).running[0]? = some m ∧ recordAt.pkg = s.pkgNum ∧ s.gatedFor recordAt.pkg recordAt.pa = none
      ∧ (∃ c, (t.engine 0 0).running.find? (fun d => d.id = 1) = some c ∧ c.replyAt = none ∧ c.owes = []) :=
  ⟨by decide +kernel, by decide +kernel, by decide +kernel, finishedCopy none, by decide +kernel, by decide +kernel, by decide +kernel⟩


/-- A state of some elements, with the header of context 0 of one of them. -/
def among (l : List (Nat × Elem)) (key hdr : Nat) : State := { State.reset with elems := l, mem := cellsOf (imageBase key 0) 8 hdr }
def aData : Packet := dataPacket 2 0 false [(7, false)]
def aHeader : Packet := { aData with kind := kHdr, pay := 0x3F8 }
def asked (dest : PortDest) : State := { State.reset with lport := [(0, [{ src := 3, dest := dest, pkt := aData }])] }

/-- A packet on its way east from element 3 to input 3 of element 4, whose queue is empty or holds three, whose routing word sends the input's
packets past it, or whose east register a packet is in the way of. -/
def gone (s : State) (byp : Bool) : State :=
  { s with elems := Map.set Elem.reset s.elems 3 (if byp then (s.elem 3).setByp 1 none else (s.elem 3).setOut 1 none)
           moved := Nats.add s.moved 3, fresh := Nats.add s.fresh (1000000 + 8 * 3 + 1) }
def going (n : Nat) (rt : Nat) (e : Elem) : State :=
  { among [(3, elemOn.setOut 1 (some aData)), (4, e.setQueue 3 (List.replicate n aData))] 3 0 with mem := cellsOf (imageBase 4 0 + 8) 8 rt }
theorem test_link : ∀ n ∈ [0, 3], let s := going n 0 elemOn
    let t := gone s false
    s.fresh.contains (1000000 + 8 * 3 + 1) = false ∧ s.leaving 3 1 = some (aData, false) ∧ linkEnd 3 1 = some (4, 3)
      ∧ t.arrive 4 3 aData = some ((t.arrive 4 3 aData).getD []) ∧ rtBypass (t.routing 4 (t.elem 4).ctx.toNat) 3 = false
      ∧ outputsFrom (t.routing 4 (t.elem 4).ctx.toNat) 3 = [] ∧ aData.isWave = false ∧ aData.bad = false ∧ ((t.elem 4).queue 3).length < 4 := by
  decide +kernel
theorem test_link_bypass : let s := going 0 (4 * 2 ^ 4 + 2 ^ 27) elemOn
    let t := gone s false
    s.leaving 3 1 = some (aData, false) ∧ rtBypass (t.routing 4 (t.elem 4).ctx.toNat) 3 = true ∧ outputsFrom (t.routing 4 (t.elem 4).ctx.toNat) 3 = [1]
      ∧ (t.elem 4).byp 1 = none := by decide +kernel
/-- The packet in the way moves on to element 5 first. -/
theorem test_link_in_the_way : let s := going 0 (4 * 2 ^ 4 + 2 ^ 27) (elemOn.setByp 1 (some aData))
    let t := gone s false
    let l := (transferLink 127 4 1 t).getD []
    t.arrive 4 3 aData = none ∧ t.inTheWay 4 3 = [1] ∧ transferLink 127 4 1 t = some l
      ∧ (t.apply l).arrive 4 3 aData = some (((t.apply l).arrive 4 3 aData).getD []) := by decide +kernel
theorem test_port_accept : let s := among [(3, elemOn.setOut 5 (some aData))] 3 0
    (s.elem 3).out 5 = some aData ∧ (Map.get [] s.lport (coreOf 3)).length < 16 := by decide +kernel
theorem test_port_deliver : (∀ d ∈ [PortDest.label 127, .remote 383 0, .const 1 0 3 true, .nowhere, .elem 127], ∃ x, Map.get [] (asked d).lport 0 = [x] ∧ x.dest = d)
    ∧ ((asked (.elem 127)).toQy (ekey 0 127) aData).isSome = true
    ∧ ((asked (.elem 127)).taskNet ++ Map.get [] (asked (.elem 127)).taskWait 0).any ((asked (.elem 127)).taskFor 0 127 3) = false := by
  refine ⟨fun d hd => ⟨{ src := 3, dest := d, pkt := aData }, ?_, rfl⟩, by decide +kernel, by decide +kernel⟩
  simp only [List.mem_cons, List.not_mem_nil, or_false] at hd
  rcases hd with rfl | rfl | rfl | rfl | rfl <;> decide +kernel
/-- The second task of a core, the first of label 127, which is bound to element 127. -/
def taskBound : State := { State.reset with binding := [(127, 0x800001FF)], taskWait := [(0, [.data 0 5 3 aData, .data 0 127 3 aData])] }
theorem test_task_deliver : (Map.get [] taskBound.taskWait 0)[1]? = some (.data 0 127 3 aData) ∧ (∀ u ∈ (Map.get [] taskBound.taskWait 0).take 1, u.lane ≠ (0, 127))
    ∧ (let b := (taskBound.bindingOf 0 127).toNat
       b / 2 ^ 31 % 2 = 1 ∧ taskBound.pickLabel 0 (b % 128) = some 127 ∧ b % 128 = 127
       ∧ (taskBound.toQy (ekey 0 (b % 128)) { aData with tag := BitVec.ofNat 3 (b / 2 ^ 7 % 8), kind := kData }).isSome = true) := by decide +kernel
theorem test_drain : let r : RetEntry := { id := 9, pkt := aData, mask := 0x21, need := 0, dest := .label 3 }
    let s := among [(72, { elemOn with ret := [r] })] 72 0
    (s.elem 72).ret = [r] ∧ r.need = 0 ∧ (∀ o ∈ (List.range 6).filter (fun o => r.mask.getLsbD o), (s.elem 72).out o = none)
    ∧ (r.mask.getLsbD 5 = true → (Map.get [] s.lport (coreOf 72)).length < 16) := by decide +kernel
theorem test_data_return : let r : Returned := { key := 72, ret := 9, at_ := 4, data := [1, 2, 3, 4], pois := true }
    ({ State.reset with returned := [r] } : State).returned[0]? = some r := by decide +kernel

/-- A latching context with an HDR at qn and at q4; a join unit in union mode over qn and qe, with entries of different coordinates, and with a
packet one entry short of full; an MPASS slot that takes the last of 64 rows from qw. -/
def latching : State := among [(3, { elemOn with qs := [(0, [aHeader]), (5, [aHeader])] })] 3 (2 ^ 32)
theorem test_latch : ∀ i ∈ [0, 5], (latching.elem 3).runs = true ∧ i ≤ 5 ∧ (latching.elem 3).queue i = [aHeader] ∧ aHeader.kind = kHdr ∧ aHeader.bad = false
    ∧ hdrHle (latching.header 3 (latching.elem 3).ctx.toNat) = true ∧ latching.fresh.contains (8 * 3 + i) = false ∧ headerBad (aHeader.pay.extractLsb' 0 32) = false := by decide +kernel
def aCrd (l : List Nat) : Packet := dataPacket 2 0 true (l.map (fun x => (x, false)))
def joinUnit (e : Elem) : State := among [(3, { e with qs := [(0, [aCrd [1, 10, 2, 20]]), (1, [aCrd [2, 30]])] })] 3 (2 * 2 ^ 7 + 1 * 2 ^ 12)
theorem test_join : let s := joinUnit elemOn
    let h := s.header 3 (s.elem 3).ctx.toNat
    (s.elem 3).runs = true ∧ hdrJm h = 2 ∧ s.joinHead 3 (hdrJa h) = some (aCrd [1, 10, 2, 20]) ∧ s.joinHead 3 (hdrJb h) = some (aCrd [2, 30]) ∧ (aCrd [2, 30]).kind = kData
    ∧ (aCrd [2, 30]).crd = true ∧ (aCrd [1, 10, 2, 20]).kind = kData ∧ (aCrd [1, 10, 2, 20]).crd = true := by decide +kernel
/-- The last entries of both sides agree: the step closes the packet. -/
theorem test_join_full : let s := joinUnit { elemOn with joinA := 1 }
    let e := s.elem 3
    let x := e.consume true 0
    let y := x.1.consume false 1
    let j := Joined.first 0 (e.hreg 0) (e.hreg 1) ((aCrd [1, 10, 2, 20]).jentry 1) ((aCrd [2, 30]).jentry 0)
    joinChoice true (some ((aCrd [1, 10, 2, 20]).jentry e.joinA)) (some ((aCrd [2, 30]).jentry e.joinB)) = (some ((aCrd [1, 10, 2, 20]).jentry 1, (aCrd [2, 30]).jentry 0), true, true)
    ∧ (x.2 || y.2) = true ∧ (Elem.closeJoin { y.1 with join := some j }).isSome = true := by decide +kernel
/-- Two EOS heads of one tag, and of two. -/
theorem test_join_ends : ∀ x ∈ [(0 : Nat), 5], let p (n : Nat) : Packet := { aData with kind := kEos, tag := BitVec.ofNat 3 n }
    let s := among [(3, { elemOn with qs := [(0, [p 0]), (1, [p x])] })] 3 (2 * 2 ^ 7 + 1 * 2 ^ 12)
    let h := s.header 3 (s.elem 3).ctx.toNat
    (s.elem 3).runs = true ∧ hdrJm h = 2 ∧ s.joinHead 3 (hdrJa h) = some (p 0) ∧ s.joinHead 3 (hdrJb h) = some (p x)
      ∧ (s.elem 3).join = none ∧ (s.elem 3).qj.length < 4 := by decide +kernel
def rowed : State :=
  { among [(8, { elemOn with qs := [(3, [dataPacket 0 0 false [(9, false)]])], me := { MeState.reset with rb0 := { state := .filling, rows := List.replicate 63 (rowOf 1), seq := 0 } } })] 8 0 with
    mem := cellsOf (imageBase 8 0 + 16) 12 (2 ^ 39 + 0xC2 * 2 ^ 40) }
theorem test_intake : ∃ (m : MeState) (i : Nat), let p := dataPacket 0 0 false [(9, false)]
    let e := rowed.elem 8
    let h := rowed.header 8 e.ctx.toNat
    e.runs = true ∧ siteType (elemIx 8) = .me ∧ rowed.intakeOn 8 = true ∧ e.queue 3 = [p] ∧ p.bad = false ∧ rowed.fresh.contains (8 * 8 + 3) = false ∧ p.kind = kData
    ∧ p.lw = fmtLw (hdrFmt h) ∧ e.me.take (rowsOf (hdrFmt h) { pkt := p, hdr := e.hreg 3, isConst := false, fixed := false } (e.hreg 3)) = some (m, i) ∧ (m.buf i).state = .ready :=
  let e := rowed.elem 8
  let r := (e.me.take (rowsOf (hdrFmt (rowed.header 8 0)) { pkt := dataPacket 0 0 false [(9, false)], hdr := e.hreg 3, isConst := false, fixed := false } (e.hreg 3))).getD (MeState.reset, 0)
  ⟨r.1, r.2, by decide +kernel⟩

/-- A withy wave at qw while a buffer fills. -/
theorem test_intake_closes : let e := { rowed.elem 8 with qs := [(3, [wavePacket 1 0])] }
    let s : State := { rowed with elems := [(8, e)] }
    (s.elem 8).runs = true ∧ (s.elem 8).queue 3 = [wavePacket 1 0] ∧ (wavePacket 1 0).closing = true ∧ ((s.elem 8).me.bufIn .filling).isSome = true := by
  decide +kernel

/-- An element whose WIN is qn and qy and whose WOUT is east; it has a wave of a type at both inputs. -/
def waved (type target : Nat) (e : Elem) : State :=
  among [(3, { e with qs := [(0, [wavePacket type target]), (5, [wavePacket type target])] })] 3 (0x21 * 2 ^ 15 + 2 * 2 ^ 21)
theorem test_switch : let s := waved 0 2 { elemOn with loaded := 5 }
    let e := s.elem 3
    let p := wavePacket 0 2
    s.mayAct 3 = true ∧ s.waveMismatch 3 = false ∧ s.closedBy 3 0 = true ∧ e.join = none ∧ e.ret = [] ∧ e.me.rb0.state = .empty ∧ e.me.rb1.state = .empty
    ∧ s.waveSpace 3 (s.governing 3).2 = true ∧ (inputsOf (s.governing 3).1).filterMap (s.waveHead 3) = [p, p] ∧ p.pay.extractLsb' 2 3 = 2 ∧ e.loaded.getLsbD 2 = true
    ∧ s.badRegister 3 2 = none := by decide +kernel
theorem test_withy : let s := waved 1 0 elemOn
    s.mayAct 3 = true ∧ s.closedBy 3 1 = true ∧ s.waveSpace 3 (s.governing 3).2 = true ∧ (∀ r ∈ (s.elem 3).ret, r.need = 0)
    ∧ (inputsOf (s.governing 3).1).filterMap (s.waveHead 3) = [wavePacket 1 0, wavePacket 1 0] := by decide +kernel
/-- Commit waves counted at both inputs, and a staged constant. -/
theorem test_commit : let s := among [(3, { elemOn with commits := [(0, 1), (5, 2)], ks := [(3, { val := 9, pois := 0, flag := true })] })] 3 (0x21 * 2 ^ 15 + 2 * 2 ^ 21)
    let e := s.elem 3
    let l := inputsOf (s.current 3).1
    s.countCommits 3 = [] ∧ e.takesCommits = true ∧ e.held = false ∧ e.busy = none ∧ s.fresh.contains (8 * 3 + 7) = false ∧ l = [0, 5] ∧ (∀ q ∈ l, 1 ≤ e.commitCount q)
    ∧ s.waveSpace 3 (s.current 3).2 = true ∧ e.ret = [] ∧ (s.applyStaged 3 (l.foldl (fun (acc : Elem) q => acc.setCommit q (acc.commitCount q - 1)) e)).2 = none := by decide +kernel


/-- A load of 8 bytes at 0x1000, beside one that must be performed after it. -/
def anAccess (id : Nat) (after : List Nat) : Access :=
  { id := id, key := 72, op := .load 9 0, pkg := 0, pa := 0x1000, size := 8, kid := 1, noAlloc := false, tcid := 1, va := 0x1000, after := after, sent := false }
theorem test_access : let s : State := { State.reset with pending := [anAccess 4 [3], anAccess 3 []] }
    s.pending.find? (fun b => b.id = (anAccess 3 []).id) = some (anAccess 3 []) ∧ (∀ b ∈ s.pending, b.id ∉ (anAccess 3 []).after) ∧ (anAccess 3 []).sent = false
    ∧ s.gatedFor (anAccess 3 []).pkg (anAccess 3 []).pa = none ∧ s.cutOff (anAccess 3 []).pkg = false ∧ (anAccess 3 []).pkg = s.pkgNum := by decide +kernel
theorem test_access_far : let a := { anAccess 3 [] with pkg := 1 }
    let s : State := { State.reset with pending := [anAccess 4 [3], a] }
    s.pending.find? (fun b => b.id = a.id) = some a ∧ (∀ b ∈ s.pending, b.id ∉ a.after) ∧ a.sent = false ∧ s.gatedFor a.pkg a.pa = none ∧ s.cutOff a.pkg = false
      ∧ a.pkg ≠ s.pkgNum ∧ a.op.isCopies = false := by decide +kernel
/-- The last gigabyte of the address space, through the last entries of two tables. -/
theorem test_walk : let s : State := { State.reset with roots := [(1, 0x1000)], mem := cellsOf 0x1FF8 8 0x2001 ++ cellsOf 0x2FF8 8 (ringLeaf 0).toNat }
    Map.get 0 s.roots 1 ≠ 0 ∧ (2 ^ 48 - 1 < 2 ^ 48) ∧ (∀ t ∈ s.buffer (384 + 3), t.tcid = 1 → (2 ^ 48 - 1) / 2 ^ pageBits t.size ≠ t.vpage)
    ∧ s.walk 1 (2 ^ 48 - 1) (s.walkStart 3 1 (2 ^ 48 - 1)).1 (s.walkStart 3 1 (2 ^ 48 - 1)).2 = .ok ((ringLeaf 0).toNat, 2) := by decide +kernel
theorem test_scrub : ∀ x ∈ [1, 2], let n := 0x6000000000 / 32 - 1
    let s : State := { State.reset with softErr := [(n, x)] }
    (placeOf (32 * n)).block = .hbm ∧ Map.get 0 s.softErr n = x := by decide +kernel
/-- An access that ends where the range begins does not use it. -/
theorem test_invalidate : let s : State := { State.reset with pending := [anAccess 3 []] }
    s.usesRange 1 0x1008 (2 ^ 48) = false ∧ s.usesRange 1 0x1007 (2 ^ 48) = true := by decide +kernel
theorem test_purge : let s : State := { State.reset with pending := [anAccess 3 []] }
    ∀ a ∈ s.pending, a.pkg = s.pkgNum → a.kid = 1 → a.pa / 0x1800000000 ≠ 3 := by decide +kernel
theorem test_key_slot : let s : State := { State.reset with pending := [anAccess 3 []], tlb := [(384, [{ tcid := 1, vpage := 0, size := 2, leaf := ringLeaf 0 }])] }
    ∀ kid ∈ [2, 63], 1 ≤ kid ∧ kid < 64 ∧ (∀ x ∈ s.tlb, ∀ e ∈ x.2, bits e.leaf.toNat 51 6 ≠ kid) ∧ (∀ x ∈ s.cache, x.2.kid ≠ kid) ∧ (∀ a ∈ s.pending, a.pkg = s.pkgNum → a.kid ≠ kid) := by decide +kernel
/-- A scratchpad line that is pending for 2^20 cycles, in a running region. -/
def regioned (e : Elem) (r : Region) : State := { State.reset with elems := [(1, e)], regions := [(0, { r with nrows := 8, ncols := 16 })] }
theorem test_line_timeout : let s := regioned { elemOn with pend := [(511, 0, 2 ^ 20)] } { Region.reset with state := .running }
    (511, 0, 2 ^ 20) ∈ (s.elem (ekey 0 (spadElem 0))).pend ∧ s.isMember (ekey 0 (spadElem 0)) = true ∧ s.regionOf (ekey 0 (spadElem 0)) = some 0 ∧ (s.region 0).tv = false := by decide +kernel
theorem test_storage_error : (regioned elemOn { Region.reset with state := .running }).regionOf (ekey 0 127) = some 0 := by decide +kernel

/-- A contribution to the last entry of a live range, behind a word for another core. -/
def networked (w : AccWord) : State := { State.reset with accNet := [.marker 0 5 0 0 0 72, w], ranges := [(63, { topRange with arr := 0 })] }
theorem test_contribution : let w (gen : BitVec 13) : AccWord := .contrib 7 0 0 32767 1 63 gen 72 1
    let s (gen : BitVec 13) := networked (w gen)
    (s 0).wordAt 1 = some (w 0) ∧ (s 0).pkgNum = 0 ∧ (s 0).powerOf 0 = .on ∧ ((s 0).range 0 63).live = true ∧ ((s 0).range 0 63).gen = 0
    ∧ ((s 0).range 0 63).holds 32767 = true ∧ ((s 0).range 0 63).arr + 1 = ((s 0).range 0 63).exp ∧ ((s 0).range 0 63).arr + 1 < 2 ^ 32
    ∧ (s 1).wordAt 1 = some (w 1) ∧ ((s 1).range 0 63).gen ≠ 1 := by decide +kernel
theorem test_markers : (networked (.marker 0 0 32766 63 0 72)).wordAt 1 = some (.marker 0 0 32766 63 0 72)
    ∧ (networked (.unbind 0 0 32766 63 0 72)).wordAt 1 = some (.unbind 0 0 32766 63 0 72)
    ∧ ((networked (.unbind 0 0 32766 63 0 72)).range 0 63).tagged 0 = true ∧ (networked (.unbind 0 0 32766 63 0 72)).powerOf 0 = .on := by decide +kernel
theorem test_bind_request : let w : AccWord := .bindReq 0 0 32766 0 0 72 1
    let s := networked w
    s.wordAt 1 = some w ∧ s.powerOf 0 = .on ∧ s.rangeFrom 0 32766 = some 63 ∧ (s.range 0 63).tcid = 0 ∧ (s.range 0 63).x = 0 ∧ (s.range 0 63).bnds ≠ 65535 := by decide +kernel
/-- Words to package 1. -/
theorem test_far_words : ∀ w ∈ [AccWord.contrib 7 1 0 32767 1 63 0 72 1, .marker 1 0 32766 63 0 72, .unbind 1 0 32766 63 0 72, .bindReq 1 0 32766 0 0 72 1],
    (networked w).wordAt 1 = some w ∧ 1 ≠ (networked w).pkgNum ∧ (networked w).cutOff 1 = false := by decide +kernel
/-- An ACHAIN in progress in slot 0 of element 72, towards logical core 1 of its launch. -/
def binding (b : BindState) (l : List AccWord) : State :=
  { accum 8 [] { elemOn with d := [(0, entryOf 2 [1, 32767, 0, 32768, 1])], busy := some 0, binds := [(0, b)] } with
    mem := cellsOf (imageBase 72 0) 8 8 ++ cellsOf (imageBase 72 0 + 16) 12 (2 ^ 39 + 0xD0 * 2 ^ 40), accNet := l
    regions := [(0, { Region.reset with state := .running, nrows := 8, ncols := 16, launch := 7 })], launches := [aLaunch] }
theorem test_bind_answer : ∃ (fr : Fire), let w : AccWord := .bindAns 0 5 4 1 2 3 0 72 0
    let s := binding .asked [w]
    s.wordAt 0 = some w ∧ s.powerOf (coreOf 72) = .on ∧ (binding .asked []).bindFiring 72 0 = some fr ∧ (binding .asked []).descLanes fr 5 = .ok [1, 32767, 0, 32768, 1] :=
  ⟨(binding .asked []).firingOf 72 0, by decide +kernel⟩
theorem test_bind_retry : ∃ (fr : Fire), let s := binding (.again 0) []
    s.bindFiring 72 0 = some fr ∧ fr.e.bindOf 0 = .again 0 ∧ s.descLanes fr 5 = .ok [1, 32767, 0, 32768, 1] ∧ 0 ≤ s.cycle.toNat
      ∧ s.resolve 72 (1 / 2 ^ 9 % 2 ^ 6) (1 % 512) = some (0, 5) :=
  ⟨(binding (.again 0) []).firingOf 72 0, by decide +kernel⟩
theorem test_refusal : let w : AccWord := .refusal 0 5 1 2 3 0x44 72 0
    let s : State := { State.reset with accNet := [w], elems := [(72, elemOn)] }
    s.wordAt 0 = some w ∧ s.powerOf (coreOf 72) = .on ∧ (s.elem 72).active = true ∧ (s.elem 72).refRec = none := by decide +kernel
theorem test_refusal_trap : let r : RefRecord := { dix := 2, gen := 3, ent := 1, cause := 0x44, core := 5, pkg := 0, chain := 0 }
    let s : State := { State.reset with elems := [(72, { elemOn with refRec := some r })] }
    (s.elem 72).refRec = some r ∧ s.isFree 72 = true ∧ r.cause = 0x44 := by decide +kernel

/-- Accesses of Foreveder to the last item of each block of core 383's window. -/
def winAt (off : Nat) (data : List Byte) : WinAccess := { core := 383, off := off, data := data, pois := false, master := .fw, role := 0, scope := 4 }
def winPasses (k : Kind) (w : WinAccess) : Bool :=
  (State.reset.refusal w.master k (winPa w) w.data.length (roleCore w.role) w.scope).isNone && (State.reset.gatedFor State.reset.pkgNum (winPa w)).isNone
theorem test_window_writes : ∀ x ∈ [(0x1FFFF8, List.replicate 8 (1 : Byte), Area.coreMem), (0x27FFFC, List.replicate 4 1, .spad), (0x307FE0, List.replicate 32 1, .dfile),
    (0x318FF0, List.replicate 16 1, .bar), (0x5101FC, List.replicate 4 1, .bind), (0x50040C, List.replicate 4 1, .regctl), (0x501000, List.replicate 4 1, .regctl),
    (0x307F60, List.replicate 32 1, .const), (0x43FFCC, List.replicate 4 1, .image), (0x2FFFF0, List.replicate 16 1, .am), (0x3107F8, List.replicate 8 1, .sem),
    (0x3087FC, [0xC4, 0, 0, 0], .desc)],
    winPasses .write (winAt x.1 x.2.1) = true ∧ (placeOf (winPa (winAt x.1 x.2.1))).block = x.2.2 ∧ (x.2.2 = .desc → descOk (leNat x.2.1) = true ∧ (State.reset.elem (ekey 383 ((placeOf (winPa (winAt x.1 x.2.1))).off / 16))).active = false)
    ∧ (x.2.2 = .regctl → (placeOf (winPa (winAt x.1 x.2.1))).off + x.2.1.length ≤ 0x410 ∨ 0x418 ≤ (placeOf (winPa (winAt x.1 x.2.1))).off) := by decide +kernel
/-- The region command register, and the ordering control word. -/
theorem test_window_control : (let w := winAt 0x500410 (List.replicate 4 1)
    winPasses .write w = true ∧ (placeOf (winPa w)).block = .regctl ∧ (placeOf (winPa w)).off < 0x418 ∧ 0x410 < (placeOf (winPa w)).off + w.data.length)
    ∧ (let w : WinAccess := { winAt 0x700080000000 (List.replicate 8 1) with core := 0 }
       winPasses .write w = true ∧ (placeOf (winPa w)).block = .control) := by decide +kernel
theorem test_window_atomics : ∀ x ∈ [(0x3107F8, Area.sem), (0x318FF4, .bar), (0x318FFC, .bar)],
    let w := winAt x.1 [1, 0, 0, 0]
    winPasses .atomic w = true ∧ (placeOf (winPa w)).block = x.2 ∧ (x.1 = 0x318FF4 → (placeOf (winPa w)).off % 16 = 4 ∧ winPa w % 16 = 4)
    ∧ (x.1 = 0x318FFC → (placeOf (winPa w)).off % 16 = 12 ∧ winPa w % 16 = 12) := by decide +kernel

/-- An image of one context of element 3 with the slot NOP; a core that is idle; one that wakes with a task held; a change of CONS with two writes
behind it. -/
def anImage : List ImageElem := [{ elem := 3, ctxs := [(0, leBytes 8 (2 + 0x20 * 2 ^ 15) ++ leBytes 8 0x777777 ++ leBytes 12 (2 ^ 39 + 7 * 2 ^ 12 + 7 * 2 ^ 15) ++ List.replicate 180 0)], consts := [] }]
theorem test_load : State.reset.imageFail 5 anImage = none ∧ State.reset.powerOf 5 = .on
    ∧ ({ State.reset with gated := [(5, .gated)] } : State).powerOf 5 ≠ .on := by decide +kernel
theorem test_gate : let s := State.reset
    s.powerOf 383 = .on ∧ (∀ b ∈ blocksOf 383, (s.region b).state = .free ∨ (s.region b).state = .idle ∨ (s.region b).state = .saved)
    ∧ (∀ e < 4, (s.engine 383 e).offers = [] ∧ (s.engine 383 e).queue = [] ∧ (s.engine 383 e).running = []) ∧ (∀ a ∈ s.pending, coreOf a.key ≠ 383)
    ∧ (∀ r ∈ s.returned, coreOf r.key ≠ 383) ∧ Map.get [] s.taskWait 383 = [] ∧ Map.get [] s.lport 383 = [] ∧ (∀ x ∈ s.elems, coreOf x.1 = 383 → x.2.inj = [] ∧ x.2.feed = none ∧ x.2.asks = []) := by decide +kernel
theorem test_wake : let s : State := { State.reset with gated := [(5, .waking)], heldq := [(5, [.task (.data 5 0 3 aData)])] }
    s.powerOf 5 = .waking ∧ s.holdOf 5 ≠ [] := by decide +kernel
theorem test_cons : let s : State := { State.reset with consBusy := true, consNext := [false, true] }
    s.consBusy = true ∧ s.consNext.getLast? = some true ∧ State.reset.consBusy = false := by decide +kernel


/-! Signatures that verify. Each message has its own ECDSA key, recovered from a signature chosen so that the multiples of the base point and of
the key are small; the HSS key is the root that the signature of zeros leads to. -/

/-- A key of P-384 and a signature made with it. -/
structure Signed where
  x : Nat
  y : Nat
  r : Nat
  s : Nat
def bigList (n x : Nat) : List Byte := (leBytes n x).reverse
def Signed.key (g : Signed) : List Byte := bigList 48 g.x ++ bigList 48 g.y
def Signed.pair (g : Signed) : List Byte := bigList 48 g.r ++ bigList 48 g.s

/-- What a signature pair is made over (spec 18 R432). -/
def signedOver (l : List Byte) : List Byte := l ++ digestBytes (digest384 l)
/-- An HSS signature of one level of leaf 0, all of it zeros but for its two type codes; and its public key over a message. -/
def hssZeros : List Byte := List.replicate 11 0 ++ [4] ++ List.replicate 1123 0 ++ [8] ++ List.replicate 640 0
def lmsZeros : List Nat := (numbersOf hssZeros).drop 4
def zeroIdent : List Nat := List.replicate 16 0
def hssRoot (m : List Nat) : List Nat :=
  lmsRoot zeroIdent (bytesBy 32 20 (lmsZeros.drop 1132)) (2 ^ 20 + 0)
    (sha256 (zeroIdent ++ bigBytes 4 (2 ^ 20 + 0) ++ [0x82, 0x82] ++ otsKey zeroIdent 0 ((lmsZeros.drop 8).take 32) (bytesBy 32 34 (lmsZeros.drop 40)) m))
def hssKey (m : List Byte) : List Byte :=
  [0, 0, 0, 1, 0, 0, 0, 8, 0, 0, 0, 4, 0, 0, 0, 0, 0, 0, 0, 0, 0, 0, 0, 0, 0, 0, 0, 0] ++ (hssRoot (numbersOf m)).map (BitVec.ofNat 8)

theorem round_length (h : Sha2) (l : List (Nat × Nat)) : ∀ v : List Nat, v.length = 8 → (l.foldl h.round v).length = 8 := by
  induction l with
  | nil => intro v hv; exact hv
  | cons kw l ih =>
    intro v hv
    refine ih _ ?_
    match v, hv with
    | [_, _, _, _, _, _, _, _], _ => rfl
theorem block_length (h : Sha2) (v w : List Nat) (hv : v.length = 8) : (h.block v w).length = 8 := by
  simp only [Sha2.block, List.length_zipWith, round_length h _ v hv, hv, Nat.min_self]
theorem bigBytes_length (n x : Nat) : (bigBytes n x).length = n := by simp [bigBytes, natBytes]
theorem bigBytes_small (n x : Nat) : ∀ b ∈ bigBytes n x, b < 256 := by
  intro b hb
  simp only [bigBytes, natBytes, List.mem_reverse, List.mem_map] at hb
  obtain ⟨i, _, rfl⟩ := hb
  exact Nat.mod_lt _ (by decide)
theorem sha256_length (m : List Nat) : (sha256 m).length = 32 := by
  have key : ∀ (l : List (List Nat)) (v : List Nat), v.length = 8 →
      (l.foldl (fun v b => sha2of32.block v ((bytesBy (sha2of32.word / 8) 16 b).map bigNat)) v).length = 8 := by
    intro l
    induction l with
    | nil => intro v hv; exact hv
    | cons b l ih => intro v hv; exact ih _ (block_length _ _ _ hv)
  have h (l : List Nat) : (l.flatMap (bigBytes (sha2of32.word / 8))).length = 4 * l.length := by
    induction l with
    | nil => rfl
    | cons x l ih => rw [List.flatMap_cons, List.length_append, ih, bigBytes_length, List.length_cons]; simp only [sha2of32]; omega
  rw [sha256, Sha2.digest, h, key _ _ rfl]
theorem sha256_small (m : List Nat) : ∀ b ∈ sha256 m, b < 256 := by
  intro b hb
  simp only [sha256, Sha2.digest, List.mem_flatMap] at hb
  obtain ⟨x, _, hx⟩ := hb
  exact bigBytes_small _ _ b hx
theorem lmsRoot_digest (ident : List Nat) (l : List (List Nat)) : ∀ (node : Nat) (t : List Nat), t.length = 32 → (∀ b ∈ t, b < 256) →
    (lmsRoot ident l node t).length = 32 ∧ ∀ b ∈ lmsRoot ident l node t, b < 256 := by
  induction l with
  | nil => intro node t h1 h2; exact ⟨h1, h2⟩
  | cons p l ih => intro node t _ _; exact ih _ _ (sha256_length _) (sha256_small _)
theorem numbersOf_map (l : List Nat) (h : ∀ b ∈ l, b < 256) : numbersOf (l.map (BitVec.ofNat 8)) = l := by
  rw [numbersOf, List.map_map]
  exact (List.map_congr_left (fun b hb => by simp only [Function.comp_apply, BitVec.toNat_ofNat]; exact Nat.mod_eq_of_lt (h b hb))).trans (List.map_id _)

/-- The signature of zeros is valid under its key, over any message. -/
theorem hss_zeros (m : List Byte) : hssValid (hssKey m) m hssZeros = true := by
  have h := lmsRoot_digest zeroIdent (bytesBy 32 20 (lmsZeros.drop 1132)) (2 ^ 20 + 0) _
    (sha256_length (zeroIdent ++ bigBytes 4 (2 ^ 20 + 0) ++ [0x82, 0x82] ++ otsKey zeroIdent 0 ((lmsZeros.drop 8).take 32) (bytesBy 32 34 (lmsZeros.drop 40)) (numbersOf m)))
    (sha256_small _)
  have hn : numbersOf (hssKey m) = [0, 0, 0, 1, 0, 0, 0, 8, 0, 0, 0, 4] ++ (zeroIdent ++ hssRoot (numbersOf m)) := by
    rw [hssKey, numbersOf, List.map_append]
    exact congrArg _ (numbersOf_map _ h.2)
  have hl : (hssRoot (numbersOf m)).length = 32 := h.1
  rw [hssValid, hn]
  generalize hr : hssRoot (numbersOf m) = root at hl
  have h1 : bigNat ((numbersOf hssZeros).take 4) = 0 := by decide +kernel
  have h2 : ([0, 0, 0, 1, 0, 0, 0, 8, 0, 0, 0, 4] ++ (zeroIdent ++ root)).length = 60 := by simp [zeroIdent, hl]
  have h3 : bigNat (([0, 0, 0, 1, 0, 0, 0, 8, 0, 0, 0, 4] ++ (zeroIdent ++ root)).take 4) = 1 := rfl
  have h4 : ([0, 0, 0, 1, 0, 0, 0, 8, 0, 0, 0, 4] ++ (zeroIdent ++ root)).drop 4 = [0, 0, 0, 8, 0, 0, 0, 4] ++ (zeroIdent ++ root) := rfl
  rw [hssVerifies, h1, h2, h3, h4]
  have g1 : ([0, 0, 0, 8, 0, 0, 0, 4] ++ (zeroIdent ++ root)).length = 56 := by simp [zeroIdent, hl]
  have g2 : (([0, 0, 0, 8, 0, 0, 0, 4] ++ (zeroIdent ++ root)).drop 8).take 16 = zeroIdent := rfl
  have g3 : (([0, 0, 0, 8, 0, 0, 0, 4] ++ (zeroIdent ++ root)).drop 24).take 32 = root := List.take_of_length_le (by rw [← hl]; exact Nat.le_refl _)
  have g4 : bigNat (([0, 0, 0, 8, 0, 0, 0, 4] ++ (zeroIdent ++ root)).take 4) = 8 := rfl
  have g5 : bigNat ((([0, 0, 0, 8, 0, 0, 0, 4] ++ (zeroIdent ++ root)).drop 4).take 4) = 4 := rfl
  have g6 : lmsZeros.length = 1772 ∧ bigNat (lmsZeros.take 4) = 0 ∧ bigNat ((lmsZeros.drop 4).take 4) = 4 ∧ bigNat ((lmsZeros.drop 1128).take 4) = 8 := by decide +kernel
  have g7 : (numbersOf hssZeros).drop 4 = lmsZeros := rfl
  have g8 : lmsVerifies ([0, 0, 0, 8, 0, 0, 0, 4] ++ (zeroIdent ++ root)) (numbersOf m) lmsZeros = true := by
    rw [lmsVerifies, g1, g2, g3, g4, g5, g6.1, g6.2.1, g6.2.2.1, g6.2.2.2]
    exact (decide_eq_true hr).trans rfl |> fun h => by simp only [decide_true, Bool.true_and]; exact h
  rw [g7, if_pos rfl, g8]
  rfl

/-! Reading the memory of core 0 without looking up each byte. -/

def cellsFrom (a : Nat) : List Byte → List Host.Cell
  | [] => []
  | b :: l => if b = 0 then cellsFrom (a + 1) l else (a, b) :: cellsFrom (a + 1) l
theorem get_filter (p : Nat → Bool) (x : Nat) (hx : p x = true) (m : List Host.Cell) : Map.get 0 m x = Map.get 0 (m.filter (fun c => p c.1)) x := by
  induction m with
  | nil => rfl
  | cons c m ih =>
    obtain ⟨k, v⟩ := c
    by_cases hk : k = x
    · subst hk; simp [Map.get, List.filter, hx]
    · cases hp : p k <;> simp only [Map.get, List.filter, hp, if_neg hk] <;> exact ih
theorem get_before (l : List Byte) : ∀ a x : Nat, x < a → Map.get 0 (cellsFrom a l) x = 0 := by
  induction l with
  | nil => intro a x _; rfl
  | cons b l ih =>
    intro a x h
    simp only [cellsFrom]
    split
    · exact ih _ _ (by omega)
    · simp only [Map.get, if_neg (show ¬ a = x by omega)]; exact ih _ _ (by omega)
theorem get_cells (l : List Byte) : ∀ a : Nat, (List.range l.length).map (fun i => Map.get 0 (cellsFrom a l) (a + i)) = l := by
  induction l with
  | nil => intro a; rfl
  | cons b l ih =>
    intro a
    rw [List.length_cons, List.range_succ_eq_map, List.map_cons, List.map_map]
    have hb : Map.get 0 (cellsFrom a (b :: l)) (a + 0) = b := by
      simp only [cellsFrom]
      split
      · rename_i h; rw [h]; exact get_before l _ _ (by omega)
      · simp [Map.get]
    have ht : ∀ i, Map.get 0 (cellsFrom a (b :: l)) (a + (i + 1)) = Map.get 0 (cellsFrom (a + 1) l) (a + 1 + i) := by
      intro i
      have e : a + (i + 1) = a + 1 + i := by omega
      simp only [cellsFrom]
      split
      · rw [e]
      · simp only [Map.get, if_neg (show ¬ a = a + (i + 1) by omega)]; rw [e]
    rw [hb]
    refine congrArg _ (Eq.trans ?_ (ih (a + 1)))
    exact List.map_congr_left (fun i _ => ht i)
/-- Whether a memory holds these bytes from an address on. -/
def holdsAt (m : List Host.Cell) (a : Nat) (l : List Byte) : Bool := (m.filter (fun c => decide (a ≤ c.1) && decide (c.1 < a + l.length))) = cellsFrom a l
theorem bytes_held {m : List Host.Cell} {a : Nat} {l : List Byte} (h : holdsAt m a l = true) : (List.range l.length).map (fun i => Map.get 0 m (a + i)) = l := by
  refine Eq.trans (List.map_congr_left (fun i hi => ?_)) (get_cells l a)
  have hi' : i < l.length := List.mem_range.mp hi
  have h' := of_decide_eq_true h
  rw [← h']
  exact get_filter (fun k => decide (a ≤ k) && decide (k < a + l.length)) (a + i) (by simp; omega) m

/-- Whether pieces cover n bytes of core 0's memory from an address on. -/
def covers (s : State) : List Piece → Nat → Nat → Bool
  | [], _, n => n = 0
  | p :: l, a, n => p.x.pkg = s.pkgNum && p.x.pa = a && decide (p.size ≤ n) && decide (0x800000000000 ≤ a) && decide (a + p.size ≤ 0x800000200000)
      && covers s l (a + p.size) (n - p.size)
theorem core_byte (s : State) (kid pa : Nat) (h1 : 0x800000000000 ≤ pa) (h2 : pa < 0x800000200000) (hp : s.poison = []) (he : s.softErr = []) :
    s.byteAt kid pa = s.memByte pa ∧ s.poisAt pa = false := by
  have h : (placeOf pa).block = .coreMem := by
    have h3 : (pa - 0x800000000000) % 0x1000000 < 0x200000 := by omega
    rw [placeOf, if_neg (by omega), if_pos (by omega), windowPlace, if_pos h3]
  constructor
  · simp only [State.byteAt, h]
  · simp only [State.poisAt, h, State.sectorPoisoned, hp, he, Map.get]; rfl
theorem fetch_covers (s : State) (hp : s.poison = []) (he : s.softErr = []) : ∀ (ps : List Piece) (free a n : Nat), covers s ps a n = true →
    s.fetchFrom [] free ps = (List.range n).map (fun i => (s.memByte (a + i), false)) := by
  intro ps
  induction ps with
  | nil => intro free a n h; have h' : n = 0 := of_decide_eq_true h; subst h'; rfl
  | cons p l ih =>
    intro free a n h
    simp only [covers, Bool.and_eq_true, decide_eq_true_eq] at h
    obtain ⟨⟨⟨⟨⟨h1, h2⟩, h3⟩, h4⟩, h5⟩, h6⟩ := h
    rw [State.fetchFrom, ih _ _ _ h6, State.pieceBytes, if_pos h1, h2]
    have e : n = p.size + (n - p.size) := by omega
    rw [show List.range n = List.range (p.size + (n - p.size)) from congrArg _ e, List.range_add, List.map_append, List.map_map]
    refine congrArg₂ _ (List.map_congr_left (fun i hi => ?_)) (List.map_congr_left (fun i _ => ?_))
    · have hi' : i < p.size := List.mem_range.mp hi
      have hb := core_byte s p.x.kid (a + i) (by omega) (by omega) hp he
      rw [hb.1, hb.2]
    · simp only [Function.comp_apply, Nat.add_assoc]
/-- Whether a checked read of these bytes, which lie at an address of core 0's memory, passes and changes nothing. -/
def readsFine (s : State) (w : Who) (va : Int) (a : Nat) (l : List Byte) : Bool :=
  let ps := got (s.checkAccess w .read va l.length)
  isOk (s.checkAccess w .read va l.length) && s.gateOf ps = none && covers s ps a l.length && s.fetchEffects w.role w.tcid ps = [] && holdsAt s.mem a l
    && s.poison.isEmpty && s.softErr.isEmpty
theorem reads_fine {s : State} {w : Who} {va : Int} {a : Nat} {l : List Byte} (h : readsFine s w va a l = true) :
    s.readChecked w va l.length = .ok (l.map (fun b => (b, false)), []) := by
  simp only [readsFine, Bool.and_eq_true, decide_eq_true_eq, List.isEmpty_iff] at h
  obtain ⟨⟨⟨⟨⟨⟨h1, h2⟩, h3⟩, h4⟩, h5⟩, h6⟩, h7⟩ := h
  obtain ⟨ps, hps⟩ := isOk_some h1
  simp only [hps, got] at h2 h3 h4
  have hf := fetch_covers s h6 h7 ps s.free a _ h3
  rw [State.readChecked, hps]
  simp only [h2, h4, hf]
  have hb := bytes_held h5
  exact congrArg (fun x => Except.ok (x, [])) (by
    conv => rhs; rw [← hb]
    rw [List.map_map]; rfl)

/-- The records that byte strings make from an offset on. -/
def recsFrom (off : Nat) : List (List Byte) → List Rec
  | [] => []
  | b :: l => { type := bits (leNat (b.take 8)) 0 8, off := off, bytes := b } :: recsFrom (off + b.length) l
/-- Whether these records, the last a signature record, are read from an address of core 0's memory. -/
def recordsRead (s : State) (w : Who) (va a : Nat) : Nat → List (List Byte) → Bool
  | _, [] => false
  | off, b :: l =>
    let h := leNat (b.take 8)
    decide (8 ≤ b.length) && readsFine s w ((va + off : Nat) : Int) (a + off) (b.take 8) && readsFine s w ((va + off : Nat) : Int) (a + off) b
      && decide (h ≠ 0) && decide (1 ≤ bits h 0 8) && decide (bits h 0 8 ≤ 8) && bits h 8 32 = b.length && b.length % 64 = 0 && bits h 40 24 = 0
      && (if bits h 0 8 = 7 then l.isEmpty else recordsRead s w va a (off + b.length) l)
theorem records_read {s : State} {w : Who} {va a : Nat} : ∀ (l : List (List Byte)) (fuel off : Nat), l.length ≤ fuel → recordsRead s w va a off l = true →
    s.readRecords w va fuel off = .ok (recsFrom off l, []) := by
  intro l
  induction l with
  | nil => intro fuel off _ h; cases h
  | cons b l ih =>
    intro fuel off hn h
    obtain ⟨fuel, rfl⟩ : ∃ k, fuel = k + 1 := ⟨fuel - 1, by simp only [List.length_cons] at hn; omega⟩
    simp only [recordsRead, Bool.and_eq_true, decide_eq_true_eq] at h
    obtain ⟨⟨⟨⟨⟨⟨⟨⟨⟨h1, h2⟩, h3⟩, h4⟩, h5⟩, h6⟩, h7⟩, h8⟩, h9⟩, h10⟩ := h
    have e1 := reads_fine h2
    have e2 := reads_fine h3
    have e0 : (b.take 8).length = 8 := by rw [List.length_take]; omega
    have e3 (x : List Byte) : (x.map (fun b => (b, false))).map (fun x => x.1) = x := by rw [List.map_map]; exact List.map_id x
    rw [e0] at e1
    rw [State.readRecords, e1]
    simp only [e3]
    rw [if_neg h4, if_neg (by rw [h7]; omega), h7, e2]
    have ea : s.apply [] = s := rfl
    simp only [e3, ea]
    split at h10
    · rename_i ht
      rw [List.isEmpty_iff] at h10
      subst h10
      rw [if_pos ht]; rfl
    · rename_i ht
      rw [if_neg ht, ih fuel _ (by simp only [List.length_cons] at hn; omega) h10]; rfl

/-- A packet of one slot whose words are these, and the state whose focus is a thread of process 1 that may start it. The virtual addresses 0 to
2 MiB of process 1 lie in the memory of core 0: a launch record at 0x10000, its container at 0x30000 and a delta container at 0x40000, signed
under key slots 0 and 1. -/
def packetOf (l : List Nat) : QPacket := { first := commandWord l, second := blankWords }
def aThread : Thread := { Thread.reset with bound := true, mapped := true, tcid := 1, ringVa := 0x100 }
def containerBytes : List Byte := [1, 64] ++ List.replicate 62 0 ++ [2, 64] ++ List.replicate 8 0 ++ [1, 1] ++ List.replicate 52 0
def deltaBytes : List Byte := [8, 64] ++ List.replicate 7 0 ++ [6] ++ List.replicate 7 0 ++ [240, 3, 0, 128] ++ List.replicate 43 0
def containerSigned : Signed :=
  { x := 0xC7481E900707772C994FF4DF19E282FD576509E51E5273E206012A4BD52DFAD96376C56C7FF6D07608997EE5F12E372F
    y := 0x8365D1EC74153BD93C6652011A85922745328DDF0BB60690C34279A8E50E1FE06C65E978D83AFBCC58B54A9831C5BD42
    r := 0x843108D78AFA285B98A5B9CCED4EEE640386E58595A3ACC0167C7C055DAA5E657417729C2C4B83D9E10AF99C30EA1F9D
    s := 0x843108D78AFA285B98A5B9CCED4EEE640386E58595A3ACC0167C7C055DAA5E657417729C2C4B83D9E10AF99C30EA1F9D }
def deltaSigned : Signed :=
  { x := 0x2F15401E2F06331753B3CAEFB5DDF9E8B161BE5FC746793C4230A06631045649A0E950844776D8BCB9353F3EDFB68A4F
    y := 0xCF7D4290D2C6BCFDD8997CE89E07058EAC3626298A3C704EE149B5EE5388E42DAF3DFD18EA46718E0DBF163E9C77EE4E
    r := 0xFAC02C9C893E50BE15DEFA3C5A9B28384F212E12A7A4AE9DF60E68905132665CB9E956A9527471085BFE636028F3E1FB
    s := 0x539564342DBF703F5C9FA8BEC8DE62BD6FB5BA0637E18F89FCAF78301B10CCC9934DC78DC626D0581EAA21200DA6A0A9 }
def keyOf (g : Signed) (l : List Byte) : KeySlot := { state := 1, ecdsa := g.key, hss := hssKey (signedOver l) }
theorem key_verifies {g : Signed} {l : List Byte} (h : ecdsaValid g.key (signedOver l) g.pair = true) : (keyOf g l).verifies l g.pair hssZeros = true := by
  simp only [KeySlot.verifies, keyOf, Bool.and_eq_true]
  exact ⟨h, hss_zeros (signedOver l)⟩
theorem test_container_signed : ecdsaValid containerSigned.key (signedOver containerBytes) containerSigned.pair = true := by decide +kernel
theorem test_delta_signed : ecdsaValid deltaSigned.key (signedOver deltaBytes) deltaSigned.pair = true := by decide +kernel
/-- A signature record of a key slot. -/
def sigBytes (slot : Byte) (g : Signed) : List Byte := [7, 128, 7, 0, 0, 0, 0, 0, slot, 1, 0, 0, 0, 0, 0, 0] ++ g.pair ++ hssZeros ++ List.replicate 32 0
def aRecord : Nat := 5 * 2 ^ 32 + 9 * 2 ^ 80 + 0x30000 * 2 ^ 144 + 0x20000 * 2 ^ 192
def memories : List Host.Cell :=
  [(0x800000010004, 5), (0x80000001000A, 9), (0x800000010014, 3), (0x80000001001A, 2), (0x800000010020, 2), (0x800000010021, 2)]
    ++ cellsFrom 0x800000030000 (containerBytes ++ sigBytes 0 containerSigned) ++ cellsFrom 0x800000040000 (deltaBytes ++ sigBytes 1 deltaSigned)
def serving (x : Thread) : State :=
  { State.reset with focus := .thread 0, threads := [(0, x)], tlb := [(384, [{ tcid := 1, vpage := 0, size := 1, leaf := 0x80000000003B }])], mem := memories
                     root := { Root.reset with phase := .normal, images := [(0, keyOf containerSigned containerBytes), (1, keyOf deltaSigned deltaBytes)] } }
/-- A launch of one core that waits. -/
def waitingLaunch : Launch := { aLaunch with place := [], ncores := 1, waiting := true, img := 0x30000, levels := [0x202], regions := [] }
def serves : State := { serving aThread with launches := [waitingLaunch] }
theorem test_packets : (∀ x ∈ [(0, packetOf []), (3, { first := commandWord [3 + 2 ^ 16, 383], second := aCopy }), (4, packetOf [4, 0x100, 5, 0x102]),
    (5, packetOf [5, 0x100, 5, 1]), (6, packetOf [6, 9 + 2 ^ 16])],
      serves.focus = .thread 0 ∧ serves.mayStart 0 x.2 = true ∧ queuePacketOk x.1 x.2 = true)
    ∧ serves.checkSigq 1 (packetOf [5, 0x100, 5, 1]) = .ok (got (serves.checkSigq 1 (packetOf [5, 0x100, 5, 1])))
    ∧ serves.gateOf (got (serves.checkSigq 1 (packetOf [5, 0x100, 5, 1]))) = none
    ∧ serves.mayStart 0 (packetOf [5, 0x104, 5, 1]) = true ∧ isOk (serves.checkSigq 1 (packetOf [5, 0x104, 5, 1])) = false := by decide +kernel

/-- The records of the container and of the delta, and the bytes that their signatures are made over. -/
def containerParts : List (List Byte) := [containerBytes.take 64, containerBytes.drop 64, sigBytes 0 containerSigned]
def deltaParts : List (List Byte) := [deltaBytes, sigBytes 1 deltaSigned]
theorem container_parts : (recsFrom 0 containerParts).dropLast.flatMap (fun x => x.bytes) = containerBytes
    ∧ ((recsFrom 0 containerParts).getLast?).map (fun r => (r.type, signatureParts r.bytes)) = some (7, some (0, containerSigned.pair, hssZeros)) := by decide +kernel
theorem delta_parts : (recsFrom 0 deltaParts).dropLast.flatMap (fun x => x.bytes) = deltaBytes
    ∧ ((recsFrom 0 deltaParts).getLast?).map (fun r => (r.type, signatureParts r.bytes)) = some (7, some (1, deltaSigned.pair, hssZeros)) := by decide +kernel
/-- A signature stands once both its parts verify. -/
theorem signature_stands {s : State} {rs : List Rec} {n : Nat} {l : List Byte} {g : Signed} (hn : n ≤ 15) (hk : s.imageKey n = keyOf g l)
    (hv : ecdsaValid g.key (signedOver l) g.pair = true)
    (h : rs.dropLast.flatMap (fun x => x.bytes) = l ∧ rs.getLast?.map (fun r => (r.type, signatureParts r.bytes)) = some (7, some (n, g.pair, hssZeros))) :
    s.signatureFail rs = none := by
  obtain ⟨h1, h2⟩ := h
  rw [Option.map_eq_some_iff] at h2
  obtain ⟨r, hr, h3⟩ := h2
  obtain ⟨h4, h5⟩ := Prod.mk.inj h3
  have h6 : (keyOf g l).state = 1 := rfl
  simp [State.signatureFail, hr, h4, h5, hn, hk, h1, h6, key_verifies hv]
def gotPair {α β ε : Type} (a : α) (b : β) (x : Except ε (α × β)) : α × β := match x with | .ok y => y | .error _ => (a, b)

def aLaunchPacket : QPacket := packetOf [1, 0x10000]
def aDeltaPacket : QPacket := packetOf [2, 9, 0x40000]


/-- The container at 0x30000 and the record at 0x10000. -/
def theContainer : Container := (containerOf (recsFrom 0 containerParts)).getD { images := [], data := [], recs := [] }
def recordBytes : List Byte := leBytes 32 aRecord
def levelBytes : List Byte := [2, 2, 0, 0, 0, 0, 0, 0]
def launchPlan : Plan :=
  { cpl := 0x20000, img := 0x30000, dlt := 0, hnd := 9, poff := 0, res := false, levels := [{ kind := 2, scope := 2, ext := 1 }], roles := [], params := [] }
theorem the_container : containerOf (recsFrom 0 containerParts) = some theContainer ∧ launchPlan.imagesIn theContainer = true
    ∧ planOf 0x10000 aRecord [leNat levelBytes] = some launchPlan ∧ leNat recordBytes = aRecord ∧ recordLen aRecord = 5 := by decide +kernel
/-- Whether a state reads the container, and the record before it. -/
def containerFine (s : State) : Bool := recordsRead s (s.foreWho 1) 0x30000 0x800000030000 0 containerParts
def planFine (s : State) : Bool :=
  readsFine s (s.foreWho 1) ((0x10000 : Nat) : Int) 0x800000010000 recordBytes && readsFine s (s.foreWho 1) ((0x10000 + 32 : Nat) : Int) 0x800000010020 levelBytes
    && containerFine s
theorem container_read {s : State} (h : containerFine s = true) (hk : s.imageKey 0 = keyOf containerSigned containerBytes) :
    s.readContainer (s.foreWho 1) 0x30000 = .ok (theContainer, []) := by
  rw [State.readContainer, records_read _ _ _ (by decide) h]
  simp only [the_container.1, signature_stands (by decide) hk test_container_signed container_parts]
theorem plan_read {s : State} (h : planFine s = true) (hk : s.imageKey 0 = keyOf containerSigned containerBytes) :
    s.readChecked (s.foreWho 1) ((0x10000 : Nat) : Int) 32 = .ok (recordBytes.map (fun b => (b, false)), [])
      ∧ leNat ((recordBytes.map (fun b => (b, false))).map (fun y => y.1)) = aRecord ∧ s.readPlan 1 0x10000 aRecord = .ok (launchPlan, theContainer, []) := by
  simp only [planFine, Bool.and_eq_true] at h
  obtain ⟨⟨h1, h2⟩, h3⟩ := h
  refine ⟨reads_fine h1, by decide +kernel, ?_⟩
  have hb : s.readChecked (s.foreWho 1) ((0x10000 + 32 : Nat) : Int) (8 * (recordLen aRecord - 4)) = .ok (levelBytes.map (fun b => (b, false)), []) := by
    rw [the_container.2.2.2.2]; exact reads_fine h2
  have hp : planOf 0x10000 aRecord ((chunksOf 8 (levelBytes.map (fun b => (b, false))).length (levelBytes.map (fun b => (b, false)))).map
      (fun w => leNat (w.map (fun x => x.1)))) = some launchPlan := by decide +kernel
  have hi : launchPlan.img = 0x30000 := rfl
  rw [State.readPlan, if_neg (by rw [the_container.2.2.2.2]; decide), hb]
  simp only [hp, hi, container_read h3 hk, the_container.2.1, if_true, List.append_nil]
theorem launch_open {s : State} (h : planFine s = true) (hk : s.imageKey 0 = keyOf containerSigned containerBytes) : s.launchGate 1 0x10000 = none := by
  have h1 := plan_read h hk
  rw [State.launchGate, h1.1]
  simp only [h1.2.1, h1.2.2]
/-- A plan of one package that some placement of its own fits could be placed. -/
theorem could_place (s : State) (p : Plan) (h1 : p.packages = 1) (h2 : (p.placeOn 1 (List.range 384)).isSome = true) : s.couldPlace p = true := by
  have key : ∀ (l : List Nat) (a : Nat), a ≤ l.foldl Nat.max a ∧ ∀ x ∈ l, x ≤ l.foldl Nat.max a := by
    intro l
    induction l with
    | nil => intro a; exact ⟨Nat.le_refl _, fun x hx => absurd hx (List.not_mem_nil)⟩
    | cons y l ih =>
      intro a
      have h := ih (Nat.max a y)
      refine ⟨Nat.le_trans (Nat.le_max_left a y) h.1, fun x hx => ?_⟩
      rcases List.mem_cons.mp hx with rfl | hx
      · exact Nat.le_trans (Nat.le_max_right a x) h.1
      · exact h.2 x hx
  have h3 := (key ((List.range 65).filter (fun k => (p.placeOn k (List.range 384)).isSome)) 0).2 1 (List.mem_filter.mpr ⟨by decide, h2⟩)
  rw [State.couldPlace, h1]
  exact decide_eq_true (Nat.le_trans h3 (Nat.le_mul_of_pos_right _ (by omega)))

/-- LAUNCH of one core: every hypothesis holds, and a place is found; and in a package whose cores do not wake but for core 0, which another process's
region holds, none is. -/
def crowded : State :=
  { serves with gated := (List.range 383).map (fun k => (k + 1, .waking)), served := [(0, 2)]
                regions := [(0, { Region.reset with state := .running, tcid := 2, nrows := 8, ncols := 16 })] }
/-- The state once the launch is entered in the list. -/
def launchEntered (s : State) : State :=
  let u := packetStarted s 0 aLaunchPacket
  let q := launchPlan.launch u.nextId 1 0 0
  { u with nextId := u.nextId + 1, launches := u.launches ++ [q], threads := Map.set Thread.reset u.threads 0 { u.thread 0 with block := .launch q.id } }
def launchFine (s : State) : Bool :=
  let u := packetStarted s 0 aLaunchPacket
  s.mayStart 0 aLaunchPacket && queuePacketOk 1 aLaunchPacket && planFine s && planFine u && (u.cplFail 1 (recordCpl aRecord)).isNone && (u.thread 0).tcid = 1
theorem test_launch : (launchFine serves = true ∧ (packetStarted serves 0 aLaunchPacket).imageKey 0 = keyOf containerSigned containerBytes
    ∧ ((launchEntered serves).choose 1 launchPlan theContainer).isSome = true) ∧ launchPlan.packages = 1 ∧ (launchPlan.placeOn 1 (List.range 384)).isSome = true :=
  ⟨⟨by decide +kernel, rfl, by decide +kernel⟩, by decide +kernel, by decide +kernel⟩
set_option maxRecDepth 100000 in
theorem test_launch_waits : launchFine crowded = true ∧ (packetStarted crowded 0 aLaunchPacket).imageKey 0 = keyOf containerSigned containerBytes
    ∧ (launchEntered crowded).choose 1 launchPlan theContainer = none :=
  ⟨by decide +kernel, rfl, by decide +kernel⟩

/-- DELTA of one slot in the running launch with handle 9, whose region holds element 3. -/
def oneLaunch : Launch := { aLaunch with place := [0], ncores := 1 }
def deltaServes : State :=
  { serves with launches := [oneLaunch]
                regions := [(0, { Region.reset with state := .running, tcid := 1, nrows := 8, ncols := 16, launch := 7 })], elems := [(3, elemOn)] }
def theDelta : List DeltaRec := ((recsFrom 0 deltaParts).dropLast.mapM deltaRec).getD []
def deltaFine (s : State) : Bool := recordsRead s (s.foreWho 1) 0x40000 0x800000040000 0 deltaParts
theorem the_delta : (recsFrom 0 deltaParts).dropLast.mapM deltaRec = some theDelta ∧ (theDelta.isEmpty || theDelta.any (fun d => decide (1 ≤ d.lcore) && d.lcore ≠ 511)) = false
    ∧ theDelta.length = 1 := by decide +kernel
theorem delta_read {s : State} (h : deltaFine s = true) (hk : s.imageKey 1 = keyOf deltaSigned deltaBytes) : s.readDelta (s.foreWho 1) 0x40000 1 = .ok (theDelta, []) := by
  rw [State.readDelta, if_neg (by decide), records_read _ _ _ (by decide) h]
  simp only [the_delta.1, the_delta.2.1, signature_stands (by decide) hk test_delta_signed delta_parts, Bool.false_eq_true, if_false]
theorem test_delta_named : let u := packetStarted deltaServes 0 aDeltaPacket
    (deltaServes.mayStart 0 aDeltaPacket = true ∧ queuePacketOk 2 aDeltaPacket = true ∧ (u.thread 0).tcid = 1 ∧ deltaServes.launchNamed 1 9 = some oneLaunch
      ∧ u.launchNamed 1 9 = some oneLaunch ∧ oneLaunch.delta = none ∧ oneLaunch.waiting = false ∧ oneLaunch.ncores = 1 ∧ u.launchStopped oneLaunch = false
      ∧ deltaFine deltaServes = true ∧ deltaFine u = true ∧ u.deltaInside oneLaunch theDelta = true)
    ∧ deltaServes.imageKey 1 = keyOf deltaSigned deltaBytes ∧ u.imageKey 1 = keyOf deltaSigned deltaBytes := ⟨by decide +kernel, rfl, rfl⟩

/-- A thread blocked by a WAITQ for a value below 5 at 0x200, and for one of at least 5; and by a FENCEQ. -/
def blocked (cond : Nat) : State := serving { aThread with block := .waitq 0x200 5 cond false }
theorem test_wait : ∀ c ∈ [0, 1],
    let s := blocked c
    (s.thread 0).bound = true ∧ (s.thread 0).mapped = true ∧ (s.thread 0).stopped = false ∧ s.checkBehalf 1 .read 0x200 8 = .ok (got (s.checkBehalf 1 .read 0x200 8))
    ∧ s.gateOf (got (s.checkBehalf 1 .read 0x200 8)) = none
    ∧ waitHolds c (leNat ((s.fetchFrom [] s.free (got (s.checkBehalf 1 .read 0x200 8))).map (fun b => b.1))) 5 = decide (c = 1) := by decide +kernel
theorem test_fence_again : let s := serving { aThread with block := .fenceq (packetOf [6, 9 + 2 ^ 16]) }
    s.focus = .thread 0 ∧ (s.thread 0).block = .fenceq (packetOf [6, 9 + 2 ^ 16]) ∧ (s.thread 0).mapped = true ∧ (s.thread 0).stopped = false := by decide +kernel
/-- The waiting launch may be placed on core 383. -/
theorem test_placement : (serves.launch? 7 = some waitingLaunch ∧ waitingLaunch.waiting = true ∧ waitingLaunch.tcid = 1 ∧ waitingLaunch.img = 0x30000
      ∧ containerFine serves = true ∧ waitingLaunch.plan.imagesIn theContainer = true ∧ serves.placementOk 1 waitingLaunch.plan theContainer [383] = true)
    ∧ serves.imageKey 0 = keyOf containerSigned containerBytes := ⟨by decide +kernel, rfl⟩
/-- A delta whose held element has stopped: one of a slot, and one beside a slot of no opcode. -/
def deltaHeld (bad : Nat) : State :=
  { deltaServes with launches := [{ oneLaunch with delta := some theDelta }], elems := [(3, { elemOn with held := true })]
                     mem := cellsOf (imageBase 3 0) 8 (2 + 0x20 * 2 ^ 15) ++ cellsOf (imageBase 3 0 + 8) 8 0x777777 ++ cellsOf (imageBase 3 0 + 28) 12 bad }
theorem test_delta_apply : ∀ x ∈ [(0, true), (2 ^ 39 + 0x36 * 2 ^ 40, false)],
    let l : Launch := { oneLaunch with delta := some theDelta }
    let s := deltaHeld x.1
    s.launch? 7 = some l ∧ s.launchStopped l = false ∧ (∀ k ∈ s.heldBy l, (s.elem k).busy = none) ∧ s.heldBy l = [3]
    ∧ (∀ b ∈ l.regions, (s.region b).state ≠ .completing)
    ∧ ((s.apply (deltaContexts l theDelta s)).deltaFail (deltaChanged l theDelta)).isNone = x.2 := by decide +kernel
theorem test_run_list : let s : State := { State.reset with procs := [(3, { Proc.reset with live := true })], runPos := 3 }
    s.nextProc s.runPos = some 3 := by decide +kernel


/-- Region 0 of core 0 in a state, over all sites, of launch 7. -/
def region0 (r : Region) (l : List (Nat × Elem)) : State :=
  { State.reset with elems := l, regions := [(0, { r with nrows := 8, ncols := 16, launch := 7, tcid := 1 })], launches := [aLaunch] }
theorem test_completion : let s := region0 { Region.reset with state := .running, snkx := 1, snkd := 1 } [(3, elemOn)]
    (s.region 0).state = .running ∧ (s.region 0).snkx ≠ 0 ∧ (s.region 0).snkx ≤ (s.region 0).snkd := by decide +kernel
theorem test_completed : let s := region0 { Region.reset with state := .completing } [(3, { elemOn with active := false })]
    (s.region 0).state = .completing ∧ (∀ k ∈ s.regionElems 0, (s.elem k).busy = none) ∧ s.outstanding 0 (s.regionElems 0) = false := by decide +kernel
def aChild : Child := { ctx := 0, label := 5, payload := [1, 2], succ := [], scope := 2 }
/-- A child whose entry context has a sink. -/
theorem test_child_start : let s : State := { region0 { Region.reset with state := .idle, children := [aChild] } [(3, { Elem.reset with loaded := 1 })] with mem := cellsOf (imageBase 3 0) 8 (2 ^ 27) }
    (s.region 0).state = .idle ∧ s.launch? (s.region 0).launch = some aLaunch ∧ aLaunch.delta = none ∧ (s.region 0).children = [aChild]
    ∧ ({ s with regions := Map.set Region.reset s.regions 0 { s.region 0 with children := [], succ := [], succScope := 2, inChild := true, cpl := 0 } } : State).sinks 0 0 ≠ 0 := by decide +kernel
theorem test_preempt : ∀ x ∈ [RState.idle, .running], ((region0 { Region.reset with state := x } []).region 0).state = x := by decide +kernel
/-- Every site of one row has acted, and the marker of the region's range is in. -/
def cutting : State :=
  { State.reset with elems := (List.range 16).map (fun k => (k, { elemOn with acted := true }))
                     regions := [(0, { Region.reset with state := .preempting, nrows := 1, ncols := 16, snkx := 1 })], ranges := [(63, { topRange with mrk := 1, bnds := 1 })] }
theorem test_cut : (cutting.region 0).state = .preempting ∧ (cutting.region 0).snkd < (cutting.region 0).snkx ∧ (∀ k ∈ cutting.regionElems 0, (cutting.elem k).acted = true)
    ∧ cutting.portHolds 0 = false
    ∧ (∀ i ∈ cutting.rangesOf 0, (cutting.range (0 / 16) i).mrk = (cutting.range (0 / 16) i).bnds) ∧ cutting.rangesOf 0 = [63] := by decide +kernel
theorem test_overdue : let s : State := { region0 { Region.reset with state := .preempting, cutAt := 1 } [(3, elemOn)] with cycle := 65537 }
    (s.region 0).state = .preempting ∧ s.cutDone 0 = false ∧ (s.region 0).cutAt.toNat + 65536 ≤ s.cycle.toNat := by decide +kernel
theorem test_deadlock : let s := region0 { Region.reset with state := .running, quiet := 65536 } [(3, elemOn)]
    s.windowOf 0 = some 65536 ∧ (s.region 0).state = .running ∧ 65536 ≤ (s.region 0).quiet := by decide +kernel
/-- A region trapped by the TRAP in slot 0 of element 3. -/
def trappedAt : State :=
  { region0 { Region.reset with state := .trapped, cause := 0x40 } [(3, { elemOn with stopped := true, trap := some { cause := 0x40, orig := 0, slot := 0, ctx := 0, detail := 0 } })] with
    mem := cellsOf (imageBase 3 0 + 16) 12 (2 ^ 39 + 0x81 * 2 ^ 40) }
theorem test_resume : (trappedAt.region 0).state = .trapped ∧ (trappedAt.region 0).cause ≠ 0x55 ∧ (trappedAt.region 0).cause ≠ 0x56
    ∧ (∀ k ∈ trappedAt.regionElems 0, (trappedAt.elem k).trap.all (fun i => trappedAt.trappedInTrap k i) = true) := by decide +kernel
/-- A child for the running launch with handle 9, here, as a request of another package, and for a logical core that lies in package 1; and one for a
handle that no launch has. -/
def childTask (hnd : Nat) (peer : Option PeerReq) (place : List Nat) : State :=
  { region0 { Region.reset with state := .running } [] with
    taskNet := [.child 0 [BitVec.ofNat 64 (hnd * 2 ^ 48)] [] 1 0 4 peer], launches := [{ aLaunch with place := place }]
    regions := [(0, { Region.reset with state := .running, cl0 := 3, nrows := 1, ncols := 1, launch := 7, tcid := 1, children := List.replicate 7 aChild })]
    elems := [(3, elemOn)] }
def childReq : PeerReq :=
  { port := 11, pa := 0, op := .task, size := 1, data := [], tcid := 1, srcPkg := 63, srcCore := 0, tag := 0, arg := 0, pois := 0, issuer := 0 }
def calledBy (w : Nat) (l : Launch) : Bool := l.hnd.toNat = bits w 48 16 && l.tcid = 1 && l.res && !l.waiting
theorem test_child_receive : ∀ peer ∈ [none, some childReq], let s := childTask 9 peer [0, 5]
    let w := 9 * 2 ^ 48
    s.taskNet[0]? = some (.child 0 [BitVec.ofNat 64 w] [] 1 0 4 peer) ∧ s.childBefore 0 0 w = false ∧ s.launches.find? (calledBy w) = some aLaunch
    ∧ (if peer.isSome then some 0 else s.childCore aLaunch false (bits w 42 6) (bits w 33 9)) = some 0
    ∧ s.powerOf 0 = .on ∧ s.childRegion aLaunch 0 w 0 = some 0 ∧ (s.region 0).children.length = 7 := by decide +kernel
theorem test_child_far : let s := childTask 9 none [1024 + 5, 5]
    let w := 9 * 2 ^ 48
    s.childBefore 0 0 w = false ∧ s.launches.find? (calledBy w) = some { aLaunch with place := [1024 + 5, 5] }
    ∧ s.childCore { aLaunch with place := [1024 + 5, 5] } false (bits w 42 6) (bits w 33 9) = some (1024 + 5) ∧ s.cutOff ((1024 + 5) / 512 - 1) = false := by decide +kernel
theorem test_child_refused : (childTask 8 none [0, 5]).childBefore 0 0 (8 * 2 ^ 48) = false ∧ (childTask 8 none [0, 5]).launches.find? (calledBy (8 * 2 ^ 48)) = none
    ∧ (childTask 9 none [0, 5]).childRegion aLaunch 0 (9 * 2 ^ 48 + 5 * 2 ^ 30) 0 = none := by decide +kernel
theorem test_discard_region : ∀ x ∈ [RState.running, .trapped, .preempting, .saved], ((region0 { Region.reset with state := x } []).region 0).state = x := by decide +kernel
/-- A region saved in place at row 7, column 15; and one kept in a save record, to be restored onto core 5 at row 7, column 3. -/
def savedRegion (c : Nat) : Region := { Region.reset with state := .saved, rw0 := 7, cl0 := c, nrows := 1, ncols := 1, tcid := 1 }
theorem test_restore : let s : State := { State.reset with regions := [(15, savedRegion 15)] }
    s.saves[0]? = none ∧ (blocksOf 0).find? (fun b => (s.region b).state = .saved && (s.region b).rw0 = 7 && (s.region b).cl0 = 15) = some 15 ∧ s.restoreFail 15 = none := by decide +kernel
def aSave : Save :=
  { region := savedRegion 3, block := 0, core := 0, elems := [(115, { Elem.reset with d := [(0, entryOf 2 [5])] })], images := [], poison := [], ranges := [], words := [], binds := []
    cmds := [], coreArea := none, area := 0, coreAt := 0, onto := none }
theorem test_restore_record : let s : State := { State.reset with saves := [aSave] }
    let p : NewPlace := { blk := (s.freeBlocks 5).headD 0, core := 5, row := 7, col := 3 }
    let t := State.run { s with saves := [] } (Prog.seq
      [if Map.get 0 s.served 5 = aSave.region.tcid then Prog.skip else claimCore aSave.region.tcid 5 [], writeCoreArea aSave 5, writeSave aSave p])
    s.saves[0]? = some aSave ∧ s.placeFail aSave p = none ∧ t.restoreFail p.blk = none ∧ (t.elem (ekey 5 115)).d = [(0, entryOf 2 [5])] := by decide +kernel

/-- The host port keyed, with a valid entry for process 1 of RKEY 0xFFF00001 and queue pair 1,023 that admits the first 64 bytes of its space. -/
def hosted (q : QpState) (k : Bool) : State :=
  { serves with ports := [(12, { Port.reset with keyed := k })], qps := [(1023, q)]
                tlb := [(384, [{ tcid := 1, vpage := 0, size := 2, leaf := ringLeaf 0 }])]
                hostKeys := [(0xFFF, BitVec.ofNat 256 (64 * 2 ^ 96 + 7 * 2 ^ 192 + 1 * 2 ^ 204 + 1023 * 2 ^ 214 + 0xFFF00001 * 2 ^ 224))] }
theorem test_host : (∀ k : Bool, ((hosted .ready k).port 12).keyed = k) ∧ (hosted .ready true).root.phase = .normal ∧ ((1023 : Nat) < 1024) ∧ (hosted .ready true).qpOf 1023 = .ready := by decide +kernel
theorem test_host_write : let s := hosted .limited true
    let r : HostReq := { write := true, rkey := 0xFFF00001, va := 56, len := 8, data := List.replicate 8 1 }
    s.qpOf 1023 = .limited ∧ s.hostEntry 1023 r = some 1 ∧ s.hostTranslates 1 r = true
    ∧ isOk (s.checkAccess (s.hostWho 1023 1) .write 56 8) = true ∧ isOk (s.writeChecked (s.hostWho 1023 1) 56 r.data) = true := by decide +kernel
theorem test_host_read : let s := hosted .ready true
    let r : HostReq := { write := false, rkey := 0xFFF00001, va := 0, len := 64, data := [] }
    s.hostEntry 1023 r = some 1 ∧ s.hostTranslates 1 r = true ∧ isOk (s.checkAccess (s.hostWho 1023 1) .read 0 64) = true := by decide +kernel
/-- Requests that no entry admits, and one whose page does not translate. -/
theorem test_host_refused : let s := hosted .ready true
    let r (write : Bool) (va : Nat) : HostReq := { write := write, rkey := 0xFFF00001, va := va, len := 8, data := if write then List.replicate 8 0 else [] }
    (∀ b : Bool, s.hostEntry 1023 (r b 57) = none ∧ s.hostEntry 1023 (r b 56) = some 1) ∧ ∀ b : Bool, ({ s with tlb := [] } : State).hostTranslates 1 (r b 56) = false := by
  decide +kernel

/-- Management packets with sequence number 1, their reply at 0xC0000, each signed by an owner's key. -/
def packetBy (l : List Nat) (x y r s : Nat) : MgmtPacket × Signed :=
  ({ slot := commandWord [2 ^ 32, 0, 0xC0000], operands := l.map (fun x => BitVec.ofNat 64 x), sig := sigBytes 255 { x := x, y := y, r := r, s := s } }, { x := x, y := y, r := r, s := s })
def pCreate : MgmtPacket × Signed := packetBy [0x3000186A0, 0x8FFFFFFFFFFC0, 512, 0x5FFFFF0000, 65536]
  0xDE1FE2EF145668F1A72D6B435F9F2A86FE0AC3978C9423B8F725B138CAF41071BD15A5036F22C7E76B33E961AE623416 0xB75B4978A3093EC2ADB04828E9D8EED60F451315F3598FA3F115E6B990EA8C64BB15EC0D55538DD51C35E53CCF03DE24
  0x437D2A12D66E1EAE1F6387A1B34DFB1CC270B1625C9D9DF6F96E3D9D5AF2CF2DB17CF6C575CB01EAD289A806874590F4 0x21BE95096B370F570FB1C3D0D9A6FD8E613858B12E4ECEFB7CB71ECEAD796796D8BE7B62BAE580F56944D40343A2C87A
def pProcess : MgmtPacket × Signed := packetBy [0x1F0001, 64]
  0x582A82F5DE6B74A2FFF62DDB5F032CD60A890D0E72B5A73FFF3CBB0671304F541D3D308F8F783A4FEE834D8D6DFF0B81 0xE7512B6258CD6D824CB3CAD55F6A8ED336BF5B9052072F68371E4B594B1B2634EFC3558664C4744A98316E39B7AACD30
  0x129C34FB3F01DAA5CC73E0F97CE01A514EB31F49E756FE18728E977D42E9B95F0763BFF5CB659913BD2EEDBFA6C98E81 0x894E1A7D9F80ED52E639F07CBE700D28A7598FA4F3AB7F0C1CF8F27F9B90739F2FBEE6D40A0B2047550D839539C75BFA
def pKey : MgmtPacket × Signed := packetBy [0xFFF0001, 0, 0, 0, 4096]
  0x4A10E2B04EC48CC154313FF206823299BD09B98B05923F8ECFA1B39DFA81E85BF559C4898908AD8D538D199436D94F69 0x549C12B156BF7F043CE534BFC4A2FCD799A96CB3106C7555A4E8613AC2ED93EDA4445A75C7E524254F821AEAC337AEF5
  0x211B55F7D0CB35865FB199572CB65D6059D276647B484043E9F9695AAA92F73637A6732C24D313EE52E21AA24E456BF3 0xB091CA7F043BC821FE5DDC7B9921F201DF0D2217E6D6AC14DFDCDC8E386526767E226640C465BFA1BA0B38B6F6C7951
def pThaw : MgmtPacket × Signed := packetBy [0x1800005]
  0xE6FD20253D2A4764FEF36CC3BAEEB33DD1DA2167E992639AF70CD283C90EF9C86111C80A35371F6103748817C2B4CB9E 0xA20A0DCC8F03748C1DB132A737B1E9E038CD44E84975702931BBF71617DECFA3104171EA3D821826DFBE0ABB7021087A
  0x54A167E438B3CD54DE81545FE307EAA8867EE537822D8A48727D661CC644C03CC4121F5581608A1526EEADBBA99D5951 0x552859F90E2CF35537A05517F8C1FAAA219FB94DE08B62920E782CE7AE9EFB87070B0B41F2844C6404F6B1C99D98A0B1
def pEnroll : MgmtPacket × Signed := packetBy [271]
  0xC0BCDC108E36A22F0AD1CAB4B4B7177BAD99E9012A154C46D911F8EF24ABA4680C63C63C3106337CC0A147C19A4E4DB9 0x615C980980EF546180F8C2F311D0F57FE6A381050E3AB69310219E2AB2E153C30BDFE0EFDBFC07ABD316A16A86ED48DD
  0x29EE767433290621652EA63A13701ECFC9130BDC5A697CBFDCD149E7476B48879A167FD5F8D9ADC4627531D2F7AC8ABF 0x29EE767433290621652EA63A13701ECFC9130BDC5A697CBFDCD149E7476B48879A167FD5F8D9ADC4627531D2F7AC8ABF
def pRevoke : MgmtPacket × Signed := packetBy [15]
  0x6380898E4DC7C60028B0396CF391211838D3B1DC12FA2D331F46B5BD025F41F391BC55F56181111CCA005444556D2D99 0xAF5035EE1A0982F1ACA2436EF51063F43E4103CA9411349AD32E772BF172DBB9B7D07C317BAAEAA90BE2C34044B67330
  0x5A765A748EA47E67EDC08ED65FB315890F5131F3F6AC4E08FB2A2B238130AFA92C5AF0F726E4E85E03E62EE9987AF9EF 0xD69D969D23A91F99FB7023B597ECC56243D44C7CFDAB1382145504EA57758E51CD2A4683803DB7B3B2AA9ECA7FB29D92
def pDomain : MgmtPacket × Signed := packetBy (List.replicate 77 0 ++ [0x40000000, 1 + 2 ^ 32])
  0x4463F7B5738FA92324A5B98A6D58DC671FF1E46D8BE0D851F2F319A7F93F2C3E9971B51C0A9D9D93C6E56CEAEF689CD 0x4AE482E3B1F4242BA6656586DED33566E90CDD1D021AAC79F016DDE2F22E1C5CAFB822575C3DEABA1697AE211AC87EAE
  0x398B046CA94BCFF754BA51C77E05B6C8499336E95617E4F910632A7F6AB2469E87A7C1E08C2EF10B3EA09A5765E06B6B 0x398B046CA94BCFF754BA51C77E05B6C8499336E95617E4F910632A7F6AB2469E87A7C1E08C2EF10B3EA09A5765E06B6B
def pMap : MgmtPacket × Signed := packetBy [1, 0xFFFFFFFF0000, 0x4000003B, 1]
  0xE913B47F86EA627C9C13B8640A959DAC9AFD219EE20BF2B11A33196D4C479F531620530DCDBF11FE6ADD45EFFEBCECC3 0x1F09B32A7C7F87476B6158F1EDF870D6F89D006E9D0012963E8E236E4A9280484E07BDE185A5875AC345FFABDB334377
  0xAE63DD413449CA3FC7726C5A261A4FCCB95775DA85C1E64A154FE74E97EDD57AC24DEB0DC11DBD9AA061E8B075434784 0xAE63DD413449CA3FC7726C5A261A4FCCB95775DA85C1E64A154FE74E97EDD57AC24DEB0DC11DBD9AA061E8B075434784
def mgmtBytes (m : MgmtPacket) : List Byte := commandBytes m.slot ++ operandBytes m
def wellSigned (p : MgmtPacket × Signed) : Bool :=
  ecdsaValid p.2.key (signedOver (mgmtBytes p.1)) p.2.pair && signatureParts p.1.sig = some (255, p.2.pair, hssZeros)
/-- The state that such a packet meets: its owner's key is provisioned, process 1 lives, and the firmware runs. -/
def managing (p : MgmtPacket × Signed) : State :=
  { serves with focus := .management, root := { Root.reset with phase := .normal, owner := keyOf p.2 (mgmtBytes p.1) }
                procs := [(1, { Proc.reset with live := true, saveBase := 0x10000, saveSize := 0x10000 })]
                tlb := [(384, [{ tcid := 1, vpage := 0, size := 2, leaf := ringLeaf 0 }])] }
theorem owner_signed (p : MgmtPacket × Signed) (h : wellSigned p = true) : (managing p).ownerSigned p.1 = true := by
  simp only [wellSigned, Bool.and_eq_true, decide_eq_true_eq] at h
  have h1 : (managing p).root.owner = keyOf p.2 (mgmtBytes p.1) := rfl
  have h2 : (keyOf p.2 (mgmtBytes p.1)).state = 1 := rfl
  have h3 : (keyOf p.2 (mgmtBytes p.1)).verifies (mgmtBytes p.1) p.2.pair hssZeros = true := key_verifies h.1
  rw [mgmtBytes] at h3 h1 h2
  simp only [State.ownerSigned, h.2, h1, h2, h3, decide_true, Bool.and_self]
theorem test_signed : ∀ p ∈ [pCreate, pProcess, pKey, pThaw, pEnroll, pRevoke, pDomain, pMap], wellSigned p = true := by
  intro p hp
  simp only [List.mem_cons, List.not_mem_nil, or_false] at hp
  rcases hp with rfl | rfl | rfl | rfl | rfl | rfl | rfl | rfl <;> decide +kernel
theorem test_in_turn : (managing pKey).focus = .management ∧ (managing pKey).root.phase = .normal ∧ (managing pKey).mgmtSeq < mgmtSeqOf pKey.1 := by decide +kernel
def taken (p : MgmtPacket × Signed) : State := { managing p with mgmtSeq := 1 }
theorem test_create : let m := pCreate.1
    let t := taken pCreate
    let o (i : Nat) : Nat := operandOf m i
    t.freeTcid = some 2 ∧ 100 ≤ bits (o 0) 0 32 ∧ bits (o 0) 0 32 = 100000 ∧ (t.freeKids.take (bits (o 0) 32 2 + 1)).length = bits (o 0) 32 2 + 1
    ∧ bits (o 1) 48 4 + 4 = 12 ∧ bits (o 1) 0 48 % 64 = 0 ∧ o 2 % 512 = 0 ∧ o 3 % 65536 = 0 ∧ o 4 % 65536 = 0 ∧ o 3 + o 4 = 0x6000000000 ∧ t.meetsPool (o 3) (o 4) = false
    ∧ t.mapsFrames (o 3) (o 4) = false ∧ (∀ k ∈ t.freeKids.take (bits (o 0) 32 2 + 1), (managing pCreate).usesKid k = false) := by decide +kernel
/-- A process with a region, and one with none. -/
theorem test_processes : let s := managing pProcess
    let o (i : Nat) : Nat := operandOf pProcess.1 i
    o 0 % 2 ^ 10 = 1 ∧ (s.proc 1).live = true ∧ s.holdsOn 1 = false
    ∧ ({ s with regions := [(0, { Region.reset with state := .running, tcid := 1 })] } : State).holdsOn 1 = true
    ∧ threadOf 1 (o 0 / 2 ^ 16 % 32) = 63 ∧ (s.thread 63).bound = false ∧ o 1 % 64 = 0 ∧ isOk (s.readChecked (s.foreWho 1) ((o 1 + 8 : Nat) : Int) 8) = true
    ∧ (({ s with threads := [(63, aThread)] } : State).thread 63).bound = true := by decide +kernel
theorem test_key : let m := pKey.1
    bits (operandOf m 0) 16 12 ≠ 0 ∧ bits (packFields ((List.range 4).map (fun i => (64, operandOf m (i + 1))))) 204 10 = operandOf m 0 % 2 ^ 10
      ∧ ((managing pKey).proc (operandOf m 0 % 2 ^ 10)).live = true := by decide +kernel
/-- A frozen engine, queue pair and port. -/
def frozenMasters : State :=
  { taken pThaw with engines := [(3, { Engine.reset with frozen := true })], qps := [(5, .frozen [])], ports := [(11, { Port.reset with frozen := true })] }
theorem test_frozen : (∀ r ∈ [5 * 2 ^ 22, 6 * 2 ^ 22 + 5, 7 * 2 ^ 22 + 11], (frozenMasters.frozenMaster r).isSome = true) ∧ operandOf pThaw.1 0 = 6 * 2 ^ 22 + 5 := by decide +kernel
theorem test_enroll : bits (operandOf pEnroll.1 0) 8 1 = 1 ∧ bits (operandOf pRevoke.1 0) 8 1 ≠ 1 := by decide +kernel
theorem test_domain : let m := pDomain.1
    let win (i : Nat) : Nat := packFields ((List.range 4).map (fun j => (64, operandOf m (77 + 4 * i + j))))
    (∀ i < 64, bits (win i) 96 1 = 1 → (taken pDomain).meetsPool (bits (win i) 0 48) (bits (win i) 48 48) = false) ∧ bits (win 0) 96 1 = 1 ∧ bits (win 0) 48 48 = 65536 := by decide +kernel
/-- MAP of the last 64 KiB page of the address space; UNMAP of a range that no access uses. -/
theorem test_map : let m := pMap.1
    let t := taken pMap
    let o (i : Nat) : Nat := operandOf m i
    let l := Prog.forEach (List.range 1) (fun i => mapPage 1 (o 1 + i * 65536) (o 2 + i * 65536) (leafLevel 0)) t
    o 0 % 2 ^ 10 = 1 ∧ (t.proc 1).live = true ∧ bits (o 0) 16 2 = 0 ∧ o 1 % 65536 = 0 ∧ o 3 % 2 ^ 32 = 1 ∧ o 1 + 65536 = 2 ^ 48 ∧ bits (o 2) 0 2 = 3
    ∧ (∀ i < 1, t.pteBad (leafLevel 0) (o 2 + i * 65536) = false ∧ t.meetsPool (bits (o 2 + i * 65536) 8 40 * 256) 65536 = false)
    ∧ Map.get 0 t.roots 1 = 0 ∧ (t.apply l).poolNext ≤ poolEnd := by decide +kernel
theorem test_unmap : let s : State := { managing pMap with roots := [(1, 0x1000)] }
    s.usesRange 1 (2 ^ 48 - 131072) (2 ^ 48) = false ∧ Map.get 0 s.roots 1 ≠ 0 := by decide +kernel
theorem test_reads : (managing pKey).root.leaves < 2 ^ 40 ∧ (let m : MgmtPacket := { slot := commandWord [2 ^ 32, 0, 0xFFF80], operands := [511 + 1 * 2 ^ 16], sig := [] }
    1 ≤ bits (operandOf m 0) 16 10 ∧ operandOf m 0 % 512 + bits (operandOf m 0) 16 10 = 512 ∧ mgmtReplyAt m + 64 + 64 * bits (operandOf m 0) 16 10 = 0x100000
    ∧ 0xC0000 ≤ mgmtReplyAt m ∧ mgmtReplyAt m + 64 ≤ 0x100000) := by decide +kernel
/-- A packet without a signature is not signed; one that is signed has a sequence number already taken. -/
theorem test_unsigned : (managing pKey).ownerSigned { pKey.1 with sig := [] } = false ∧ mgmtSeqOf pKey.1 ≤ (taken pKey).mgmtSeq := by decide +kernel

/-- Port 11 carries traffic. -/
def linked (p : Port) : State :=
  { State.reset with root := { Root.reset with phase := .normal }, ports := [(11, { p with attested := true, keyed := true })]
                     windows := [(0, BitVec.ofNat 256 (0x1000 + 64 * 2 ^ 48 + 15 * 2 ^ 96 + 1 * 2 ^ 176 + 1 * 2 ^ 182 + 2 ^ (192 + 63)))] }
def aFrame (n : Nat) : Frame := { seq := n, ack := some 4, vc := 6, flits := List.replicate 64 0, good := true }
theorem test_frames : let s := linked { Port.reset with rxNext := 2 ^ 24 - 1 }
    s.portUp 11 = true ∧ (s.port 11).frozen = false ∧ (s.port 11).takes (aFrame (2 ^ 24 - 1)) = true ∧ (s.port 11).takes (aFrame 0) = false ∧ (aFrame 0).good = true := by decide +kernel
theorem test_replay_buffer : let s := linked { Port.reset with replay := [(3, aFrame 3)], resends := 16 }
    (s.port 11).replay ≠ [] ∧ s.portUp 11 = true ∧ 16 ≤ (s.port 11).resends ∧ (s.port 11).retraining = false
    ∧ ((linked { Port.reset with retraining := true }).port 11).retraining = true ∧ (linked { Port.reset with retraining := true }).portUp 11 = true := by decide +kernel
/-- A report of version 0 does not match; one of version 1 with the measurements matches if it is genuine, which is opaque (log 8). -/
theorem test_attestation : (linked Port.reset).root.phase = .normal ∧ natAt (leBytes 4 0) 0 4 ≠ 1
    ∧ (let r : List Byte := leBytes 4 1 ++ List.replicate 156 0
       natAt r 0 4 = 1 ∧ natAt r 64 48 = (Map.get 0 (linked Port.reset).measures 0).toNat ∧ natAt r 112 48 = (Map.get 0 (linked Port.reset).measures 1).toNat) := by decide +kernel

/-- Requests of package 63: a read at the end of what the window entry admits, one beyond it. -/
def aRequest (pa : Nat) : PeerReq :=
  { port := 11, pa := pa, op := .read, size := 8, data := [], tcid := 1, srcPkg := 63, srcCore := 0, tag := 0, arg := 0, pois := 0, issuer := 0 }
theorem test_peer : let s := linked Port.reset
    s.portUp 11 = true ∧ (s.port 11).frozen = false ∧ s.peerPasses (aRequest 0x1040) = none ∧ s.peerPasses (aRequest 0x1038) = some 1 ∧ s.gatedFor s.pkgNum (aRequest 0x1038).pa = none
    ∧ ({ aRequest 0x1038 with srcPkg := 0 } : PeerReq).srcPkg = s.pkgNum := by decide +kernel
theorem test_power : State.reset.root.phase = .reset ∧ 1500 < State.reset.clock ∧ ({ State.reset with clock := 1500 } : State).clock < 2250 ∧ (405 : Nat) < 406
    ∧ (linked Port.reset).root.phase = .normal ∧ (linked Port.reset).root.owner.state = 0 ∧ (List.replicate 96 (0 : Byte)).length = 96 ∧ (List.replicate 60 (0 : Byte)).length = 60 := by decide +kernel

/-- Well-formed instructions: a slot, a command, a queue packet, a management packet; and 96 bits that the decoder accepts. -/
theorem test_well_formed : (Instr.add plainSlot).wellFormed = true ∧ (Instr.add plainSlot).slot = some plainSlot ∧ (Instr.add plainSlot).encRow.isSome = true
    ∧ (Instr.copy aCopy).wellFormed = true ∧ (Instr.copy aCopy).commandCode = some (1, 1, aCopy) ∧ (Instr.nopq (packetOf [])).wellFormed = true
    ∧ (Instr.nopq (packetOf [])).queueCode = some (0, packetOf []) ∧ decodeSlot (word 1 [(51, 5), (56, 1)]) = .ok (.add { blankSlot with val := true, sb := 5, dwe := true }) := by decide +kernel

/-- ADD of d0 and d1 in slot 0 of element 3, its turn next: the step adds 0xFFFFFFFF and 2 in the second lane. -/
def stepping : State :=
  { vectors [1, 0xFFFFFFFF] [31, 2] [] with
    mem := cellsOf (imageBase 3 0) 8 2 ++ cellsOf (imageBase 3 0 + 16) 12 (word 1 [(12, 7), (15, 7), (51, 1), (56, 1)]), agenda := [.element 3], focus := .none }
def nextOf (o : Host.Outcome State Fault Refusal) : State := match o with | .next t => t | _ => State.reset
theorem test_step : stepping.powered = true ∧ stepping.agenda = [.element 3]
    ∧ (let u := (stepping.perform (.agenda [])).run (beginTurn (.element 3))
       u.slotToRun 3 = some 0 ∧ (u.fetch (.element 3)).isSome = true)
    ∧ ((nextOf (step stepping)).elem 3).d.head? = some (0, entryOf 2 [32, 1]) := by decide +kernel
/-- ADD of eight lanes takes two cycles: the first only begins it; the second runs it. -/
def steppingLong : State :=
  { vectors [1, 2, 3, 4, 5, 6, 7, 8] [1, 1, 1, 1, 1, 1, 1, 1] [] with mem := stepping.mem, agenda := [.element 3], focus := .none }
theorem test_step_long : let u := (steppingLong.perform (.agenda [])).run (beginTurn (.element 3))
    (u.fetch (.element 3)).bind (fun x => u.longFiring (nextOf (exec x.1 (u.perform (.focus x.2)))) x.1 3) = some (0, 2)
    ∧ ((nextOf (step steppingLong)).elem 3).busy = some 0 ∧ ((nextOf (step steppingLong)).elem 3).left = 0 := by decide +kernel
theorem test_step_passes : let s := steppingLong
    let e := { s.elem 3 with busy := some 0, left := 1 }
    let u := ((({ s with elems := [(3, e)] } : State).perform (.agenda [])).run (beginTurn (.element 3)))
    (u.elem 3).busy ≠ none ∧ (u.elem 3).left ≠ 0 := by decide +kernel
def isNext (o : Host.Outcome State Fault Refusal) : Bool := match o with | .next _ => true | _ => false
theorem test_canonical : State.reset.canonical = true ∧ stepping.canonical = true ∧ isNext (step stepping) = true := by decide +kernel
/-- A step without power, one that begins a cycle, and one that runs what a place holds. -/
theorem test_step_kinds : ({ State.reset with powered := false } : State).powered = false ∧ ({ State.reset with agenda := [] } : State).agenda = []
    ∧ (commanded 0 aCopy).fetch (.command 0 0 0) = some (.copy aCopy, .command 0 0 0) ∧ (commanded 0 aCopy).fetch (.command 0 1 0) = none ∧ State.reset.agenda = [.event .boot] := by decide +kernel
/-- A slot whose queue is empty does not fire; three slots are ready, two of one priority, one of them promoted. -/
theorem test_idle : let s := vectors [1] [2] []
    let f : Slot := { plainSlot with sa := 4, qa := 0 }
    s.fireOf f = some (fireAt s 3 f) ∧ s.canFire (fireAt s 3 f) (guardFor 1) (readyFor 1) = false ∧ (Instr.add f).encRow.isSome = true ∧ s.canonical = true := by decide +kernel
def contended (l : List (Nat × Nat)) : State :=
  { rig 3 2 0 { elemOn with d := [(0, entryOf 2 [1]), (1, entryOf 2 [2])], loss := l } with
    focus := .none
    mem := cellsOf (imageBase 3 0) 8 2 ++ cellsOf (imageBase 3 0 + 16) 12 (word 1 [(12, 7), (15, 7), (36, 2), (51, 1)])
      ++ cellsOf (imageBase 3 0 + 28) 12 (word 1 [(12, 7), (15, 7), (36, 1), (51, 1)]) ++ cellsOf (imageBase 3 0 + 40) 12 (word 1 [(12, 7), (15, 7), (36, 1), (51, 1)]) }
theorem test_arbitration : (contended []).readySlots 3 = [0, 1, 2] ∧ (contended []).slotToRun 3 = some 1 ∧ ((contended []).elem 3).busy = none
    ∧ (contended [(0, 16), (2, 16)]).slotToRun 3 = some 0 ∧ (contended [(0, 16), (2, 17)]).slotToRun 3 = some 2 ∧ (contended []).canonical = true := by decide +kernel
/-- A firing of ADD and one of SST complete. -/
theorem test_frames_meet : let s := vectors [1] [2] []
    s.canonical = true ∧ (∃ t, exec (.add plainSlot) s = .next t) ∧ ∃ t, exec (.mov plainSlot) s = .next t := by
  refine ⟨by decide +kernel, ⟨_, rfl⟩, ⟨_, rfl⟩⟩

/-- Results worked out by hand from the rules of spec 10 R225 to R231: sums that wrap and saturate, a product's high half, the leading zeros of 0. -/
def intResult (o : Slot → Instr) (a b : List Nat) : List Nat :=
  let s := vectors a b []
  ((nextOf (exec (o { plainSlot with dwe := true, dd := 3 }) s)).elem 3 |>.dReg 3 |> fun d => (List.range 8).map (fun i => d.pay.toNat / 2 ^ (32 * i) % 2 ^ 32)).take a.length
theorem test_add : intResult .add [0xFFFFFFFF, 5] [2, 6] = [1, 11] := by decide +kernel
theorem test_sub : intResult .sub [0, 5] [1, 5] = [0xFFFFFFFF, 0] := by decide +kernel
theorem test_saturating : intResult .adds [0x7FFFFFFF, 0x80000000] [1, 0xFFFFFFFF] = [0x7FFFFFFF, 0x80000000] := by decide +kernel
theorem test_mulh : intResult .mulh [0x80000000] [0x80000000] = [0x40000000] := by decide +kernel
theorem test_clz : intResult .clz [0, 1] [0, 0] = [32, 31] := by decide +kernel
theorem test_shifts : intResult .sha [0x80000000, 8] [31, 2] = [0xFFFFFFFF, 2] := by decide +kernel

end Sys2Proof.Tests
end

section
/-! SUPPORT. Accesses to core windows (spec 01 R26 to R33): what a write stores in the block it reaches, and what an event makes of an access
that passes its checks. -/

namespace Sys2Proof.Machine

/-! What a write stores, block by block. -/
section Store

variable {s : State} {kid pa : Nat} {data : List Byte} {marks : List Bool}

theorem State.store_coreMem (h : (placeOf pa).block = .coreMem) :
    s.store kid pa data marks = .bytes pa data :: poisonEffects pa marks := by
  simp only [State.store, h]

theorem State.store_am (h : (placeOf pa).block = .am) :
    s.store kid pa data marks = amWritten (placeOf pa).core (placeOf pa).off data marks := by
  simp only [State.store, h]

theorem State.store_regctl (h : (placeOf pa).block = .regctl) :
    s.store kid pa data marks = s.regctlWrite (placeOf pa).core (placeOf pa).off data := by
  simp only [State.store, h]

theorem State.store_sem (h : (placeOf pa).block = .sem) :
    let p := placeOf pa
    s.store kid pa data marks = [.sem (256 * p.core + p.off / 8) (semWritten (s.sem p.core (p.off / 8)) data)] := by
  simp only [State.store, h]

theorem State.store_const (h : (placeOf pa).block = .const) :
    let p := placeOf pa
    let k := ekey p.core (p.off / 256)
    s.store kid pa data marks = [.elem k ((s.elem k).stage (p.off % 256 / 32) (p.off % 32) data marks)] := by
  simp only [State.store, h]

theorem State.store_image (h : (placeOf pa).block = .image) :
    let p := placeOf pa
    let k := ekey p.core (p.off / 2048)
    s.store kid pa data marks =
      [.bytes pa data, .elem k { s.elem k with loaded := (s.elem k).loaded &&& ~~~(1#8 <<< (p.off % 2048 / 256)) }] := by
  simp only [State.store, h]

/-- A legal descriptor of an element that is not active (spec 01 R23, R30). -/
theorem State.store_desc (h : (placeOf pa).block = .desc) (hd : descOk (leNat data) = true)
    (ha : (s.elem (ekey (placeOf pa).core ((placeOf pa).off / 16))).active = false) :
    let p := placeOf pa
    let k := ekey p.core (p.off / 16)
    let n := p.off % 16 / 4
    s.store kid pa data marks = [.elem k ((s.elem k).setD n { (s.elem k).dReg n with
      pois := BitVec.ofNat 8 (leNat data / 2 ^ 8 % 2 ^ 8), lw := BitVec.ofNat 2 (leNat data / 2 ^ 6 % 4), len := BitVec.ofNat 4 (leNat data % 16) })] := by
  simp [State.store, h, hd, ha, bits]

end Store

/-- The access passes the checks of spec 01 R26 to R28 and R30, and the core it reaches, if any, is powered (R32). -/
def State.windowPasses (s : State) (w : WinAccess) (k : Kind) : Prop :=
  s.refusal w.master k (winPa w) w.data.length (roleCore w.role) w.scope = none ∧ s.gatedFor s.pkgNum (winPa w) = none

/-- The write meets the region command register (spec 17 R399). -/
abbrev meetsCommand (w : WinAccess) : Prop :=
  let p := placeOf (winPa w)
  p.block = .regctl ∧ p.off < 0x418 ∧ 0x410 < p.off + w.data.length

theorem not_meetsCommand {w : WinAccess}
    (h : (placeOf (winPa w)).off + w.data.length ≤ 0x410 ∨ 0x418 ≤ (placeOf (winPa w)).off) : ¬ meetsCommand w := by
  rintro ⟨-, hlo, hhi⟩
  omega

/-- The state after the bytes of a window write are stored, each with the mark of the access. -/
def State.windowStored (s : State) (w : WinAccess) : State :=
  (s.apply (s.touchLine 0 (winPa w) false true w.data.length)).apply
    (s.store 0 (winPa w) w.data (List.replicate w.data.length w.pois))

section Events

variable {s : State} {w : WinAccess} {areas : List Area}

/-- A write of the control region reaches the register there (spec 01 R33). -/
theorem run_windowStore_control (h : (placeOf (winPa w)).block = .control) : s.run (windowStore w) = s.run (controlWrite w) := by
  simp only [State.run, windowStore, h, if_true]

/-- Any other write stores, and one that meets the region command register then asks for its operation (spec 17 R399). -/
theorem run_windowStore (hc : (placeOf (winPa w)).block ≠ .control)
    (hd : (placeOf (winPa w)).block = .desc → descOk (leNat w.data) = true) :
    s.run (windowStore w) = (s.windowStored w).run (if meetsCommand w then
      regionCommand (placeOf (winPa w)).core (Map.get 0 s.opReg (placeOf (winPa w)).core) else Prog.skip) := by
  have hd' : ¬ ((placeOf (winPa w)).block = .desc ∧ (!descOk (leNat w.data)) = true) := by
    rintro ⟨hb, hn⟩
    simp [hd hb] at hn
  simp only [State.run, windowStore, if_neg hc, if_neg hd', Prog.seq, Prog.andThen, State.apply_append, List.append_nil]
  rfl

variable {b : Area}

/-- A write event to a block of its own that passes its checks makes the changes of the write. -/
theorem windowEvent_write (hb : (placeOf (winPa w)).block = b) (ha : b ∈ areas) (h : s.windowPasses w .write) :
    windowEvent areas false w s = .next (s.run (windowStore w)) := by
  obtain ⟨hr, hg⟩ := h
  simp [windowEvent, State.run, Prog.when, winArea, hb, ha, windowAccess, hr, hg]

/-- An atomic event to a block of its own that passes its checks makes the changes of the add. -/
theorem windowEvent_atomic (hb : (placeOf (winPa w)).block = b) (ha : b ∈ areas) (h : s.windowPasses w .atomic) :
    windowEvent areas true w s = .next (s.run (windowAdd w)) := by
  obtain ⟨hr, hg⟩ := h
  simp [windowEvent, State.run, Prog.when, winArea, hb, ha, windowAccess, hr, hg]

/-- A write event to a block where a write only stores. -/
theorem windowEvent_stores (hb : (placeOf (winPa w)).block = b) (ha : b ∈ areas) (hn : b ∉ [.control, .desc, .regctl])
    (h : s.windowPasses w .write) : windowEvent areas false w s = .next (s.windowStored w) := by
  simp only [List.mem_cons, List.not_mem_nil, or_false, not_or] at hn
  obtain ⟨hc, hd, hr⟩ := hn
  rw [windowEvent_write hb ha h, run_windowStore (hb ▸ hc) (fun e => absurd (hb ▸ e) hd), if_neg (fun m => hr (hb ▸ m.1)), State.run_skip]

/-- A write event to the control region. -/
theorem windowEvent_control (hb : (placeOf (winPa w)).block = .control) (ha : .control ∈ areas) (h : s.windowPasses w .write) :
    windowEvent areas false w s = .next (s.run (controlWrite w)) := by
  rw [windowEvent_write hb ha h, run_windowStore_control hb]

/-- A write event of a legal descriptor. -/
theorem windowEvent_desc (hb : (placeOf (winPa w)).block = .desc) (ha : .desc ∈ areas) (hd : descOk (leNat w.data) = true)
    (h : s.windowPasses w .write) : windowEvent areas false w s = .next (s.windowStored w) := by
  rw [windowEvent_write hb ha h, run_windowStore (by simp [hb]) (fun _ => hd), if_neg (by simp [meetsCommand, hb]), State.run_skip]

/-- A write event to the registers of the region controller: where it meets the command register it asks for an operation. -/
theorem windowEvent_regctl (hb : (placeOf (winPa w)).block = .regctl) (ha : .regctl ∈ areas) (h : s.windowPasses w .write) :
    windowEvent areas false w s = .next ((s.windowStored w).run (if meetsCommand w then
      regionCommand (placeOf (winPa w)).core (Map.get 0 s.opReg (placeOf (winPa w)).core) else Prog.skip)) := by
  rw [windowEvent_write hb ha h, run_windowStore (by simp [hb]) (by simp [hb])]

/-- An atomic add signals a semaphore (spec 05 R112). -/
theorem run_windowAdd_sem (hb : (placeOf (winPa w)).block = .sem) :
    let n := semAt (winPa w)
    s.run (windowAdd w) = s.perform (.sem (256 * n.1 + n.2)
      (semSignal (s.sem n.1 n.2) (signExt 32 (leNat w.data)) (if w.pois then some (0x32, w.role) else none))) := by
  simp only [State.run, windowAdd, State.atomic, hb, State.apply_cons, State.apply_nil]

/-- An atomic add at offset 4 of a barrier adds arrivals (spec 05 R115). -/
theorem run_windowAdd_arrivals (hb : (placeOf (winPa w)).block = .bar) (ho : (placeOf (winPa w)).off % 16 = 4) :
    let n := barAt (winPa w)
    s.run (windowAdd w) = s.perform (.bar (2048 * n.1 + n.2) (barArrive (s.bar n.1 n.2) (leNat w.data % 4096) w.pois w.role)) := by
  simp only [State.run, windowAdd, State.atomic, hb, ho, if_true, State.apply_cons, State.apply_nil]

/-- An atomic add at offset 12 of a barrier adds bytes (spec 05 R115). -/
theorem run_windowAdd_bytes (hb : (placeOf (winPa w)).block = .bar) (ho : (placeOf (winPa w)).off % 16 = 12) :
    let n := barAt (winPa w)
    s.run (windowAdd w) = s.perform (.bar (2048 * n.1 + n.2) (barBytes (s.bar n.1 n.2) (leNat w.data % 2 ^ 32) w.pois w.role)) := by
  simp [State.run, windowAdd, State.atomic, hb, ho]

end Events

/-- Settles O40: an access that passes its checks runs as its event's write or add, and the block it reaches says which changes these are. -/
theorem windowAccessesComplete : Obligations.WindowAccessesComplete := by
  intro s w pa p passes marks made
  refine ⟨fun h => ⟨?coreMem, ?plain, ?registers, ?command, ?control, ?const, ?desc, ?image, ?am, ?sem⟩, fun h => ⟨?signal, ?barrier⟩⟩
  case coreMem => exact fun hb => (windowEvent_stores hb (by decide) (by decide) h).trans (congrArg made (State.store_coreMem hb))
  case plain =>
    have harea : ∀ b ∈ [Area.hbm, .spad, .dfile, .bar, .bind],
        b ∈ [Area.hbm, .coreMem, .spad, .dfile, .status, .bar, .regctl, .bind, .control, .hole] ∧ b ∉ [Area.control, .desc, .regctl] := by
      decide
    exact fun hb => windowEvent_stores rfl (harea _ hb).1 (harea _ hb).2 h
  case registers =>
    intro hb hoff
    rw [← State.store_regctl hb]
    exact (windowEvent_regctl hb (by decide) h).trans (by rw [if_neg (not_meetsCommand hoff)]; rfl)
  case command =>
    intro hb hlo hhi
    rw [← State.store_regctl hb]
    exact (windowEvent_regctl hb (by decide) h).trans (by rw [if_pos ⟨hb, hlo, hhi⟩]; rfl)
  case control => exact fun hb => windowEvent_control hb (by decide) h
  case const => exact fun hb => (windowEvent_stores hb (by decide) (by decide) h).trans (congrArg made (State.store_const hb))
  case desc => exact fun hb hd ha => (windowEvent_desc hb (by decide) hd h).trans (congrArg made (State.store_desc hb hd ha))
  case image => exact fun hb => (windowEvent_stores hb (by decide) (by decide) h).trans (congrArg made (State.store_image hb))
  case am => exact fun hb => (windowEvent_stores hb (by decide) (by decide) h).trans (congrArg made (State.store_am hb))
  case sem => exact fun hb => (windowEvent_stores hb (by decide) (by decide) h).trans (congrArg made (State.store_sem hb))
  case signal => exact fun hb => (windowEvent_atomic hb (by decide) h).trans (congrArg Host.Outcome.next (run_windowAdd_sem hb))
  case barrier =>
    intro hb
    refine ⟨fun hoff hpa => ?arrivals, fun hoff hpa => ?bytes⟩
    case arrivals =>
      have harea : (if winPa w % 16 < 8 then [Area.bar] else []) = [.bar] := if_pos (by omega)
      exact (windowEvent_atomic hb (by simp [harea]) h).trans (congrArg Host.Outcome.next (run_windowAdd_arrivals hb hoff))
    case bytes =>
      have harea : (if winPa w % 16 < 8 then [] else [Area.bar]) = [.bar] := if_neg (by omega)
      exact (windowEvent_atomic hb (by simp [harea]) h).trans (congrArg Host.Outcome.next (run_windowAdd_bytes hb hoff))

end Sys2Proof.Machine
end

section
/-! SUPPORT. Configuration loads, the ordering control word, and the power of cores (spec 01 R32, 08 R171, 15 R353, 17 R401). -/

namespace Sys2Proof.Machine

variable {s : State} {core : Nat}

/-- At a core that is not on, a load is held and the core wakes (spec 01 R32). -/
theorem run_configLoad_gated {img : List ImageElem} (h : s.powerOf core ≠ .on) :
    s.run (configLoad core img) = { s with
      heldq := Map.set [] s.heldq core (s.holdOf core ++ [.load img]), gated := Map.set .on s.gated core .waking } := by
  simp only [State.run, configLoad, if_pos h, State.holdAt, State.apply_cons, State.apply_nil, State.perform_hold, State.perform_gate]

/-- At a core that is on, an image that passes every check is written (spec 08 R171). -/
theorem run_configLoad_on {img : List ImageElem} (h : s.powerOf core = .on) (hi : s.imageFail core img = none) :
    s.run (configLoad core img) = s.run (loadImage core img) := by
  simp only [State.run, configLoad, h, ne_eq, not_true, if_false, hi]

/-- A write that meets no change in progress begins one (spec 15 R353). -/
theorem run_writeCons_idle {v : Bool} (h : s.consBusy = false) :
    s.run (writeCons v) = { s with cons := v, consBusy := true, consNext := [] } := by
  simp [State.run, writeCons, h]

/-- A write that meets a change in progress waits behind it. -/
theorem run_writeCons_busy {v : Bool} (h : s.consBusy = true) :
    s.run (writeCons v) = { s with consNext := s.consNext ++ [v] } := by
  simp [State.run, writeCons, h]

/-- Cores adopting an ordering mode leave the package's ordering control word alone. -/
theorem State.cons_apply_consAt (v : Bool) (l : List Nat) (s : State) : (s.apply (l.map (fun c => .consAt c v))).cons = s.cons := by
  induction l generalizing s with
  | nil => rfl
  | cons c l ih => exact ih _

/-- The state in which every powered core has adopted the ordering mode of the package (spec 15 R353). -/
def State.adopted (s : State) : State :=
  s.apply (((List.range 384).filter (fun c => s.powerOf c = .on && Map.get true s.consAt c ≠ s.cons)).map (fun c => .consAt c s.cons))

theorem State.cons_adopted (s : State) : s.adopted.cons = s.cons := State.cons_apply_consAt _ _ _

/-- With no write waiting the change ends (spec 15 R353). -/
theorem execConsChangeComplete_last (h : s.consBusy = true) (hn : s.consNext = []) :
    execConsChangeComplete s = .next { s.adopted with consBusy := false, consNext := [] } := by
  simp only [execConsChangeComplete, complete_eq, State.run, h, hn, Bool.not_true, Bool.false_eq_true, if_false, List.getLast?_nil,
    State.apply_append, State.apply_cons, State.apply_nil, State.perform_cons]
  exact congrArg (fun v => Host.Outcome.next { s.adopted with cons := v, consBusy := false, consNext := [] }) s.cons_adopted.symm

/-- The last waiting write takes effect next. -/
theorem execConsChangeComplete_next {v : Bool} (h : s.consBusy = true) (hn : s.consNext.getLast? = some v) :
    execConsChangeComplete s = .next { s.adopted with cons := v, consBusy := true, consNext := [] } := by
  simp only [execConsChangeComplete, complete_eq, State.run, h, hn, Bool.not_true, Bool.false_eq_true, if_false,
    State.apply_append, State.apply_cons, State.apply_nil, State.perform_cons, State.adopted]

/-- A core with nothing under way is gated (spec 01 R32). -/
theorem execCorePowerGating_idle (hc : core < 384) (hon : s.powerOf core = .on)
    (hregions : ∀ b ∈ blocksOf core, (s.region b).state = .free ∨ (s.region b).state = .idle ∨ (s.region b).state = .saved)
    (hengines : ∀ e < 4, (s.engine core e).offers = [] ∧ (s.engine core e).queue = [] ∧ (s.engine core e).running = [])
    (hpending : ∀ a ∈ s.pending, coreOf a.key ≠ core) (hreturned : ∀ r ∈ s.returned, coreOf r.key ≠ core)
    (htasks : Map.get [] s.taskWait core = []) (hport : Map.get [] s.lport core = [])
    (helems : ∀ x ∈ s.elems, coreOf x.1 = core → x.2.inj = [] ∧ x.2.feed = none ∧ x.2.asks = []) :
    execCorePowerGating core s = .next { s with gated := Map.set .on s.gated core .gated } := by
  have hregion : (blocksOf core).any (fun b => !([RState.free, .idle, .saved].contains (s.region b).state)) = false := by
    simpa [List.any_eq_false, or_iff_not_imp_left] using hregions
  have hengine : (List.range 4).any (fun e => !((s.engine core e).offers.isEmpty && (s.engine core e).queue.isEmpty
      && (s.engine core e).running.isEmpty)) = false := by
    simpa [List.any_eq_false, and_assoc] using hengines
  have hpend : s.pending.any (fun a => coreOf a.key = core) = false := by simpa [List.any_eq_false] using hpending
  have hret : s.returned.any (fun r => coreOf r.key = core) = false := by simpa [List.any_eq_false] using hreturned
  have helem : s.elems.any (fun x => coreOf x.1 = core && (!x.2.inj.isEmpty || x.2.feed.isSome || x.2.asks ≠ [])) = false := by
    simpa [List.any_eq_false, and_assoc] using helems
  refine congrArg Host.Outcome.next (congrArg s.apply (if_pos ⟨hc, hon, ?_⟩))
  simp only [hregion, hengine, hpend, hret, helem, htasks, hport, List.isEmpty_nil, Bool.not_true, Bool.or_self, Bool.not_false]

/-- A woken core runs in the ordering mode of the package, and what was held goes on in order (spec 01 R32, 15 R353). -/
theorem execWakeComplete_waking (h : s.powerOf core = .waking) :
    execWakeComplete core s = .next (State.run { s with
      gated := Map.set .on s.gated core .on, consAt := Map.set true s.consAt core s.cons, heldq := Map.set [] s.heldq core []
      taskNet := heldTasks (s.holdOf core) ++ s.taskNet, accNet := heldWords (s.holdOf core) ++ s.accNet }
      (Prog.forEach (s.holdOf core) (deliverHeld core))) := by
  refine congrArg Host.Outcome.next ((congrArg s.apply (if_neg (by simp [h]))).trans ?_)
  change s.run (Prog.seq _) = _
  simp only [State.run_seq_cons, State.run_seq_nil]
  simp only [State.run, State.apply_cons, State.apply_nil, State.perform_gate, State.perform_consAt, State.perform_hold,
    State.perform_taskNet, State.perform_accNet]

/-- What a failed wake does to the elements, commands and threads that wait for the core. -/
def State.afterLoss (s : State) (core : Nat) : State :=
  (((s.run (Prog.forEach (s.elems.map (fun x => x.1)) (firingLost core))).run (commandsLost core)).run (threadsLost core))

/-- After a failed wake what was held is lost, and the core stays gated (spec 01 R32, 17 R401). -/
theorem execWakeFailure_waking (h : s.powerOf core = .waking) :
    let c := State.afterLoss (State.run { s with heldq := Map.set [] s.heldq core [] } (Prog.forEach (s.holdOf core) (heldLost core))) core
    execWakeFailure core s = .next { c with gated := Map.set .on c.gated core .gated } := by
  refine congrArg Host.Outcome.next ((congrArg s.apply (if_neg (by simp [h]))).trans ?_)
  change s.run (Prog.seq _) = _
  simp only [State.run_seq_cons, State.run_seq_nil]
  rfl

/-- Settles O41: each event by what it does to the state it meets. -/
theorem coresComplete : Obligations.CoresComplete := by
  intro s core
  refine ⟨fun img => ⟨?load, ?held⟩, fun v => ⟨?write, ?wait⟩, fun hbusy => ⟨?last, ?next⟩, ?gating, fun hw => ⟨?wakes, ?fails⟩⟩
  case load => exact fun hon hi => congrArg Host.Outcome.next (run_configLoad_on hon hi)
  case held => exact fun hoff => congrArg Host.Outcome.next (run_configLoad_gated hoff)
  case write => exact fun hidle => congrArg Host.Outcome.next (run_writeCons_idle hidle)
  case wait => exact fun hbusy => congrArg Host.Outcome.next (run_writeCons_busy hbusy)
  case last => exact execConsChangeComplete_last hbusy
  case next => exact fun v hn => execConsChangeComplete_next hbusy hn
  case gating => exact execCorePowerGating_idle
  case wakes => exact execWakeComplete_waking hw
  case fails => exact execWakeFailure_waking hw

end Sys2Proof.Machine
end

section
/-! SUPPORT. The memory fabric and its background events (spec 02 R34, R42, R44, R45, R50 to R52, 04 R93, 17 R401). -/

namespace Sys2Proof.Machine

variable {s : State}

/-! Accesses whose turn has come (spec 02 R34). -/
section Accesses

variable {a : Access}

/-- The event acts on the access that its number names. -/
theorem execMemoryAccess_found (h : s.pending.find? (fun b => b.id = a.id) = some a) :
    execMemoryAccess a.id s = .next (s.apply (s.performAccess a)) := by
  simp only [execMemoryAccess, complete_eq, State.run, h]

/-- With every access it must follow performed, an access is not held back. -/
theorem State.heldBack_eq_false (h : ∀ b ∈ s.pending, b.id ∉ a.after) : s.heldBack a = false := by
  simpa [State.heldBack, List.any_eq_false] using h

/-- Neither held back, sent already, held at a gated core nor cut off: it is sent if it goes to another package, else performed. -/
theorem State.performAccess_due (hback : s.heldBack a = false) (hsent : a.sent = false) (hgate : s.gatedFor a.pkg a.pa = none)
    (hcut : s.cutOff a.pkg = false) :
    s.performAccess a =
      if a.pkg ≠ s.pkgNum ∧ a.op.isCopies = false then
        .pending (s.pending.map (fun b => if b.id = a.id then { b with sent := true } else b)) :: s.sendOp a
      else .pending (s.pending.filter (fun b => b.id ≠ a.id)) :: s.performOp a := by
  simp [State.performAccess, hback, hsent, hgate, hcut]

end Accesses

/-! Translation (spec 02 R50 to R52). -/
section Translation

variable {die tcid va : Nat}

/-- A walker walks for a page that its die's buffer does not hold. -/
theorem execTranslationWalk_miss (hdie : die < 4) (hva : va < 2 ^ 48)
    (hmiss : ∀ t ∈ s.buffer (384 + die), t.tcid = tcid → va / 2 ^ pageBits t.size ≠ t.vpage) :
    execTranslationWalk ⟨die, tcid⟩ va s = .next (s.apply (s.walkEffects die tcid va)) := by
  have hserves : (s.buffer (384 + die)).any (fun t => t.serves tcid va) = false := by
    simpa [List.any_eq_false, TlbEntry.serves] using hmiss
  exact congrArg (fun l => Host.Outcome.next (s.apply l)) (if_neg (by simp [hserves]; omega))

/-- A walk that finds a leaf leaves new pointer entries with the walkers, and the leaf in the die's buffer. -/
theorem State.apply_walkEffects_leaf {w size : Nat} (hroot : Map.get 0 s.roots tcid ≠ 0)
    (hwalk : s.walk tcid va (s.walkStart die tcid va).1 (s.walkStart die tcid va).2 = .ok (w, size)) :
    let tables := s.walkTables va (s.walkStart die tcid va).1 (s.walkStart die tcid va).2
    let new := pointersRead tcid va tables
    let t := s.apply (s.touchAll (tables.map (fun x => entryAt x.1 x.2 va)))
    s.apply (s.walkEffects die tcid va) = { t with
      pointers := if new.isEmpty then t.pointers else Map.set [] t.pointers die ((new ++ s.pointersOf die).take 512)
      tlb := Map.set [] t.tlb (384 + die) (enterWay 16 1024
        { tcid := tcid, vpage := va / 2 ^ pageBits size, size := size, leaf := BitVec.ofNat 64 w } (s.buffer (384 + die))) } := by
  intro tables new t
  simp only [State.walkEffects, if_neg hroot, hwalk, State.apply_append, State.enterDie, State.apply_cons, State.apply_nil,
    State.perform_tlb]
  cases new.isEmpty
  case true => rfl
  case false => rfl

/-- Once no access uses a translation of the range, what is held of it goes (spec 02 R52). -/
theorem execTlbInvalidate_unused {lo hi : Nat} (h : s.usesRange tcid lo hi = false) :
    execTlbInvalidate tcid lo hi s = .next (s.apply (s.invalidated tcid lo hi)) := by
  simp [execTlbInvalidate, State.run, h]

end Translation

/-! The patrol scrub (spec 02 R42). -/
section Scrub

variable {n : Nat}

/-- One wrong bit is corrected and counted as a correction of the patrol. -/
theorem execPatrolScrub_corrects (hp : (placeOf (32 * n)).block = .hbm) (h : Map.get 0 s.softErr n = 1) :
    execPatrolScrub n s = .next (State.perform { s with softErr := Map.set 0 s.softErr n 0 } (s.countEvent (recordOf (32 * n)) 2)) := by
  simp [execPatrolScrub, State.run, hp, h]

/-- A read of an HBM sector with more wrong bits poisons it (spec 02 R39). -/
theorem State.correct_uncorrectable (pa : Nat) (hp : (placeOf (32 * n)).block = .hbm) (h : 2 ≤ Map.get 0 s.softErr n) :
    s.correct pa [n] = [.poison n true, .softErr n 0, s.countEvent (recordOf (32 * n)) 1] := by
  have hne : Map.get 0 s.softErr n ≠ 1 := by omega
  simp only [State.correct, hp, h, hne, if_true, if_false, List.append_nil]

theorem execPatrolScrub_poisons (hp : (placeOf (32 * n)).block = .hbm) (h : 2 ≤ Map.get 0 s.softErr n) :
    execPatrolScrub n s = .next (State.perform { s with poison := Nats.add s.poison n, softErr := Map.set 0 s.softErr n 0 }
      (s.countEvent (recordOf (32 * n)) 1)) := by
  have hne : Map.get 0 s.softErr n ≠ 1 := by omega
  simp [execPatrolScrub, State.run, hp, hne, State.correct_uncorrectable _ hp h]

end Scrub

/-! Key slots (spec 02 R44, R45). -/
section Keys

variable {die kid : Nat}

/-- Once the die has performed every access with the KID, its cached lines go. -/
theorem execKidPurge_unused (h : ∀ a ∈ s.pending, a.pkg = s.pkgNum → a.kid = kid → a.pa / 0x1800000000 ≠ die) :
    execKidPurge die kid s = .next (s.apply (s.purged (fun d => d = die) kid)) := by
  have hnone : s.pending.any (fun a => a.pkg = s.pkgNum && a.kid = kid && a.pa / 0x1800000000 = die) = false := by
    simpa [List.any_eq_false] using h
  simp only [execKidPurge, complete_eq, State.run, hnone, Bool.false_eq_true, if_false]

theorem State.usesKid_eq_false (h : ∀ a ∈ s.pending, a.pkg = s.pkgNum → a.kid ≠ kid) : s.usesKid kid = false := by
  simpa [State.usesKid, List.any_eq_false] using h

/-- A slot that no translation, line or access uses takes the next random key. -/
theorem execKeySlotWrite_unused (hlo : 1 ≤ kid) (hhi : kid < 64) (htlb : ∀ x ∈ s.tlb, ∀ e ∈ x.2, leafKid e ≠ kid)
    (hcache : ∀ x ∈ s.cache, x.2.kid ≠ kid) (hpending : ∀ a ∈ s.pending, a.pkg = s.pkgNum → a.kid ≠ kid) :
    execKeySlotWrite kid s = .next { s with keySlots := Map.set 0 s.keySlots kid (Config.randomKey s.free), free := s.free + 1 } := by
  have htlb' : s.tlb.any (fun x => x.2.any (fun e => leafKid e = kid)) = false := by simpa [List.any_eq_false] using htlb
  have hcache' : s.cache.any (fun x => x.2.kid = kid) = false := by simpa [List.any_eq_false] using hcache
  refine congrArg (fun l => Host.Outcome.next (s.apply l)) (if_neg ?_)
  simp only [htlb', hcache', State.usesKid_eq_false hpending, Bool.false_eq_true, or_false]
  omega

end Keys

/-! Events that stop a region (spec 04 R93, 17 R401). -/
section Stops

variable {core b : Nat}

/-- A line of a member's scratchpad pending for 2^20 cycles stops its region, unless a trap already has. -/
theorem execPendingLineTimeout_stops {spad line : Nat} {p : Nat × Nat × Nat} (hmem : p ∈ (s.elem (ekey core (spadElem spad))).pend)
    (hline : p.1 = line) (hage : 2 ^ 20 ≤ p.2.2) (hmember : s.isMember (ekey core (spadElem spad)) = true)
    (hregion : s.regionOf (ekey core (spadElem spad)) = some b) (htv : (s.region b).tv = false) :
    execPendingLineTimeout core spad line s =
      .next (s.apply (s.asyncStop b 0x17 5 (elemIx (ekey core (spadElem spad))) (detailOf [(4, spad), (9, line)]))) := by
  have hsome : ((s.elem (ekey core (spadElem spad))).pend.filter (fun p => p.1 = line && decide (2 ^ 20 ≤ p.2.2))).isEmpty = false :=
    List.isEmpty_eq_false_iff_exists_mem.2 ⟨p, List.mem_filter.2 ⟨hmem, by simp only [hline, hage, decide_true, Bool.and_self]⟩⟩
  simp only [execPendingLineTimeout, complete_eq, State.run, hsome, hmember, hregion, htv, Bool.not_true, Bool.false_eq_true, if_false]

/-- An error of an element's storage is counted and stops its region. -/
theorem execStateStorageError_stops {elem unit : Nat} (h : s.regionOf (ekey core elem) = some b) :
    execStateStorageError core elem unit s =
      .next ((s.perform (s.countEvent core 7)).apply (s.asyncStop b 0x55 5 elem (detailOf [(7, elem), (3, unit)]))) := by
  simp only [execStateStorageError, complete_eq, State.run, h, State.apply_cons]

end Stops

/-- Settles O38: each event by what its meaning does once its condition holds. -/
theorem fabricComplete : Obligations.FabricComplete := by
  intro s
  refine ⟨fun a hfind hafter hsent hgate hcut => ?access, fun die tcid va w size hdie hva hroot hmiss => ?walk, fun n => ?corrects, fun n => ?poisons,
    fun tcid lo hi => ?invalidate, fun die kid => ?purge, fun kid => ?keySlot, fun core spad line b p => ?timeout, fun core elem unit b => ?storage⟩
  case access =>
    have hdue : exec (.memoryAccess a.id) s = .next (s.apply (s.performAccess a)) := execMemoryAccess_found hfind
    rw [hdue, State.performAccess_due (State.heldBack_eq_false hafter) hsent hgate hcut]
    refine ⟨fun hhere => ?performed, fun hpkg hop => ?sent⟩
    case performed =>
      have hstays : ¬ (a.pkg ≠ s.pkgNum ∧ a.op.isCopies = false) := by
        rintro ⟨hpkg, hop⟩
        simp [hpkg, hop] at hhere
      rw [if_neg hstays, State.apply_cons, State.perform_pending]
    case sent => rw [if_pos ⟨hpkg, hop⟩, State.apply_cons, State.perform_pending]
  case walk =>
    exact fun hwalk => (execTranslationWalk_miss hdie hva hmiss).trans (congrArg Host.Outcome.next (State.apply_walkEffects_leaf hroot hwalk))
  case corrects => exact execPatrolScrub_corrects
  case poisons => exact execPatrolScrub_poisons
  case invalidate => exact execTlbInvalidate_unused
  case purge => exact execKidPurge_unused
  case keySlot => exact execKeySlotWrite_unused
  case timeout => exact execPendingLineTimeout_stops
  case storage => exact execStateStorageError_stops

end Sys2Proof.Machine
end

section
/-! SUPPORT. Commands and packets and their bits (spec 05 R104, R105, 16 R368, 18 R422): each constructor that has words is one whose
encoding statement stands in Laws/PerInstr, and the words come back from the bits. -/

namespace Sys2Proof

variable {i : Instr}

/-- What is no element instruction has no slot bits. -/
theorem encodeSlot_eq_none (h : i.slot = none) : encodeSlot i = none := by
  unfold encodeSlot
  split
  next hslot => simp [h] at hslot
  · rfl

/-! Each kind of constructor, one after another. -/
section Kinds

/-- The twelve commands are no slots, and decode to themselves. -/
theorem Instr.command_kind {o p : Nat} {c : Command} (h : i.commandCode = some (o, p, c)) :
    i.slot = none ∧ Laws.Encoding.Statement i := by
  unfold Instr.commandCode at h
  split at h
  · exact ⟨rfl, Laws.Encoding.copy _⟩
  · exact ⟨rfl, Laws.Encoding.copym _⟩
  · exact ⟨rfl, Laws.Encoding.copyv _⟩
  · exact ⟨rfl, Laws.Encoding.fill _⟩
  · exact ⟨rfl, Laws.Encoding.cksm _⟩
  · exact ⟨rfl, Laws.Encoding.binap _⟩
  · exact ⟨rfl, Laws.Encoding.binpl _⟩
  · exact ⟨rfl, Laws.Encoding.cred _⟩
  · exact ⟨rfl, Laws.Encoding.card _⟩
  · exact ⟨rfl, Laws.Encoding.caga _⟩
  · exact ⟨rfl, Laws.Encoding.cbcs _⟩
  · exact ⟨rfl, Laws.Encoding.lnch _⟩
  · cases h

/-- The seven queue packets are neither slots nor commands, and decode to themselves. -/
theorem Instr.queue_kind {t : Nat} {p : QPacket} (h : i.queueCode = some (t, p)) :
    i.slot = none ∧ i.commandCode = none ∧ Laws.Encoding.Statement i := by
  unfold Instr.queueCode at h
  split at h
  · exact ⟨rfl, rfl, Laws.Encoding.nopq _⟩
  · exact ⟨rfl, rfl, Laws.Encoding.launch _⟩
  · exact ⟨rfl, rfl, Laws.Encoding.queueDelta _⟩
  · exact ⟨rfl, rfl, Laws.Encoding.copyh _⟩
  · exact ⟨rfl, rfl, Laws.Encoding.waitq _⟩
  · exact ⟨rfl, rfl, Laws.Encoding.sigq _⟩
  · exact ⟨rfl, rfl, Laws.Encoding.fenceq _⟩
  · cases h

/-- The thirteen management operations decode to themselves. -/
theorem Instr.mgmt_kind {o : Nat} {m : MgmtPacket} (h : i.mgmtCode = some (o, m)) : Laws.Encoding.Statement i := by
  unfold Instr.mgmtCode at h
  split at h
  · exact Laws.Encoding.create _
  · exact Laws.Encoding.destroy _
  · exact Laws.Encoding.mapq _
  · exact Laws.Encoding.unmapq _
  · exact Laws.Encoding.key _
  · exact Laws.Encoding.thaw _
  · exact Laws.Encoding.discard _
  · exact Laws.Encoding.enroll _
  · exact Laws.Encoding.domain _
  · exact Laws.Encoding.map _
  · exact Laws.Encoding.unmap _
  · exact Laws.Encoding.attest _
  · exact Laws.Encoding.telem _
  · cases h

end Kinds

/-- A well-formed queue packet passes the check of its type. -/
theorem Instr.queuePacketOk_of_wellFormed {t : Nat} {p : QPacket} (h : i.queueCode = some (t, p)) (hw : i.wellFormed = true) :
    queuePacketOk t p = true := by
  obtain ⟨hslot, hcommand, -⟩ := Instr.queue_kind h
  unfold Instr.wellFormed at hw
  split at hw
  next hslot' => simp [hslot] at hslot'
  · simpa only [hcommand, h] using hw

/-- A slot of 64 bytes all of whose words are zero is the one that no bits give. -/
theorem commandOf_zero {c : Command} (h : ∀ w ∈ c.words, w = 0) : commandOf 0 = c := by
  obtain ⟨w0, w1, w2, w3, w4, w5, w6, w7⟩ := c
  simp only [Command.words, List.forall_mem_cons] at h
  obtain ⟨rfl, rfl, rfl, rfl, rfl, rfl, rfl, rfl, -⟩ := h
  simp only [commandOf, Nat.zero_div]
  rfl

set_option exponentiation.threshold 600 in
/-- Both slots of a packet come back from its bits: COPYH has two, and the second of any other is zero (spec 16 R368). -/
theorem queueOf_queueBits {t : Nat} {p : QPacket} (h : queuePacketOk t p = true) : queueOf (queueBits t p).1 (queueBits t p).2 = p := by
  by_cases ht : t = 3
  case pos =>
    have hsecond : (commandBits p.first + 2 ^ 512 * commandBits p.second) / 2 ^ 512 = commandBits p.second := by
      rw [Nat.add_mul_div_left _ _ (Nat.two_pow_pos 512), Nat.div_eq_of_lt (commandBits_lt p.first), Nat.zero_add]
    simp only [queueBits, if_pos ht, queueOf, commandOf_first, hsecond, commandOf_commandBits]
    rfl
  case neg =>
    have hzero : ∀ w ∈ p.second.words, w = 0 := by
      simp only [queuePacketOk, Bool.and_eq_true, Bool.or_eq_true, decide_eq_true_eq, List.all_eq_true] at h
      obtain ⟨⟨-, hsecond⟩, -⟩ := h
      exact hsecond.resolve_left ht
    simp only [queueBits, if_neg ht, queueOf, commandOf_commandBits, le_refl, if_true, commandOf_zero hzero]

/-- Settles O52: each kind of constructor decodes to itself, and its words are those that its bits give. -/
theorem packetRoundTrip : Obligations.PacketRoundTrip := by
  intro i hw
  refine ⟨fun o p c hc => ?command, fun t p hq => ?queue, fun o m hm => ?management⟩
  case command =>
    obtain ⟨hslot, -, hdecode, -, -⟩ := Instr.command_kind hc
    rw [commandOf_commandBits]
    exact ⟨by simp only [encode, encodeSlot_eq_none hslot, hc], hdecode o p c hc hw⟩
  case queue =>
    obtain ⟨hslot, hcommand, -, -, hdecode, -⟩ := Instr.queue_kind hq
    rw [queueOf_queueBits (Instr.queuePacketOk_of_wellFormed hq hw)]
    exact ⟨by simp only [encode, encodeSlot_eq_none hslot, hcommand, hq], hdecode t p hq hw⟩
  case management =>
    obtain ⟨-, -, -, hdecode⟩ := Instr.mgmt_kind hm
    rw [commandOf_commandBits]
    exact hdecode o m hm hw

end Sys2Proof
end

section
/-! SUPPORT. The turns of an engine (spec 05 R103 to R109): a command that the focus names, a chunk that lands, and what each step of
a chunk gives where nothing holds it back. -/

namespace Sys2Proof.Machine

variable {s : State} {core eng : Nat} {m : Cmd}

/-- A part for each element of a list is run one element after another. -/
theorem State.run_forEach {α : Type} (f : α → Prog) (l : List α) (s : State) :
    s.run (Prog.forEach l f) = l.foldl (fun t a => t.run (f a)) s := by
  induction l generalizing s with
  | nil => rfl
  | cons a l ih => exact (State.run_seq_cons s (f a) (l.map f)).trans (ih (s.run (f a)))

/-- The changes of parts in order, made one part after another. -/
theorem State.apply_seq_cons (p : Prog) (l : List Prog) (s : State) :
    s.apply (Prog.seq (p :: l) s) = (s.apply (p s)).apply (Prog.seq l (s.apply (p s))) := State.run_seq_cons s p l
theorem State.apply_seq_nil (s : State) : s.apply (Prog.seq [] s) = s := rfl

/-- The changes of three parts in order. -/
theorem Prog.seq_three (p q r : Prog) (s : State) :
    Prog.seq [p, q, r] s = p s ++ (q (s.apply (p s)) ++ r ((s.apply (p s)).apply (q (s.apply (p s))))) := by
  simp only [Prog.seq, Prog.andThen, List.append_nil]

@[simp] theorem State.engWho_core (tcid : Nat) : (s.engWho core eng tcid).core = core := rfl
@[simp] theorem State.engWho_tcid (tcid : Nat) : (s.engWho core eng tcid).tcid = tcid := rfl
@[simp] theorem State.engWho_role (tcid : Nat) : (s.engWho core eng tcid).role = s.engineRole core eng := rfl

/-! The command that the focus names. -/
section Focus

variable {c : Command}

/-- The words of the running command are those of the instruction. -/
theorem State.command_of_commandOf (h : s.commandOf c = some (core, eng, m)) : m.c = c := by
  unfold State.commandOf at h
  split at h
  · split at h
    · split at h
      next hm =>
        simp only [Option.some.injEq, Prod.mk.injEq] at h
        obtain ⟨-, -, rfl⟩ := h
        simp only [Bool.and_eq_true, decide_eq_true_eq] at hm
        exact hm.1
      · cases h
    · cases h
  · cases h

/-- A turn of the command that the focus names makes that command's changes. -/
theorem commandTurn_found {p : Nat → Nat → Cmd → Prog} (h : s.commandOf c = some (core, eng, m)) :
    complete (commandTurn c p) s = .next (s.run (p core eng m)) := by
  simp only [complete_eq, State.run, commandTurn, h]

end Focus

/-! A chunk that lands (spec 05 R107 to R109, R116); the model performs it at one instant (log 5). -/
section Landing

variable {d : Landing} {l : List Effect}

/-- The running command with a number replaced. -/
theorem State.apply_update (t : State) (id : Nat) (f : Cmd → Cmd) :
    t.apply [.engine (4 * core + eng) ((t.engine core eng).update id f)] = commandPut t core eng id f := rfl

/-- Each core's barrier counts the bytes of a chunk that arrived there (spec 05 R116). -/
theorem State.apply_arrivals (c : Cmd) (l : List (Nat × Nat × Bool)) (t : State) :
    t.apply (Prog.forEach l (fun a s => [.bar (2048 * a.1 + c.c.bar) (barBytes (s.bar a.1 c.c.bar) a.2.1 a.2.2 (s.engineRole core eng))]) t)
      = l.foldl (fun (t : State) a =>
        { t with bars := Map.set 0 t.bars (2048 * a.1 + c.c.bar) (barBytes (t.bar a.1 c.c.bar) a.2.1 a.2.2 (t.engineRole core eng)) }) t :=
  State.run_forEach _ l t

/-- What a chunk that lands leaves of its command is what the statements say. -/
theorem run_settleChunk_land : s.run (settleChunk core eng m (.land d l)) = chunkTurn s core eng m d l := by
  simp only [State.run, settleChunk, State.apply_seq_cons, State.apply_seq_nil, State.apply_update, chunkTurn]
  generalize s.apply l = t
  by_cases hsent : t.nextId = s.nextId
  case neg => rw [if_pos hsent]; exact congrArg (State.apply _) (if_neg hsent)
  case pos =>
    rw [if_neg (not_not.2 hsent)]
    refine (congrArg (State.apply _) (if_pos hsent)).trans ?_
    generalize commandPut t core eng m.id _ = u
    simp only [landChunk]
    cases (u.engine core eng).running.find? (fun c => c.id = m.id) with
    | none => rfl
    | some c =>
      cases hland : c.landing with
      | none => simp only [hland]; rfl
      | some d =>
        simp only [hland, State.apply_seq_cons, State.apply_seq_nil, State.apply_update, State.apply_arrivals]
        rfl

/-- A turn of the command that the focus names settles its chunk. -/
theorem commandTurn_settles {c : Command} {x : State → Nat → Nat → Cmd → Chunk} (hc : s.commandOf c = some (core, eng, m)) :
    complete (commandTurn c (fun core eng m s => settleChunk core eng m (x s core eng m) s)) s
      = .next (s.run (settleChunk core eng m (x s core eng m))) :=
  commandTurn_found hc

/-- A turn in which the chunk lands. -/
theorem commandTurn_lands {c : Command} {x : State → Nat → Nat → Cmd → Chunk} (hc : s.commandOf c = some (core, eng, m))
    (hx : x s core eng m = .land d l) :
    complete (commandTurn c (fun core eng m s => settleChunk core eng m (x s core eng m) s)) s = .next (chunkTurn s core eng m d l) := by
  rw [commandTurn_settles hc, hx, run_settleChunk_land]

end Landing

/-! The steps of a chunk where nothing holds it back. -/
section Steps

variable {ps : List Piece}

theorem chunkChecked_ok {α : Type} {k : Kind} {r : Except Fail α} {a : α} {f : α → Chunk} (h : r = .ok a) : chunkChecked k r f = f a := by
  rw [h]
  rfl

/-- Bytes that are here or answered are read (spec 18 R429). -/
theorem State.fetched_here {k : List (Byte × Bool) → Chunk} (h : s.lacking m.asks ps = []) : s.fetched m ps k = k (s.fetchFrom m.asks s.free ps) :=
  if_pos h

/-- Pieces that no gate, cut link or earlier access holds back are clear (spec 01 R32, 15 R347, 18 R425). -/
theorem State.clearTo_free {k : Unit → Chunk} (hgate : s.gateOf ps = none) (hcut : s.cutPiece ps = none) (hwait : s.chunkWaits core ps = false) :
    s.clearTo core ps k = k () := by
  simp only [State.clearTo, hgate, hcut, hwait, Bool.false_eq_true, if_false]

end Steps

end Sys2Proof.Machine
end

section
/-! SUPPORT. The life of a command in its engine (spec 05 R103, R105 to R107): what acceptance, start, chunk and completion do to an engine
that is not frozen. -/

namespace Sys2Proof.Machine

variable {s : State} {core eng i : Nat} {m c : Cmd}

/-- The state with an engine replaced. -/
def State.putEngine (s : State) (core eng : Nat) (g : Engine) : State :=
  { s with engines := Map.set Engine.reset s.engines (4 * core + eng) g }

/-- An engine with room takes its next offer, and examines it (spec 05 R103, R105). -/
theorem execEngineCommandAccept_offer {o : Offer} (hfrozen : (s.engine core eng).frozen = false) (ho : (s.engine core eng).nextOffer = some o)
    (hroom : ((s.engine core eng).queue.filter (fun c => !c.paused)).length < 32) :
    let g := s.engine core eng
    let x := s.examine core eng (o.accepted s.nextId (s.engineRole core eng))
    execEngineCommandAccept core eng s = .next (State.run
      (State.putEngine { s with nextId := s.nextId + 1 } core eng { g with offers := g.offers.erase o, lastSrc := o.src.place })
      (Prog.seq [commitEcmd o s.nextId, placeCommand core eng x.1 x.2])) := by
  intro g x
  have hroom' : ((s.engine core eng).frozen || decide (32 ≤ ((s.engine core eng).queue.filter (fun c => !c.paused)).length)) = false := by
    rw [hfrozen, Bool.false_or, decide_eq_false (Nat.not_le.2 hroom)]
  simp only [execEngineCommandAccept, complete_eq, State.run, ho, hroom', Bool.false_eq_true, if_false]
  exact congrArg Host.Outcome.next (State.run_seq_cons s _ _)

/-! The head of the queue (spec 05 R103, R106). -/
section Start

variable (hfrozen : (s.engine core eng).frozen = false) (hhead : (s.engine core eng).queue.find? (fun d => !d.paused) = some c)
  (hchecked : c.recheck = false)
include hfrozen hhead hchecked

/-- At a semaphore in error the head ends with status 4. -/
theorem execEngineCommandStart_error (hwaits : c.c.fld 0 11 1 = 1) (herr : semErr (s.sem core (c.c.fld 0 13 8)) = true) :
    let g := s.engine core eng
    let w := s.sem core (c.c.fld 0 13 8)
    execEngineCommandStart core eng s = .next (s.putEngine core eng
      { g with queue := g.queue.filter (fun d => d.id ≠ c.id)
               running := g.running ++ [{ c with finished := true, status := 4, cause := semCause w, role := semRole w }] }) := by
  simp [execEngineCommandStart, State.run, State.putEngine, hhead, hfrozen, hchecked, hwaits, herr]

/-- Where the WAIT holds and fewer than four run, the head starts. -/
theorem execEngineCommandStart_starts (hholds : c.c.fld 0 11 1 = 0 ∨ (semErr (s.sem core (c.c.fld 0 13 8)) = false
      ∧ semCond (s.sem core (c.c.fld 0 13 8)) (c.c.fld 0 12 1 = 1) (c.c.fld 0 21 16) = true))
    (hfew : (s.engine core eng).active.length < 4) :
    let g := s.engine core eng
    execEngineCommandStart core eng s = .next (s.putEngine core eng
      { g with queue := g.queue.filter (fun d => d.id ≠ c.id), running := g.running ++ [{ c with started := true }] }) := by
  have hfew' : ¬ 4 ≤ (s.engine core eng).active.length := Nat.not_le.2 hfew
  rcases hholds with hfree | ⟨herr, hcond⟩
  · simp [execEngineCommandStart, State.run, State.putEngine, hhead, hfrozen, hchecked, hfree, hfew']
  · simp [execEngineCommandStart, State.run, State.putEngine, hhead, hfrozen, hchecked, herr, hcond, hfew']

end Start

/-- A running command has its turn (spec 05 R108). -/
theorem execEngineChunk_turn (hm : (s.engine core eng).running[i]? = some m) (hrun : (s.engine core eng).mayRun m = true) :
    execEngineChunk core eng i s = .next (s.run (advance core eng m)) := by
  simp only [execEngineChunk, complete_eq, State.run, hm, hrun, if_true]

/-! A command that has stopped (spec 05 R107). -/
section Complete

variable (hfrozen : (s.engine core eng).frozen = false) (hm : (s.engine core eng).running[i]? = some m) (hstopped : m.finished = true)
include hfrozen hm hstopped

/-- Once its record has gone out, if it owes one, the command leaves the state that this made. -/
theorem execEngineCommandComplete_leaves {t : State} (ht : s.run (m.replyAt.elim Prog.skip (recordOut core eng m)) = t)
    (hc : (t.engine core eng).running.find? (fun d => d.id = m.id) = some c) (hreply : c.replyAt = none) (howes : c.owes = []) :
    let g := t.engine core eng
    execEngineCommandComplete core eng i s = .next
      ((t.putEngine core eng { g with running := g.running.filter (fun d => d.id ≠ c.id) }).run (completeCommand core c)) := by
  have hgo : (!m.finished || (s.engine core eng).frozen) = false := by rw [hstopped, hfrozen]; rfl
  have hpaid : (c.replyAt.isSome || decide (c.owes ≠ [])) = false := by rw [hreply, howes]; rfl
  simp only [execEngineCommandComplete, complete_eq, State.run, hm, hgo, Bool.false_eq_true, if_false, State.apply_seq_cons, State.apply_seq_nil]
  have hrecord : s.apply (m.replyAt.elim Prog.skip (recordOut core eng m) s) = t := ht
  cases hx : m.replyAt
  all_goals
    simp only [hx, Option.elim, Prog.skip] at hrecord ⊢
    simp only [hrecord, hc, hpaid, Bool.false_eq_true, if_false, State.apply_seq_cons]
    rfl

end Complete

/-- The record goes to an address of this package whose core is awake, and is then no longer owed (spec 05 R107). -/
theorem run_recordOut_here {x : Xlat} (hpkg : x.pkg = s.pkgNum) (hgate : s.gatedFor x.pkg x.pa = none) :
    s.run (recordOut core eng m x) = commandPut
      (s.apply (s.writePieces (s.engineRole core eng) m.tcid
        [(.store (leBytes 8 m.record) (List.replicate 8 false), ⟨x, m.c.word 6, 8⟩)])) core eng m.id
      (fun c => { c with replyAt := none, gate := none, owes := [] }) := by
  simp only [State.run, recordOut, hgate, if_pos hpkg, State.apply_seq_cons, State.apply_seq_nil, State.apply_update]

/-- Settles O34: each event of a command by what it does to its engine. -/
theorem enginesComplete : Obligations.EnginesComplete := by
  intro s core eng g put hfrozen
  refine ⟨fun o ho hroom => execEngineCommandAccept_offer hfrozen ho hroom,
    fun c hhead hchecked => ⟨fun hwaits herr => ?error, fun hholds hfew => ?starts⟩,
    fun i m hm => ⟨fun hrun => execEngineChunk_turn hm hrun,
      fun hstopped => ⟨fun hnone c hc hreply howes => ?leaves, fun x hx hpkg hgate => ?record⟩⟩⟩
  case error => exact execEngineCommandStart_error hfrozen hhead hchecked hwaits herr
  case starts => exact execEngineCommandStart_starts hfrozen hhead hchecked hholds hfew
  case leaves => exact execEngineCommandComplete_leaves hfrozen hm hstopped (by rw [hnone]; rfl) hc hreply howes
  case record =>
    intro record t c hc hreply howes
    exact execEngineCommandComplete_leaves hfrozen hm hstopped (by rw [hx]; exact run_recordOut_here hpkg hgate) hc hreply howes

end Sys2Proof.Machine
end

section
/-! SUPPORT. The copy family (spec 05 R108, R116, R117, 09 R215, R216, R218): what a chunk reads, writes and scales by the opcode, and
that it lands once its checks pass. -/

namespace Sys2Proof.Machine

/-- Parts that all answer are joined in order. -/
theorem foldr_ok_of_mapM {α β ε : Type} {g : α → Except ε (List β)} {f : α → Except ε (List β) → Except ε (List β)} {l : List α}
    {ls : List (List β)} (hf : ∀ x l r, g x = .ok l → f x (.ok r) = .ok (l ++ r)) (h : l.mapM g = .ok ls) :
    l.foldr f (.ok []) = .ok ls.flatten := by
  induction l generalizing ls with
  | nil => cases h; rfl
  | cons x l ih =>
    rw [List.mapM_cons] at h
    cases hx : g x with
    | error e => rw [hx] at h; cases h
    | ok y =>
      cases hl : l.mapM g with
      | error e => rw [hx, hl] at h; cases h
      | ok ys =>
        rw [hx, hl] at h
        cases h
        rw [List.foldr_cons, ih hl, hf x y _ hx, List.flatten_cons]

/-- Bytes of a command's destination (spec 09 R215, R216). -/
def copyTotal (c : Command) : Nat := if c.op = 5 then 4 else (geoOf c).total

/-- A CBCS that gives each member a part of the source of its own (spec 09 R218). -/
def scatters (c : Command) : Bool := c.op = 0x23 && c.fld 5 24 1 = 1

/-- A span of elements as spanOf gives it: first and last element, the same widened to whole MX blocks, first source byte. -/
abbrev Span := Nat × Nat × Nat × Nat × Nat

/-- The source bytes of destination bytes lo to hi − 1: of the whole source for CKSM, of whole MX blocks for COPYV. -/
def copyReads (c : Command) (span : Span) (lo hi : Nat) : List (Int × Nat) :=
  let g := geoOf c
  let (_, _, _, b1, u0) := span
  if c.op = 4 then []
  else if c.op = 5 then itemsFrom g.srcAt 0 g.run
  else if c.op = 3 then itemsFrom g.srcAt u0 ((b1 * g.es + 7) / 8 - u0)
  else itemsFrom g.srcAt lo (hi - lo)

/-- The same bytes of the other members' parts, for a CBCS that scatters. -/
def copyMore (core : Nat) (c : Command) (lo hi : Nat) : List (List (Int × Nat)) :=
  let g := geoOf c
  if scatters c then
    ((memberCores core c.dmask).zipIdx.drop 1).map (fun x => itemsFrom (fun u => g.srcAt u + ((x.2 * g.run : Nat) : Int)) lo (hi - lo))
  else []

/-- The converted elements of a chunk's source bytes, and the scales of their blocks (spec 09 R215). -/
def copyConverted (c : Command) (span : Span) (src : List (Byte × Bool)) : List (Nat × Bool) × List (Nat × (Nat × Bool)) :=
  let g := geoOf c
  let (_, _, b0, b1, _) := span
  convert c b0 (((elemsOf g.es src).drop (if g.es = 4 then b0 % 2 else 0)).take (b1 - b0))

/-- The bytes of a chunk that every destination receives, or the first. -/
def copyBytes (c : Command) (span : Span) (free lo hi : Nat) (src : List (Byte × Bool)) : List (Byte × Bool) :=
  let g := geoOf c
  let (e0, e1, b0, _, _) := span
  if c.op = 4 then (List.range (hi - lo)).map (fun i => (byteOf (c.word 1) ((g.dstLogical (lo + i)) % 8).toNat, false))
  else if c.op = 5 then (leBytes 4 (crc32c (src.map (fun b => b.1)))).map (fun b => (b, src.any (fun x => x.2)))
  else if c.op = 3 then packElems g.ed g.elems free e0 (((copyConverted c span src).1.drop (e0 - b0)).take (e1 - e0))
  else src

/-- What destination i receives of a chunk whose source bytes are `src`, and `rest` for the other members of a CBCS that scatters. -/
def copyData (c : Command) (span : Span) (free lo hi : Nat) (src rest : List (Byte × Bool)) (i : Nat) : List (Byte × Bool) :=
  (copyBytes c span free lo hi src :: (if scatters c then chunksOf (hi - lo) 4 rest else [])).getD (if scatters c then i else 0) []

/-- The scales of the blocks that begin in a chunk of a COPYV (spec 09 R215). -/
def copyScales (c : Command) (span : Span) (src : List (Byte × Bool)) : List (Nat × (Nat × Bool)) :=
  let (e0, e1, _, _, _) := span
  (copyConverted c span src).2.filter (fun b =>
    c.op = 3 && decide (e0 ≤ b.1 * (c.fld 7 45 8 + 1)) && decide (b.1 * (c.fld 7 45 8 + 1) < e1))

/-- A chunk whose checks all pass, and that nothing holds back, lands (spec 05 R108, R116, R117). -/
theorem State.copyChunk_lands (s : State) (core eng : Nat) (m : Cmd) :
    let c := m.c
    let w := s.engWho core eng m.tcid
    let hi := Nat.min (copyTotal c) (m.prog + 65536)
    ∀ span sp sp2 dps scp sts, spanOf c m.prog hi = span →
      s.located w .read (copyReads c span m.prog hi) = .ok sp → s.locatedAll w .read (copyMore core c m.prog hi) = .ok sp2 →
      s.destPieces w c m.prog (hi - m.prog) = .ok dps →
      let read := (sp ++ sp2).map (fun x => x.2)
      let bytes := s.fetchFrom m.asks s.free read
      let n := sp.foldl (fun a x => a + x.2.size) 0
      let scales := copyScales c span (bytes.take n)
      s.locatedAll w .write (scales.map (fun b => [(((c.fld 5 0 48 + b.1 : Nat) : Int), 0)])) = .ok scp →
      dps.zipIdx.mapM (fun x => storesAt w (copyData c span s.free m.prog hi (bytes.take n) (bytes.drop n) x.2) x.1) = .ok sts →
      chunkFree s core m read (read ++ dps.flatMap (fun l => l.map (fun x => x.2)) ++ scp.map (fun x => x.2)) →
      let stores := sts.flatten ++ (scales.zip scp).map (fun x => (MemOp.store [BitVec.ofNat 8 x.1.2.1] [x.1.2.2], x.2.2))
      let pre := s.reachAll core m.tcid false read
        ++ (if (geoOf c).ed = 4 ∧ (geoOf c).elems % 2 = 1 then [.free (s.free + span.2.1)] else [])
      let write := (s.apply pre).writePieces w.role m.tcid stores
      let u := (s.apply pre).apply write
      s.copyChunk core eng m = .land
        { prog := hi, last := hi = copyTotal c, stop := none, pois := bytes.any (fun b => b.2), arrive := s.arrivalsOf core c.ben stores }
        (pre ++ (write ++ (if eng = 0 then u.clearLines m.id (if hi = copyTotal c then [] else u.linesFrom w c hi) else []))) := by
  intro c w hi span sp sp2 dps scp sts hspan hsp hmore hdst read bytes n scales hscales hstores hfree stores pre write u
  obtain ⟨hlack, hgate, hcut, hwait⟩ := hfree
  obtain ⟨e0, e1, b0, b1, u0⟩ := span
  have hspan' : spanOf m.c m.prog (Nat.min (if m.c.op = 5 then 4 else (geoOf m.c).total) (m.prog + 65536)) = (e0, e1, b0, b1, u0) := hspan
  simp only [State.copyChunk, hspan']
  refine (chunkChecked_ok hsp).trans ((chunkChecked_ok hmore).trans ((chunkChecked_ok hdst).trans ((State.fetched_here hlack).trans
    ((chunkChecked_ok hscales).trans ((chunkChecked_ok (foldr_ok_of_mapM ?join hstores)).trans ((State.clearTo_free hgate hcut hwait).trans ?lands))))))
  case join =>
    intro x l r hx
    split
    next f hf => cases hx.symm.trans hf
    next l' hl => cases hx.symm.trans hl; rfl
  case lands => exact congrArg (Chunk.land _) (Prog.seq_three _ _ _ s)

/-! Commands that convert nothing. -/
section Moved

variable {s : State} {core eng : Nat} {m : Cmd}

/-- Such a chunk of a command that converts nothing: it writes no scales, and takes no free value. -/
theorem chunkCopies_moved {total : Nat} {first : List (Int × Nat)} {more : List (List (Int × Nat))}
    {data : Nat → List (Byte × Bool) → List (Byte × Bool) → List (Byte × Bool)} (hop : m.c.op ≠ 3) (htotal : copyTotal m.c = total)
    (hfirst : let hi := Nat.min total (m.prog + 65536); copyReads m.c (spanOf m.c m.prog hi) m.prog hi = first)
    (hmore : copyMore core m.c m.prog (Nat.min total (m.prog + 65536)) = more)
    (hdata : let hi := Nat.min total (m.prog + 65536)
      ∀ l rest i, copyData m.c (spanOf m.c m.prog hi) s.free m.prog hi l rest i = data i l rest) :
    chunkCopies s core eng m total first more data (.next (s.run (settleChunk core eng m (s.copyChunk core eng m)))) := by
  subst htotal hfirst hmore
  intro sp sp2 dps sts hsp hmore hdst read bytes n hstores hfree pre write u
  have hscales (span : Span) (l : List (Byte × Bool)) : copyScales m.c span l = [] := by simp [copyScales, hop]
  have hwhole : ¬ ((geoOf m.c).ed = 4 ∧ (geoOf m.c).elems % 2 = 1) := by simp [geoOf, hop]
  have hland := s.copyChunk_lands core eng m _ sp sp2 dps [] sts rfl hsp hmore hdst
  simp only [hscales, hdata, if_neg hwhole, List.map_nil, List.append_nil, List.zip_nil_left] at hland
  rw [hland rfl hstores hfree, run_settleChunk_land]

/-- Without SCAT every destination receives the same bytes. -/
theorem copyData_same {c : Command} {span : Span} {free lo hi i : Nat} {src rest : List (Byte × Bool)} (h : scatters c = false) :
    copyData c span free lo hi src rest i = copyBytes c span free lo hi src := by
  simp [copyData, h]

theorem copyMore_same {c : Command} {lo hi : Nat} (h : scatters c = false) : copyMore core c lo hi = [] := by
  simp [copyMore, h]

theorem scatters_of_op_ne {c : Command} (h : c.op ≠ 0x23) : scatters c = false := by
  simp [scatters, h]

/-- A chunk that moves its source bytes as they are: COPY, COPYM, and CBCS within a cluster without SCAT. -/
theorem chunkCopies_plain (hop : m.c.op ∉ [3, 4, 5]) (hscat : scatters m.c = false) :
    let g := geoOf m.c
    chunkCopies s core eng m g.total (itemsFrom g.srcAt m.prog (Nat.min g.total (m.prog + 65536) - m.prog)) [] (fun _ l _ => l)
      (.next (s.run (settleChunk core eng m (s.copyChunk core eng m)))) := by
  simp only [List.mem_cons, List.not_mem_nil, or_false, not_or] at hop
  obtain ⟨h3, h4, h5⟩ := hop
  refine chunkCopies_moved h3 (if_neg h5) ?_ (copyMore_same hscat) ?_
  · simp only [copyReads, h3, h4, h5, if_false]
  · intro hi l rest i
    rw [copyData_same hscat]
    simp only [copyBytes, h3, h4, h5, if_false]

/-- A chunk of FILL reads nothing (spec 09 R216). -/
theorem chunkCopies_fill (hop : m.c.op = 4) :
    let g := geoOf m.c
    chunkCopies s core eng m g.total [] [] (fun _ _ _ => (List.range (Nat.min g.total (m.prog + 65536) - m.prog)).map (fun i =>
        (byteOf (m.c.word 1) ((g.dstLogical (m.prog + i)) % 8).toNat, false)))
      (.next (s.run (settleChunk core eng m (s.copyChunk core eng m)))) := by
  have hscat : scatters m.c = false := scatters_of_op_ne (by rw [hop]; decide)
  refine chunkCopies_moved (by rw [hop]; decide) (if_neg (by rw [hop]; decide)) ?_ (copyMore_same hscat) ?_
  · simp only [copyReads, hop, if_true]
  · intro hi l rest i
    rw [copyData_same hscat]
    simp only [copyBytes, hop, if_true]
    rfl

/-- The chunk of CKSM reads the whole source (spec 09 R216). -/
theorem chunkCopies_cksm (hop : m.c.op = 5) :
    let g := geoOf m.c
    chunkCopies s core eng m 4 (itemsFrom g.srcAt 0 g.run) []
      (fun _ l _ => (leBytes 4 (crc32c (l.map (fun x => x.1)))).map (fun x => (x, l.any (fun y => y.2))))
      (.next (s.run (settleChunk core eng m (s.copyChunk core eng m)))) := by
  have hscat : scatters m.c = false := scatters_of_op_ne (by rw [hop]; decide)
  refine chunkCopies_moved (by rw [hop]; decide) (if_pos hop) ?_ (copyMore_same hscat) ?_
  · simp [copyReads, hop]
  · intro hi l rest i
    rw [copyData_same hscat]
    simp [copyBytes, hop]

/-- A chunk of a CBCS within a cluster with SCAT gives each member its part of the source (spec 09 R218). -/
theorem chunkCopies_scatter (hop : m.c.op = 0x23) (hscat : m.c.fld 5 24 1 = 1) :
    let g := geoOf m.c
    let n := Nat.min g.total (m.prog + 65536) - m.prog
    chunkCopies s core eng m g.total (itemsFrom g.srcAt m.prog n)
      (((memberCores core m.c.dmask).zipIdx.drop 1).map (fun x => itemsFrom (fun u => g.srcAt u + ((x.2 * g.run : Nat) : Int)) m.prog n))
      (fun i l rest => (l :: chunksOf n 4 rest).getD i [])
      (.next (s.run (settleChunk core eng m (s.copyChunk core eng m)))) := by
  have hscat' : scatters m.c = true := by simp [scatters, hop, hscat]
  refine chunkCopies_moved (by rw [hop]; decide) (if_neg (by rw [hop]; decide)) ?_ (if_pos hscat') ?_
  · simp [copyReads, hop]
  · intro hi l rest i
    simp [copyData, hscat', copyBytes, hop, hi]

end Moved

/-- COPY, COPYM, FILL, CKSM and the cluster form of CBCS, each by what its chunk moves. -/
theorem copyFamily_bytesMoved : bytesMoved := by
  intro s c core eng m hc
  obtain rfl := State.command_of_commandOf hc
  intro g lo n plain same
  refine ⟨fun hop => ?copy, fun hop => ?copym, fun hop => ?fill, fun hop => ?cksm, fun hop hcluster => ?cbcs⟩
  case copy =>
    rw [show exec (.copy m.c) s = _ from commandTurn_settles (x := State.copyChunk) hc]
    exact chunkCopies_plain (by rw [hop]; decide) (scatters_of_op_ne (by rw [hop]; decide))
  case copym =>
    rw [show exec (.copym m.c) s = _ from commandTurn_settles (x := State.copyChunk) hc]
    exact chunkCopies_plain (by rw [hop]; decide) (scatters_of_op_ne (by rw [hop]; decide))
  case fill =>
    rw [show exec (.fill m.c) s = _ from commandTurn_settles (x := State.copyChunk) hc]
    exact chunkCopies_fill hop
  case cksm =>
    rw [show exec (.cksm m.c) s = _ from commandTurn_settles (x := State.copyChunk) hc]
    exact chunkCopies_cksm hop
  case cbcs =>
    have hturn : exec (.cbcs m.c) s = .next (s.run (settleChunk core eng m (s.copyChunk core eng m))) := by
      refine (commandTurn_found (p := fun core eng m => advance core eng m) hc).trans (congrArg (fun l => Host.Outcome.next (s.apply l)) ?_)
      simp [advance, hop, hcluster]
    rw [hturn]
    refine ⟨fun hscat => chunkCopies_plain (by rw [hop]; decide) ?_, fun hscat => chunkCopies_scatter hop hscat⟩
    simp [scatters, hscat]

/-! COPYV. -/
section Converted

variable {c : Command} {e0 e1 b0 b1 u0 lo hi : Nat} {src : List (Byte × Bool)}

theorem copyReads_copyv (hop : c.op = 3) :
    copyReads c (e0, e1, b0, b1, u0) lo hi = itemsFrom (geoOf c).srcAt u0 ((b1 * (geoOf c).es + 7) / 8 - u0) := by
  simp [copyReads, hop]

theorem copyScales_copyv (hop : c.op = 3) : copyScales c (e0, e1, b0, b1, u0) src =
    (copyConverted c (e0, e1, b0, b1, u0) src).2.filter (fun b =>
      decide (e0 ≤ b.1 * (c.fld 7 45 8 + 1)) && decide (b.1 * (c.fld 7 45 8 + 1) < e1)) := by
  simp [copyScales, hop]

/-- Every destination receives the converted elements, packed. -/
theorem copyData_copyv {free : Nat} (hop : c.op = 3) (rest : List (Byte × Bool)) (i : Nat) :
    copyData c (e0, e1, b0, b1, u0) free lo hi src rest i = packElems (geoOf c).ed (geoOf c).elems free e0
      (((copyConverted c (e0, e1, b0, b1, u0) src).1.drop (e0 - b0)).take (e1 - e0)) := by
  rw [copyData_same (scatters_of_op_ne (by rw [hop]; decide))]
  simp [copyBytes, hop]

/-- Stores of the same bytes at each of several destinations. -/
theorem mapM_storesAt_same {w : Who} (data : List (Byte × Bool)) (dps : List (List (Nat × Piece))) :
    dps.zipIdx.mapM (fun x => storesAt w data x.1) = dps.mapM (storesAt w data) := by
  rw [show (fun x : List (Nat × Piece) × Nat => storesAt w data x.1) = storesAt w data ∘ Prod.fst from rfl, ← List.mapM_map,
    List.zipIdx_map_fst]

end Converted

/-- A chunk of COPYV converts the elements that its destination bytes come from, and writes the scales of the blocks that begin in it. -/
theorem copyv_bytesConverted : bytesConverted := by
  intro s c core eng m hc hop g w hi
  obtain rfl := State.command_of_commandOf hc
  rcases hspan : spanOf m.c m.prog hi with ⟨e0, e1, b0, b1, u0⟩
  intro sp dps st scp hsp hdst read bytes made data n scales hscales hstores hfree stores pre write u
  have htotal : copyTotal m.c = g.total := if_neg (by rw [hop]; decide)
  have hmore : copyMore core m.c m.prog hi = [] := copyMore_same (scatters_of_op_ne (by rw [hop]; decide))
  have hland := s.copyChunk_lands core eng m (e0, e1, b0, b1, u0) sp [] dps scp st
  simp only [htotal, List.append_nil, copyReads_copyv hop, copyScales_copyv hop, copyData_copyv hop, mapM_storesAt_same] at hland
  exact commandTurn_lands (x := State.copyChunk) hc (hland hspan hsp (by rw [hmore]; rfl) hdst hscales hstores hfree)

end Sys2Proof.Machine
end

section
/-! SUPPORT. The binning engine and LNCH (spec 09 R217, R219, 16 R385): a record that fits is appended, a chunk of records or a bushel
lands, and a child launch leaves. -/

namespace Sys2Proof.Machine

variable {s : State} {core eng : Nat} {m : Cmd}

/-- A part of n items that has no more is the only one. -/
theorem chunksOf_whole {α : Type} {n k : Nat} {l : List α} (hl : l.length = n) (hn : 0 < n) : chunksOf n (k + 1) l = [l] := by
  cases l with
  | nil => simp only [List.length_nil] at hl; omega
  | cons x l =>
    rw [chunksOf, List.take_of_length_le (Nat.le_of_eq hl), List.drop_of_length_le (Nat.le_of_eq hl)]
    cases k <;> rfl

/-- One record whose bushel has room is written there, and FILL rises by one (spec 09 R217). -/
theorem State.appendRecords_one {w : Who} {asks : List Ask} {btab shift nbm : Nat} {r : List (Byte × Bool)} {e : List Piece × List Piece}
    {ps : List Piece} (hbushel : leNat ((r.take 4).map (fun x => x.1)) / 2 ^ shift ≤ nbm)
    (hentry : s.bushelPieces w btab (leNat ((r.take 4).map (fun x => x.1)) / 2 ^ shift) = .ok e) (hhere : s.lacking asks e.1 = [])
    (hroom : (s.bushelAt asks e.1).fill < (s.bushelAt asks e.1).cap)
    (hplace : s.checkAccess w .write (((s.bushelAt asks e.1).base + 8 * (s.bushelAt asks e.1).fill : Nat) : Int) 8 = .ok ps)
    (hown : ∀ p ∈ e.1, p.x.pkg = s.pkgNum) :
    let st := cutPieces r ps ++ cutPieces (clean (leBytes 4 ((s.bushelAt asks e.1).fill + 1))) e.2
    let pre := s.reachAll w.core w.tcid false e.1
    s.appendRecords w asks btab shift nbm [r] = .ok
      { count := 1, full := false, writes := st, touched := ps ++ e.1, effects := pre ++ (s.apply pre).writePieces w.role w.tcid st
        need := [], cut := false } := by
  have hown' : e.1.any (fun p => decide ¬ p.x.pkg = s.pkgNum) = false := by simpa [List.any_eq_false] using hown
  simp only [State.appendRecords, if_neg (Nat.not_lt.2 hbushel), hentry, hhere, ne_eq, not_true, if_false, if_neg (Nat.not_le.2 hroom), hplace,
    hown', Bool.false_eq_true, Appended.none, List.append_nil, Nat.zero_add]

/-- A chunk of a BINAP whose records go to their bushels in order lands (spec 09 R217). -/
theorem State.binapChunk_lands {src : List Piece} {a : Appended} :
    let c := m.c
    let w := s.engWho core eng m.tcid
    let total := 8 * c.fld 3 0 32
    let hi := Nat.min total (m.prog + 65536)
    let recs := s.fetchFrom m.asks s.free src
    let got := s.reachAll core m.tcid false src
    s.checkAccess w .read ((c.fld 1 0 48 + m.prog : Nat) : Int) (hi - m.prog) = .ok src →
    (s.apply got).appendRecords w m.asks (c.fld 2 0 48) (c.fld 3 32 5) (c.fld 3 48 16) (chunksOf 8 (hi - m.prog) recs) = .ok a →
    (a.need = [] ∨ 0 < a.count) → chunkFree s core m src (src ++ a.touched) →
    let at_ := if a.full || !(a.need = [] && !a.cut) then m.prog + 8 * a.count else hi
    s.binapChunk core eng m = .land
      { prog := at_, last := at_ = total, stop := if a.full then some (7, 0x33) else none
        pois := (recs.take (8 * a.count)).any (fun b => b.2), arrive := s.arrivalsOf core c.ben a.writes } (got ++ a.effects) := by
  intro c w total hi recs got hsrc happend hgoes hfree
  obtain ⟨hlack, hgate, hcut, hwait⟩ := hfree
  refine (chunkChecked_ok hsrc).trans ((State.fetched_here hlack).trans ((chunkChecked_ok happend).trans ?_))
  have hgoes' : ¬ (a.need ≠ [] ∧ a.count = 0) := by
    rintro ⟨hneed, hzero⟩
    exact hgoes.elim hneed (by omega)
  exact (if_neg hgoes').trans (State.clearTo_free hgate hcut hwait)

/-- A chunk of BINPL lands: the records of its bushel applied, the region written back, FILL cleared (spec 09 R217). -/
theorem State.binplChunk_lands {e : List Piece × List Piece} {rs src dst stage : List Piece} :
    let c := m.c
    let w := s.engWho core eng m.tcid
    let n := 4 * 2 ^ c.fld 4 32 5
    let b := c.fld 4 0 16 + m.prog / n
    let at_ := c.fld 2 0 48 + b * n
    let x := s.bushelAt m.asks e.1
    s.bushelPieces w (c.fld 1 0 48) b = .ok e → s.lacking m.asks e.1 = [] →
    s.checkAccess w .read (x.base : Int) (8 * x.fill) = .ok rs → s.checkAccess w .read (at_ : Int) n = .ok src →
    s.checkAccess w .write (at_ : Int) n = .ok dst → s.checkWindow w .write core (c.fld 3 0 21 : Int) n = .ok stage →
    chunkFree s core m (rs ++ src) (rs ++ src ++ dst ++ stage ++ e.2) →
    let bytes := s.fetchFrom m.asks s.free (rs ++ src)
    let words : Map (Nat × Bool) := ((elemsOf 32 (bytes.drop (8 * x.fill))).zipIdx).map (fun x => (x.2, x.1))
    let new := applyRecords (c.fld 4 37 3) (c.fld 4 32 5) words (chunksOf 8 (8 * x.fill) (bytes.take (8 * x.fill)))
    let data := markedBytes 4 ((List.range (n / 4)).map (fun i => Map.get (0, false) new i))
    let st := cutPieces data stage ++ cutPieces data dst ++ cutPieces (clean (leBytes 4 0)) e.2
    let pre := s.reachAll core m.tcid false (e.1 ++ rs ++ src)
    s.binplChunk core eng m = .land
      { prog := m.prog + n, last := m.prog / n = c.fld 4 16 16, stop := none, pois := bytes.any (fun b => b.2), arrive := s.arrivalsOf core c.ben st }
      (pre ++ (s.apply pre).writePieces w.role m.tcid st) := by
  intro c w n b at_ x hentry hlack hrs hsrc hdst hstage hfree
  obtain ⟨hbytes, hgate, hcut, hwait⟩ := hfree
  exact (chunkChecked_ok hentry).trans ((State.fetched_here hlack).trans ((chunkChecked_ok hrs).trans ((chunkChecked_ok hsrc).trans
    ((chunkChecked_ok hdst).trans ((chunkChecked_ok hstage).trans ((State.clearTo_free hgate hcut hwait).trans (State.fetched_here hbytes)))))))

/-- BINAP and BINPL, each by what its chunk writes. -/
theorem binning_binsMoved : binsMoved := by
  intro s c core eng m hc
  obtain rfl := State.command_of_commandOf hc
  intro w total hi
  refine ⟨fun src hsrc hlack => ⟨fun e ps hone hstart hlen hbushel hentry hhere hroom hplace hown hfree => ?one,
    fun a happend hgoes hfree => ?many⟩, ?binpl⟩
  case one =>
    intro st pre
    have hrecords : chunksOf 8 (hi - m.prog) (s.fetchFrom m.asks s.free src) = [s.fetchFrom m.asks s.free src] := by
      rw [show hi - m.prog = 7 + 1 by simp [hi, total, hone, hstart]]
      exact chunksOf_whole hlen (by decide)
    have hland := State.binapChunk_lands hsrc (by rw [hrecords]; exact State.appendRecords_one hbushel hentry hhere hroom hplace hown) (.inl rfl) hfree
    refine commandTurn_lands (x := State.binapChunk) hc (hland.trans ?_)
    simp [hone, hstart, List.take_of_length_le (Nat.le_of_eq hlen), st, pre, w]
  case many => exact commandTurn_lands (x := State.binapChunk) hc (State.binapChunk_lands hsrc happend hgoes hfree)
  case binpl =>
    intro n b at_ e rs src dst stage hentry hlack x hrs hsrc hdst hstage hfree
    exact commandTurn_lands (x := State.binplChunk) hc (State.binplChunk_lands hentry hlack hrs hsrc hdst hstage hfree)

/-- LNCH reads its packet and list, and sends the child launch with them (spec 09 R219, 16 R385). -/
theorem lnch_launchSent : launchSent := by
  intro s c core eng m hc hsent
  obtain rfl := State.command_of_commandOf hc
  intro w n p q hp hq hfree bytes words b
  obtain ⟨hlack, hgate, hcut, hwait⟩ := hfree
  have hunsent : ¬ m.sent = true := by simp [hsent]
  exact commandTurn_lands (x := State.lnchChunk) hc ((if_neg hunsent).trans ((chunkChecked_ok hp).trans ((chunkChecked_ok hq).trans
    ((State.clearTo_free hgate hcut hwait).trans (State.fetched_here hlack)))))

end Sys2Proof.Machine
end

section
/-! SUPPORT. Collectives within this package (spec 09 R218, 05 R108): how they begin, how sources join, how destinations are written and how
members end. -/

namespace Sys2Proof.Machine

variable {s : State} {core : Nat} {m : Cmd}

/-- A group all of whose entries are of this package has no other. -/
theorem State.otherPackages_eq_nil {tab : List Nat} (h : ∀ e ∈ tab, entryPkg e = s.pkgNum) : s.otherPackages tab = [] := by
  induction tab with
  | nil => rfl
  | cons e tab ih =>
    obtain ⟨he, htab⟩ := List.forall_mem_cons.1 h
    simpa only [State.otherPackages, List.foldl_cons, if_pos he] using ih htab

/-- A part that answers for every item of a list answers for the list. -/
theorem mapM_eq_some {α β : Type} {f : α → Option β} {l : List α} {ls : List β} (h : l.map f = ls.map some) : l.mapM f = some ls := by
  induction l generalizing ls with
  | nil => rw [List.map_eq_nil_iff.1 h.symm]; rfl
  | cons x l ih =>
    cases ls with
    | nil => cases h
    | cons y ls =>
      rw [List.map_cons, List.map_cons, List.cons.injEq] at h
      obtain ⟨hx, hl⟩ := h
      rw [List.mapM_cons, hx, ih hl]
      rfl

theorem filterMap_id_map_some {α : Type} (l : List α) : (l.map some).filterMap id = l := by
  rw [List.filterMap_map]
  exact List.filterMap_some

/-! A collective begins. -/
section Begins

variable {ms : List Member} {tab : List Nat}

/-- The changes with which a collective of these members begins. -/
def begins (tab : List Nat) (ms : List Member) (dix : Option Nat) : Prog := fun t =>
  .nextId (t.nextId + 1) :: .collPeers (t.collPeers.filter (fun r => !(tab.map (fun _ => (none : Option PeerReq))).contains (some r)))
    :: .colls (t.colls ++ [{ id := t.nextId, tab := tab, coms := ms.map (fun x => x.cmd.c), cmds := ms.map (fun x => some x.cmd.id)
                             peers := tab.map (fun _ => none), joined := [], told := false, dix := dix }])
    :: ms.map (fun x => .engine (4 * x.core + 2) ((t.engine x.core 2).update x.cmd.id (fun d => { d with coll := some t.nextId })))

variable (hown : ∀ e ∈ tab, entryPkg e = s.pkgNum)
include hown

/-- No member of another package has announced anything. -/
theorem map_heard_eq (tcid gtab : Nat) :
    tab.map (fun e => if entryPkg e = s.pkgNum then none else s.heard 1 tcid gtab e) = tab.map (fun _ => none) :=
  List.map_congr_left (fun e he => if_pos (hown e he))

/-- A collective that does not sum needs no range. -/
theorem run_formColl_plain (hsums : collSums m.c = false) :
    s.run (formColl core m tab (ms.map (fun x => x.cmd.c)) (ms.map some)) = s.run (begins tab ms none) := by
  simp only [State.run, formColl, hsums, map_heard_eq hown, filterMap_id_map_some, Bool.false_eq_true, if_false, begins,
    List.map_map, Function.comp_def, Option.map_some]

/-- One that sums reserves a free range at its root and zeroes it. -/
theorem run_formColl_sums {r : Member} {dix : Nat} (hsums : collSums m.c = true) (hr : ms[collRoot m.c]? = some r)
    (hclear : s.rangeMeets r.core (r.cmd.c.fld 5 0 15) (m.c.fld 3 0 32) = none) (hfree : s.freeRange r.core = some dix) :
    let first := r.cmd.c.fld 5 0 15
    s.run (formColl core m tab (ms.map (fun x => x.cmd.c)) (ms.map some)) = (s.apply
      [s.reserve r.core dix first (m.c.fld 3 0 32) (m.c.fld 3 0 32 * tab.length) (BitVec.ofNat 9 (m.c.fld 5 15 9)) (s.ridOfCmd r.cmd) m.tcid,
       .amClear (32768 * r.core + first) (32768 * r.core + first + m.c.fld 3 0 32)]).run (begins tab ms (some dix)) := by
  have hroot : (ms.map some).getD (collRoot m.c) none = some r := by
    rw [List.getD_eq_getElem?_getD, List.getElem?_map, hr]; rfl
  simp only [State.run, formColl, hsums, hroot, hclear, hfree, map_heard_eq hown, filterMap_id_map_some, if_true, Option.isSome_none,
    Bool.false_eq_true, if_false, State.apply_seq_cons, State.apply_seq_nil, begins, List.map_map, Function.comp_def, Option.map_some]

/-- Once every member has issued the collective and all agree, it begins (spec 09 R218). -/
theorem run_gatherTurn_forms {ps : List Piece} (hps : s.groupTable (s.engWho core 2 m.tcid) m.c = .ok ps) (hlack : s.lacking m.asks ps = [])
    (htab : s.entriesOf m ps = tab) (hok : ∀ e ∈ tab, entryOk e = true)
    (hnext : (s.collOf core m.tcid (m.c.fld 4 0 48)).map (fun d => d.id) = some m.id)
    (hms : tab.map (s.memberAt m.tcid (m.c.fld 4 0 48)) = ms.map some)
    (hgo : ∀ x ∈ ms, x.cmd.paused = false ∧ (s.engine x.core 2).frozen = false) (hme : ∃ x ∈ ms, x.core = core)
    (hagree : ∀ x ∈ ms.zipIdx, collAgrees m.c x.1.cmd.c = true ∧ x.1.cmd.c.fld 3 32 16 = x.2) :
    s.run (gatherTurn core m) = s.run (formColl core m tab (ms.map (fun x => x.cmd.c)) (ms.map some)) := by
  have hcoms : tab.mapM (s.rankCommand m.tcid (m.c.fld 4 0 48)) = some (ms.map (fun x => x.cmd.c)) := by
    refine mapM_eq_some ?_
    calc tab.map (s.rankCommand m.tcid (m.c.fld 4 0 48))
        = tab.map (Option.map (fun x => x.cmd.c) ∘ s.memberAt m.tcid (m.c.fld 4 0 48)) := List.map_congr_left (fun e he => if_pos (hown e he))
      _ = (tab.map (s.memberAt m.tcid (m.c.fld 4 0 48))).map (Option.map (fun x => x.cmd.c)) := List.map_map.symm
      _ = (ms.map (fun x => x.cmd.c)).map some := by rw [hms, List.map_map, List.map_map]; rfl
  have hok' : tab.all entryOk = true := List.all_eq_true.2 hok
  have hgo' : ms.any (fun x => x.cmd.paused || (s.engine x.core 2).frozen) = false := by
    simpa [List.any_eq_false] using hgo
  have hme' : ms.any (fun x => x.core = core) = true := by simpa using hme
  have hagree' : (ms.map (fun x => x.cmd.c)).zipIdx.all (fun x => collAgrees m.c x.1 && x.1.fld 3 32 16 = x.2) = true := by
    simpa [List.zipIdx_map] using hagree
  simp only [State.run, gatherTurn, hps, hlack, htab, hok', hnext, State.otherPackages_eq_nil hown, hcoms, hms, filterMap_id_map_some, hgo', hme',
    hagree']
  simp

end Begins

/-! A source joins (spec 09 R218). -/
section Joins

variable {x : Coll} {l : List (Byte × Bool)} {rank : Nat}

/-- The record of a collective in which a rank has joined. -/
def joinedBy (id rank : Nat) (l : List Coll) : List Coll := l.map (fun z => if z.id = id then { z with joined := Nats.add z.joined rank } else z)

/-- A source joins no range where nothing is summed. -/
theorem joinRank_plain (h : x.dix = none) : joinRank x m rank l s = [.colls (joinedBy x.id rank s.colls)] := by
  simp only [joinRank, h]
  rfl

/-- A source that is summed joins the root's range. -/
theorem joinRank_sums {d : Nat} (h : x.dix = some d) :
    let adds := s.addAll (entryCore (x.tab.getD (collRoot m.c) 0)) ((collWords m.c l).zipIdx.map (fun w =>
      (d, (x.coms.getD (collRoot m.c) m.c).fld 5 0 15 + w.2, w.1)))
    joinRank x m rank l s = adds ++ [.colls (joinedBy x.id rank (s.apply adds).colls)] := by
  simp only [joinRank, h, Prog.seq, Prog.andThen, List.append_nil]
  rfl

/-- The source of a member of this package is read and joins. -/
theorem run_joinTurn_source {y : Member} {ps : List Piece} (hpeer : x.peers.getD rank none = none) (hy : s.rankCmd x rank = some y)
    (hlive : y.cmd.finished = false) (hps : s.sourceOf y.core m.tcid y.cmd.c 0 (collLens m.c rank).1 = .ok ps)
    (hfree : chunkFree s y.core y.cmd ps ps) :
    let bytes := s.fetchFrom y.cmd.asks s.free ps
    let pre := s.reachAll y.core m.tcid false ps
    s.run (joinTurn core x m rank) = chunkTurn s y.core 2 y.cmd
      { prog := 0, last := false, stop := none, pois := collSums m.c && bytes.any (fun b => b.2), arrive := [] }
      (pre ++ joinRank x m rank (if collSums m.c then bytes else []) (s.apply pre)) := by
  intro bytes pre
  obtain ⟨hlack, hgate, hcut, hwait⟩ := hfree
  simp only [State.run, joinTurn, hpeer, hy, hlive, hps, State.clearTo_free hgate hcut hwait, State.fetched_here hlack, Bool.false_eq_true, if_false]
  exact run_settleChunk_land

end Joins

/-! A member's destination is written, and the member ends (spec 05 R108, 09 R218). -/
section Ends

variable {x : Coll} {rank : Nat}

/-- The next chunk of a member's destination lands. -/
theorem State.collChunk_lands {dst src : List Piece} {sums : List (Byte × Bool)} (hdix : collSums m.c = true → x.dix.isSome = true) :
    let c := m.c
    let total := (collLens c rank).2
    let hi := Nat.min total (m.prog + 65536)
    let parts := if collSums c then [] else collParts c x.tab.length rank m.prog hi
    s.checkAccess (s.engWho core 2 m.tcid) .write ((c.fld 2 0 48 + m.prog : Nat) : Int) (hi - m.prog) = .ok dst →
    s.partPieces x m parts = .ok src → chunkFree s core m src (src ++ dst) →
    let data := if collSums c then s.sumBytes x c m.prog hi else partBytes x parts (s.fetchFrom m.asks s.free src)
    let st := cutPieces data dst
    let pre := s.reachAll core m.tcid false src
    s.collChunk core x m rank sums = .land
      { prog := hi, last := false, stop := none, pois := data.any (fun b => b.2), arrive := s.arrivalsOf core c.ben st }
      (pre ++ (s.apply pre).writePieces (s.engineRole core 2) m.tcid st) := by
  intro c total hi parts hdst hsrc hfree data st pre
  obtain ⟨hlack, hgate, hcut, hwait⟩ := hfree
  refine (chunkChecked_ok hdst).trans ((chunkChecked_ok hsrc).trans ((State.clearTo_free hgate hcut hwait).trans ((State.fetched_here hlack).trans ?_)))
  have hdata : (if collSums m.c then
        (if x.dix.isSome then s.sumBytes x m.c m.prog hi else (sums.drop m.prog).take (hi - m.prog))
      else partBytes x parts (s.fetchFrom m.asks s.free src)) = data := by
    by_cases hsums : collSums m.c = true
    · simp only [data, c, if_pos hsums, if_pos (hdix hsums)]
    · simp only [data, c, if_neg hsums]
  exact congrArg (fun d => Chunk.land
    { prog := hi, last := false, stop := none, pois := d.any (fun b => b.2), arrive := s.arrivalsOf core c.ben (cutPieces d dst) }
    (pre ++ (s.apply pre).writePieces (s.engineRole core 2) m.tcid (cutPieces d dst))) hdata

/-- A group of this package alone is told nothing. -/
theorem run_tellGroup_own {tcid gtab kind : Nat} {tab : List Nat} {data : List Byte} (h : ∀ e ∈ tab, entryPkg e = s.pkgNum) :
    s.run (tellGroup core tcid gtab kind rank tab data) = s := by
  simp [State.run, tellGroup, State.otherPackages_eq_nil h]

/-- A member that has received everything ends once all have, the root once no other is left. -/
theorem run_finishTurn_ends (hown : ∀ e ∈ x.tab, entryPkg e = s.pkgNum) (hroot : collRoot m.c < x.tab.length)
    (hthrough : ∀ y ∈ s.liveMembers x, y.1.cmd.landing = none ∧ (collLens m.c y.2).2 ≤ y.1.cmd.prog) :
    let others := (s.liveMembers x).filter (fun y => y.2 ≠ rank)
    (rank = collRoot m.c → others = [] ∧ ∀ r < x.tab.length, r ≠ rank → s.rankCmd x r = none) →
    let t := commandPut s core 2 m.id (fun d => { d.doneOk (s.engineRole core 2) with coll := none })
    s.run (finishTurn core x m rank) = if others = [] then t.run (endColl x m) else t := by
  intro others hlast t
  refine (congrArg s.apply (if_neg ?may)).trans ?ends
  case may =>
    have hall : (s.liveMembers x).all (fun y => y.1.cmd.landing.isNone && decide ((collLens m.c y.2).2 ≤ y.1.cmd.prog)) = true := by
      simpa [List.all_eq_true] using hthrough
    rw [hall, Bool.not_true, Bool.false_or, Bool.and_eq_true, decide_eq_true_eq, Bool.not_eq_true']
    rintro ⟨hrank, hwaits⟩
    obtain ⟨hothers, hgone⟩ := hlast hrank
    refine Bool.eq_false_iff.1 hwaits ?_
    simp only [Bool.and_eq_true, List.all_eq_true, List.mem_range, Bool.or_eq_true, decide_eq_true_eq, Option.isNone_iff_eq_none]
    exact ⟨⟨List.isEmpty_iff.2 hothers, fun e he => .inl (hown e he)⟩, fun r hr => or_iff_not_imp_left.2 (hgone r hr)⟩
  case ends =>
    have htell : ∀ e ∈ [x.tab.getD (collRoot m.c) 0], entryPkg e = t.pkgNum := by
      rw [List.forall_mem_singleton, List.getD_eq_getElem _ _ hroot]
      exact hown _ (List.getElem_mem hroot)
    rw [State.apply_seq_cons, State.apply_update]
    change t.run (Prog.seq [tellGroup core m.tcid (m.c.fld 4 0 48) 3 rank [x.tab.getD (collRoot m.c) 0] [],
      if others.isEmpty then endColl x m else Prog.skip]) = _
    rw [State.run_seq_cons, run_tellGroup_own htell, State.run_seq_cons, State.run_seq_nil]
    by_cases hothers : others = []
    · rw [if_pos hothers, if_pos (List.isEmpty_iff.2 hothers)]
    · rw [if_neg hothers, if_neg (mt List.isEmpty_iff.1 hothers), State.run_skip]

end Ends

/-! A turn of a collective that is under way in this package. -/
section Steps

variable {x : Coll} (hown : ∀ e ∈ x.tab, entryPkg e = s.pkgNum ∧ s.heard 2 m.tcid (m.c.fld 4 0 48) e = none)
  (hgo : ∀ y ∈ s.liveMembers x, y.1.cmd.paused = false ∧ (s.engine y.1.core 2).frozen = false ∧ y.1.cmd.landing = none)
include hown hgo

/-- No member is held back, and none of another package has been heard of. -/
theorem members_go :
    (s.liveMembers x).any (fun y => y.1.cmd.paused || (s.engine y.1.core 2).frozen || y.1.cmd.landing.isSome) = false
    ∧ x.tab.filterMap (s.heard 2 m.tcid (m.c.fld 4 0 48)) = [] ∧ s.otherPackages x.tab = [] :=
  ⟨by simpa [List.any_eq_false, and_assoc] using hgo, List.filterMap_eq_nil_iff.2 (fun e he => (hown e he).2),
    State.otherPackages_eq_nil (fun e he => (hown e he).1)⟩

/-- A rank that has not joined is next. -/
theorem run_collStep_joins {r : Nat} (hr : (List.range x.tab.length).find? (fun r => !x.joined.contains r) = some r) :
    s.run (collStep core x m) = s.run (joinTurn core x m r) := by
  obtain ⟨hquiet, hheard, halone⟩ := members_go hown hgo
  simp only [State.run, collStep, hquiet, hheard, halone, hr, List.any_nil, List.head?_nil, Option.any_none, Bool.false_eq_true, if_false]

/-- Once all have joined, the member whose turn it is writes its next chunk, or may end if it has received everything. -/
theorem run_collStep_joined (hall : ∀ r < x.tab.length, r ∈ x.joined) (hdix : collSums m.c = true → x.dix.isSome = true) :
    let rank := m.c.fld 3 32 16
    s.run (collStep core x m) = if m.prog < (collLens m.c rank).2 then s.run (settleChunk core 2 m (s.collChunk core x m rank []))
      else s.run (finishTurn core x m rank) := by
  intro rank
  obtain ⟨hquiet, hheard, halone⟩ := members_go hown hgo
  have hnone : (List.range x.tab.length).find? (fun r => !x.joined.contains r) = none := by simpa [List.find?_eq_none] using hall
  have hready : (collSums m.c && x.dix.isNone) = false := by
    cases hsums : collSums m.c
    · rfl
    · simpa using hdix hsums
  simp only [State.run, collStep, hquiet, hheard, halone, hnone, hready, List.any_nil, List.head?_nil, Option.any_none, Bool.false_and,
    List.isEmpty_nil, Bool.not_true, Bool.and_false, Bool.false_eq_true, if_false]
  exact apply_ite s.apply _ _ _

end Steps

/-- A turn of a collective command is what its instruction does. -/
theorem exec_collective {c : Command} {t : State} (hc : s.commandOf c = some (core, 2, m)) (hgroup : m.c.fld 4 0 48 ≠ 0)
    (ht : s.run (collectiveTurn core m) = t) :
    (c.op = 0x20 → exec (.cred c) s = .next t) ∧ (c.op = 0x21 → exec (.card c) s = .next t)
      ∧ (c.op = 0x22 → exec (.caga c) s = .next t) ∧ (c.op = 0x23 → exec (.cbcs c) s = .next t) := by
  have hturn : complete (commandTurn c (fun core _ m => collectiveTurn core m)) s = .next t :=
    (commandTurn_found hc).trans (congrArg Host.Outcome.next ht)
  have hadvance : advance core 2 m s = collectiveTurn core m s := if_pos ⟨rfl, hgroup⟩
  refine ⟨fun _ => hturn, fun _ => hturn, fun _ => hturn, fun _ => (commandTurn_found hc).trans (congrArg Host.Outcome.next ?_)⟩
  rw [← ht, State.run, State.run, hadvance]

/-- CRED, CARD, CAGA and the group form of CBCS: a collective begins, its sources join, destinations are written, members end. -/
theorem collectives_done : collectivesDone := by
  intro s c core eng m hc heng hgroup gtab sums made
  subst heng
  obtain rfl := State.command_of_commandOf hc
  refine ⟨?begins, ?goes⟩
  case begins =>
    intro ps ms dix hnone hps hlack tab hentries hnext hms hgo hme hagree begun
    have hgather : s.run (collectiveTurn core m) = s.run (gatherTurn core m) := by
      simp only [State.run, collectiveTurn, hnone]
    have hown : ∀ e ∈ tab, entryPkg e = s.pkgNum := fun e he => (hentries e he).2
    have hforms := run_gatherTurn_forms hown hps hlack rfl (fun e he => (hentries e he).1) hnext hms hgo hme hagree
    refine ⟨fun hsums => ?plain, fun r hsums hr hclear hfree => ?sums⟩
    case plain => exact exec_collective hc hgroup (hgather.trans (hforms.trans (run_formColl_plain hown hsums)))
    case sums => exact exec_collective hc hgroup (hgather.trans (hforms.trans (run_formColl_sums hown hsums hr hclear hfree)))
  case goes =>
    intro i x hi hx hown hgo rank root
    have hstep : s.run (collectiveTurn core m) = s.run (collStep core x m) := by
      simp only [State.run, collectiveTurn, hi, hx]
    refine ⟨fun r y ps hr hpeer hy hlive hps hfree => ?joins, fun hall hdix => ⟨fun dst src hmore => ?writes, fun hroot hdone hthrough => ?ends⟩⟩
    case joins =>
      intro bytes pre first adds
      refine exec_collective hc hgroup (hstep.trans ((run_collStep_joins hown hgo hr).trans
        ((run_joinTurn_source hpeer hy hlive hps hfree).trans (congrArg (fun l => chunkTurn s y.core 2 y.cmd _ (pre ++ l)) ?_))))
      cases hdix : x.dix with
      | none =>
        have hadds : adds = [] := by simp only [adds, hdix]
        rw [hadds]
        exact joinRank_plain hdix
      | some d =>
        have hadds : adds = (s.apply pre).addAll root ((collWords m.c (if sums then bytes else [])).zipIdx.map (fun w =>
            (d, first + w.2, w.1))) := by simp only [adds, hdix]
        rw [hadds]
        exact joinRank_sums hdix
    case writes =>
      intro total hi parts hdst hsrc hfree data st pre
      refine exec_collective hc hgroup (hstep.trans ((run_collStep_joined hown hgo hall hdix).trans ((if_pos hmore).trans ?_)))
      rw [State.collChunk_lands hdix hdst hsrc hfree]
      exact run_settleChunk_land
    case ends =>
      intro others hlast t
      refine exec_collective hc hgroup (hstep.trans ((run_collStep_joined hown hgo hall hdix).trans ((if_neg (Nat.not_lt.2 hdone)).trans ?_)))
      exact run_finishTurn_ends (fun e he => (hown e he).1) hroot (fun y hy => ⟨(hgo y hy).2.2, hthrough y hy⟩) hlast

/-- Settles O33: the copy family, COPYV, the binning engine, LNCH and the collectives, each by what its chunk or its turn does. The
model's readings stand in it: a chunk is one instant (log 5), BINPL writes its staging area once (log 66), scale bytes mark no line (log 51). -/
theorem commandsComplete : Obligations.CommandsComplete :=
  ⟨copyFamily_bytesMoved, copyv_bytesConverted, binning_binsMoved, lnch_launchSent, collectives_done⟩

end Sys2Proof.Machine
end

section
/-! SUPPORT. Packets on the move (spec 06 R125, R135, 09 R199, 12 R279 to R281): what an input makes of an arrival, what a link does with
the packet that leaves it, and what the local port, the pickers and the return buffer pass on. -/

namespace Sys2Proof.Machine

variable {s : State} {key out k q : Nat} {p : Packet} {byp : Bool}

/-- The state with an element that has moved in this cycle. -/
def State.putMoved (s : State) (k : Nat) (e : Elem) : State :=
  { s with elems := Map.set Elem.reset s.elems k e, moved := Nats.add s.moved k }

/-! Arrivals at an input and the link that carries them there (spec 06 R125, R135). -/
section Links

/-- A packet that is no wave and goes to no output enters the input queue, and is new in one that was empty (spec 06 R125). -/
theorem State.arrive_queue (hbyp : rtBypass (s.routing k (s.elem k).ctx.toNat) q = false)
    (houts : outputsFrom (s.routing k (s.elem k).ctx.toNat) q = []) (hwave : p.isWave = false) (hbad : p.bad = false)
    (hroom : ((s.elem k).queue q).length < 4) :
    s.arrive k q p = some ([.elem k ((s.elem k).setQueue q ((s.elem k).queue q ++ [p])), .move k]
      ++ if (s.elem k).queue q = [] then [.fresh (8 * k + q)] else []) := by
  simp [State.arrive, hbyp, houts, hwave, hbad, hroom]

/-- A queued packet is new in a queue that was empty. -/
theorem State.apply_queued (s : State) (k q : Nat) (e : Elem) :
    s.apply ([.elem k e, .move k] ++ if (s.elem k).queue q = [] then [.fresh (8 * k + q)] else [])
      = { s.putMoved k e with fresh := if (s.elem k).queue q = [] then Nats.add s.fresh (8 * k + q) else s.fresh } := by
  by_cases hempty : (s.elem k).queue q = []
  · simp only [if_pos hempty]; rfl
  · simp only [if_neg hempty]; rfl

/-- A bypassed packet enters the bypass register of the output that its input feeds (spec 06 R135). -/
theorem State.arrive_bypass {o : Nat} {l : List Nat} (hbyp : rtBypass (s.routing k (s.elem k).ctx.toNat) q = true)
    (houts : outputsFrom (s.routing k (s.elem k).ctx.toNat) q = o :: l) (hfree : (s.elem k).byp o = none) :
    s.arrive k q p = some [.elem k ((s.elem k).setByp o (some p)), .move k] := by
  simp [State.arrive, hbyp, houts, hfree]

/-- What a link that carries a packet does to its sender: the register is empty, and the link has moved its packet of this cycle. -/
def State.linkGone (s : State) (key out : Nat) (byp : Bool) : List Effect :=
  [.elem key (if byp then (s.elem key).setByp out none else (s.elem key).setOut out none), .move key, .fresh (linkMark key out)]

/-- The sender after a link has carried its packet. -/
def State.linkSent (s : State) (key out : Nat) (byp : Bool) : State :=
  { s.putMoved key (if byp then (s.elem key).setByp out none else (s.elem key).setOut out none) with
    fresh := Nats.add s.fresh (linkMark key out) }

theorem State.apply_linkGone (s : State) (key out : Nat) (byp : Bool) : s.apply (s.linkGone key out byp) = s.linkSent key out byp := rfl

variable {fuel : Nat} {l m : List Effect}

/-- A packet whose input takes it moves. -/
theorem transferLink_arrives (hmark : s.fresh.contains (linkMark key out) = false) (hleaves : s.leaving key out = some (p, byp))
    (hend : linkEnd key out = some (k, q)) (harrives : (s.linkSent key out byp).arrive k q p = some l) :
    transferLink (fuel + 1) key out s = some (s.linkGone key out byp ++ l) := by
  rw [← State.apply_linkGone] at harrives
  simp only [State.linkGone] at harrives ⊢
  simp only [transferLink, hmark, hleaves, hend, harrives, Bool.false_eq_true, if_false]

/-- A packet that one register holds up moves behind that register's packet (spec 06 R135). -/
theorem transferLink_behind {o : Nat} (hmark : s.fresh.contains (linkMark key out) = false) (hleaves : s.leaving key out = some (p, byp))
    (hend : linkEnd key out = some (k, q)) (hstalls : (s.linkSent key out byp).arrive k q p = none)
    (hway : (s.linkSent key out byp).inTheWay k q = [o])
    (hfirst : transferLink fuel k o (s.linkSent key out byp) = some l)
    (harrives : ((s.linkSent key out byp).apply l).arrive k q p = some m) :
    transferLink (fuel + 1) key out s = some (s.linkGone key out byp ++ l ++ m) := by
  rw [← State.apply_linkGone] at hstalls hway hfirst harrives
  simp only [State.linkGone] at hstalls hway hfirst harrives ⊢
  simp only [transferLink, hmark, hleaves, hend, hstalls, hway, hfirst, harrives, List.foldl_cons, List.foldl_nil, List.nil_append,
    Bool.false_eq_true, if_false]

/-- A link transfer makes the changes of its link. -/
theorem execLinkTransfer_moves (h : transferLink 128 key out s = some l) : execLinkTransfer key out s = .next (s.apply l) := by
  simp only [execLinkTransfer, complete_eq, State.run, h, Option.getD_some]

/-- LINK_TRANSFER to an input that takes the packet. -/
theorem execLinkTransfer_arrives (hmark : s.fresh.contains (linkMark key out) = false) (hleaves : s.leaving key out = some (p, byp))
    (hend : linkEnd key out = some (k, q)) (harrives : (s.linkSent key out byp).arrive k q p = some l) :
    execLinkTransfer key out s = .next ((s.linkSent key out byp).apply l) := by
  rw [execLinkTransfer_moves (transferLink_arrives hmark hleaves hend harrives), State.apply_append, State.apply_linkGone]

/-- LINK_TRANSFER behind the packet of the one register in the way. -/
theorem execLinkTransfer_behind {o : Nat} (hmark : s.fresh.contains (linkMark key out) = false) (hleaves : s.leaving key out = some (p, byp))
    (hend : linkEnd key out = some (k, q)) (hstalls : (s.linkSent key out byp).arrive k q p = none)
    (hway : (s.linkSent key out byp).inTheWay k q = [o])
    (hfirst : transferLink 127 k o (s.linkSent key out byp) = some l)
    (harrives : ((s.linkSent key out byp).apply l).arrive k q p = some m) :
    execLinkTransfer key out s = .next (((s.linkSent key out byp).apply l).apply m) := by
  rw [execLinkTransfer_moves (transferLink_behind hmark hleaves hend hstalls hway hfirst harrives), State.apply_append, State.apply_append, State.apply_linkGone]

end Links

/-! The local port and the pickers (spec 12 R279 to R281). -/
section LocalPort

variable {core n : Nat} {x : PortPkt} {rest : List PortPkt}

/-- A port with room accepts the packet of an oy register; a wave it discards (spec 12 R279, 06 R137). -/
theorem execLocalPortAccept_accepts (hout : (s.elem key).out 5 = some p) (hroom : (Map.get [] s.lport (coreOf key)).length < 16) :
    execLocalPortAccept key s = .next { s with
      elems := Map.set Elem.reset s.elems key { (s.elem key).setOut 5 none with oyDest := .nowhere }
      moved := Nats.add s.moved key
      portLast := Map.set 127 s.portLast (coreOf key) (elemIx key)
      lport := if p.isWave then s.lport
        else Map.set [] s.lport (coreOf key) (Map.get [] s.lport (coreOf key) ++ [{ src := key, dest := (s.elem key).oyDest, pkt := p }]) } := by
  have hnot : ¬ 16 ≤ (Map.get [] s.lport (coreOf key)).length := Nat.not_le.2 hroom
  simp only [execLocalPortAccept, complete_eq, State.run, hout, if_neg hnot]
  cases hwave : p.isWave <;> simp

/-- The changes with which the packet at the head of a port leaves it, by its destination. -/
def State.portSends (s : State) (core : Nat) (x : PortPkt) : List Effect :=
  match x.dest with
  | .label n => [.taskNet (s.taskNet ++ [.data core n x.src x.pkt])]
  | .remote c n => [.taskNet (s.taskNet ++ [.data c n x.src x.pkt])]
  | .const c i r commit => [.cfgNet (s.cfgNet ++ [{ core := c, elem := i, reg := r, pkt := x.pkt, commit := commit, src := x.src }])]
  | .elem _ => []
  | .nowhere => []

/-- A packet that a network takes, or that goes nowhere, leaves the port at once. -/
theorem execLocalPortDeliver_sends (hhead : Map.get [] s.lport core = x :: rest) (hdest : ∀ i, x.dest ≠ .elem i) :
    execLocalPortDeliver core s = .next (State.apply { s with lport := Map.set [] s.lport core rest } (s.portSends core x)) := by
  simp only [execLocalPortDeliver, complete_eq, State.run, hhead, State.portSends]
  cases hx : x.dest with
  | elem i => exact absurd hx (hdest i)
  | label n => rfl
  | remote c n => rfl
  | const c i r commit => rfl
  | nowhere => rfl

/-- A packet for an element of the core enters that element's qy, if no earlier task packet of its sender is still on its way there. -/
theorem execLocalPortDeliver_element {i : Nat} {l : List Effect} (hhead : Map.get [] s.lport core = x :: rest) (hdest : x.dest = .elem i)
    (hfirst : (s.taskNet ++ Map.get [] s.taskWait core).any (s.taskFor core i x.src) = false)
    (htaken : s.toQy (ekey core i) x.pkt = some l) :
    execLocalPortDeliver core s = .next (State.apply { s with lport := Map.set [] s.lport core rest } l) := by
  simp only [execLocalPortDeliver, complete_eq, State.run, hhead, hdest, hfirst, htaken, Bool.false_eq_true, if_false,
    State.apply_cons, State.perform_lport]

theorem bits_low (x n : Nat) : bits x 0 n = x % 2 ^ n := by
  rw [bits, pow_zero, Nat.div_one]

/-- A waiting packet, the first of its label, goes through a valid binding to the element whose picker chooses the label (spec 12 R280). -/
theorem execTaskDeliver_bound {label src elem : Nat} {m : List Effect} (hhead : (Map.get [] s.taskWait core)[n]? = some (.data core label src p))
    (hfirst : ∀ u ∈ (Map.get [] s.taskWait core).take n, u.lane ≠ (0, label))
    (hvalid : bits (s.bindingOf core label).toNat 31 1 = 1) (helem : bits (s.bindingOf core label).toNat 0 7 = elem)
    (hpick : s.pickLabel core elem = some label) (htaken : s.toQy (ekey core elem) (p.bound (s.bindingOf core label).toNat) = some m) :
    execTaskDeliver core n s = .next (State.apply { s with
      taskWait := Map.set [] s.taskWait core (listDrop (Map.get [] s.taskWait core) n)
      pickLast := Map.set 127 s.pickLast (ekey core elem) label } m) := by
  have hany : ((Map.get [] s.taskWait core).take n).any (fun u => u.lane = (Task.data core label src p).lane) = false :=
    List.any_eq_false.2 (fun u hu => mt of_decide_eq_true (hfirst u hu))
  simp only [execTaskDeliver, complete_eq, State.run, hhead, hany, hvalid, helem, hpick, htaken, Bool.false_eq_true, if_false, one_ne_zero,
    ne_eq, not_true, State.apply_cons, State.perform_taskWait, State.perform_pickLast]

end LocalPort

/-! The return buffer (spec 09 R199). -/
section ReturnBuffer

/-- The outputs of a return-buffer entry's mask. -/
def RetEntry.outs (r : RetEntry) : List Nat := (List.range 6).filter (fun o => r.mask.getLsbD o)

/-- A filled head entry whose outputs have space moves to them; for oy its destination goes along. -/
theorem execReturnBufferDrain_drains {r : RetEntry} {rest : List RetEntry} (hhead : (s.elem key).ret = r :: rest) (hfull : r.need = 0)
    (hfree : ∀ o ∈ r.outs, (s.elem key).out o = none)
    (hport : r.mask.getLsbD 5 = true → (Map.get [] s.lport (coreOf key)).length < 16) :
    let e := r.outs.foldl (fun e o => e.setOut o (some r.pkt)) { s.elem key with ret := rest }
    execReturnBufferDrain key s = .next { s with
      elems := Map.set Elem.reset s.elems key (if r.mask.getLsbD 5 then { e with oyDest := r.dest } else e), moved := Nats.add s.moved key } := by
  have hall : r.outs.all (fun o => ((s.elem key).out o).isNone) = true := by simpa [List.all_eq_true] using hfree
  have hroom : (r.mask.getLsbD 5 && decide (16 ≤ (Map.get [] s.lport (coreOf key)).length)) = false := by
    simpa using hport
  simp only [RetEntry.outs] at hall ⊢
  simp only [execReturnBufferDrain, complete_eq, State.run, hhead, hfull, hall, hroom, ne_eq, not_true, decide_false, Bool.not_true,
    Bool.or_self, Bool.false_eq_true, if_false, State.apply_cons, State.apply_nil, State.perform_elem, State.perform_move]

/-- Data on its way back reaches its return-buffer entry. -/
theorem execLoadDataReturn_fills {n : Nat} {r : Returned} (h : s.returned[n]? = some r) :
    execLoadDataReturn n s = .next { s with
      returned := listDrop s.returned n
      elems := Map.set Elem.reset s.elems r.key { s.elem r.key with
        ret := (s.elem r.key).ret.map (fun x =>
          if x.id = r.ret then { x with need := x.need - 1, pkt := if x.pkt.kind = kData then x.pkt.fill r.at_ r.data r.pois else x.pkt } else x) } } := by
  simp only [execLoadDataReturn, complete_eq, State.run, h, State.apply_cons, State.apply_nil, State.perform_elem, State.perform_returned]

end ReturnBuffer

/-- Settles O35: each event by the packet that it moves. The states that the statement builds are named first, so that the lemmas meet them by
name. An ERR token keeps its kind and tag through a binding (log 44). -/
theorem packetsMove : Obligations.PacketsMove := by
  intro s put
  have hput : put = State.putMoved := rfl
  clear_value put
  subst hput
  refine ⟨?link, fun key p => execLocalPortAccept_accepts, ?deliver, ?task, ?drain, fun n r => execLoadDataReturn_fills⟩
  case link =>
    intro key out p byp k q hmark hleaves hend e t
    have ht : t = s.linkSent key out byp := rfl
    clear_value t
    subst ht
    refine ⟨fun l => ?taken, fun hbyp houts hwave hbad hroom => ?queued, fun hbyp o l houts hfree => ?bypassed, fun o l m => ?behind⟩
    case taken => exact execLinkTransfer_arrives hmark hleaves hend
    case queued =>
      exact (execLinkTransfer_arrives hmark hleaves hend (State.arrive_queue hbyp houts hwave hbad hroom)).trans
        (congrArg Host.Outcome.next (State.apply_queued _ k q _))
    case bypassed => exact execLinkTransfer_arrives hmark hleaves hend (State.arrive_bypass hbyp houts hfree)
    case behind => exact execLinkTransfer_behind hmark hleaves hend
  case deliver =>
    intro core x rest hhead gone sent
    have hsends (hdest : ∀ i, x.dest ≠ .elem i) : exec (.localPortDeliver core) s = .next (gone.apply (s.portSends core x)) :=
      execLocalPortDeliver_sends hhead hdest
    refine ⟨fun n hx => ?label, fun c n hx => ?remote, fun c i r commit hx => ?const,
      fun i l hx => execLocalPortDeliver_element hhead hx, fun hx => ?nowhere⟩
    all_goals
      rw [hsends (by simp [hx]), State.portSends, hx]
      rfl
  case task => exact fun core n label src p m hhead hfirst hvalid => execTaskDeliver_bound hhead hfirst hvalid (bits_low _ 7)
  case drain => exact fun key r rest => execReturnBufferDrain_drains

end Sys2Proof.Machine
end

section
/-! SUPPORT. What an element's inputs take in (spec 06 R130 to R132, 13 R295, R296): headers that are latched, heads that the join unit
pairs, rows for the buffers of a matrix element. -/

namespace Sys2Proof.Machine

variable {s : State} {key : Nat} {p q : Packet}

/-- Only a wave closes (spec 06 R138). -/
theorem Packet.not_closing_of_kind (h : p.kind ≠ kWave) : p.closing = false := by
  simp [Packet.closing, Packet.isWave, h]

/-- A legal header at the head of a latching input enters the input's header register (spec 06 R130). -/
theorem execHeaderLatch_latches {i : Nat} {rest : List Packet} (hruns : (s.elem key).runs = true) (hi : i ≤ 5)
    (hhead : (s.elem key).queue i = p :: rest) (hkind : p.kind = kHdr) (hbad : p.bad = false)
    (hlatch : hdrHle (s.header key (s.elem key).ctx.toNat) = true) (hold : s.fresh.contains (8 * key + i) = false)
    (hlegal : headerBad (p.pay.extractLsb' 0 32) = false) :
    let e := (s.elem key).setQueue i rest
    execHeaderLatch key i s = .next { s with
      elems := Map.set Elem.reset s.elems key { e with
        hregs := Map.set HReg.neutral e.hregs i { pay := p.pay.extractLsb' 0 32, pois := p.pois.getLsbD 0 }
        me := if i = 3 then { e.me with sinceHdr := 0 } else e.me }
      moved := Nats.add s.moved key, fresh := Nats.add s.fresh (8 * key + i) } := by
  have hinput : decide (5 < i) = false := decide_eq_false (Nat.not_lt.2 hi)
  simp only [execHeaderLatch, complete_eq, State.run, hhead, hkind, hbad, hlatch, hruns, hold, hlegal, hinput, ne_eq, not_true, decide_false,
    Bool.not_true, Bool.or_self, Bool.false_eq_true, if_false, State.apply_cons, State.apply_nil, State.perform_elem, State.perform_fresh,
    State.perform_move]

/-! The join unit (spec 06 R132, R133). -/
section Join

/-- Heads that take part in the pairing are DATA with coordinates or EOS. -/
theorem Packet.pairs_iff : p.pairs = true ↔ (p.kind = kData ∧ p.crd = true) ∨ p.kind = kEos := by
  simp only [Packet.pairs, Bool.or_eq_true, Bool.and_eq_true, decide_eq_true_eq]

theorem Packet.not_closing_of_pairs (h : p.pairs = true) : p.closing = false := by
  refine Packet.not_closing_of_kind ?_
  rcases Packet.pairs_iff.1 h with ⟨hkind, -⟩ | hkind <;> rw [hkind] <;> decide

theorem joinToken_of_pairs {hle : Bool} (h : p.pairs = true) : joinToken hle p = none := by
  rcases Packet.pairs_iff.1 h with ⟨hkind, -⟩ | hkind <;> simp [joinToken, hkind, kData, kEos, kErr, kHdr]

theorem State.joinBad_of_pairs (h : p.pairs = true) : s.joinBad key p = none := by
  rcases Packet.pairs_iff.1 h with ⟨-, hcrd⟩ | hkind
  · simp [State.joinBad, hcrd]
  · simp [State.joinBad, hkind, kData, kEos]

/-- The entry that a DATA head supplies to side A, and to side B. -/
theorem Elem.sideA_data {e : Elem} (h : p.kind = kData) : e.side true p = some (p.jentry e.joinA) := if_pos h
theorem Elem.sideB_data {e : Elem} (h : p.kind = kData) : e.side false p = some (p.jentry e.joinB) := if_pos h

/-- The element after the join unit has met the entries that its heads supply, the packet of side A with this tag; and whether the open
packet is full or a head has ended. -/
def State.joinTaken (s : State) (key : Nat) (tag : BitVec 3) (a b : Option JEntry) : Elem × Bool :=
  let e := s.elem key
  let h := s.header key e.ctx.toNat
  let ch := joinChoice (hdrJm h = 2) a b
  let x := if ch.2.1 then e.consume true (hdrJa h) else (e, false)
  let y := if ch.2.2 then x.1.consume false (hdrJb h) else (x.1, false)
  let now : Option Joined := match ch.1 with
    | none => e.join
    | some (u, v) => some (match e.join with | none => Joined.first tag (e.hreg (hdrJa h)) (e.hreg (hdrJb h)) u v | some j => j.add u v)
  ({ y.1 with join := now }, (match now with | some j => decide (j.a.lanes = 8) | none => false) || x.2 || y.2)

/-- The changes of a step that has taken entries: the open packet is closed if it must be; without room for it nothing happens. -/
def State.joinLeaves (s : State) (key : Nat) (x : Elem × Bool) : List Effect :=
  if x.2 then (match x.1.closeJoin with | some e => s.joinMove key e | none => []) else s.joinMove key x.1

theorem State.joinLeaves_open {x : Elem × Bool} (h : x.2 = false) : s.joinLeaves key x = s.joinMove key x.1 := by
  simp only [State.joinLeaves, h, Bool.false_eq_true, if_false]

theorem State.joinLeaves_full {x : Elem × Bool} {e : Elem} (h : x.2 = true) (hclose : x.1.closeJoin = some e) :
    s.joinLeaves key x = s.joinMove key e := by
  simp only [State.joinLeaves, h, hclose, if_true]

/-- The changes of a step that leaves the element so with a token in qj: an open packet is closed first, and without room nothing happens. -/
def State.joinPush (s : State) (key : Nat) (pushed : Elem) : List Effect :=
  match (s.elem key).join with
  | some _ => (match (s.elem key).closeJoin with | some e => s.joinMove key e | none => [])
  | none => if (s.elem key).qj.length < 4 then s.joinMove key pushed else []

theorem State.joinPush_room {e : Elem} (hjoin : (s.elem key).join = none) (hroom : (s.elem key).qj.length < 4) :
    s.joinPush key e = s.joinMove key e := by
  simp only [State.joinPush, hjoin, if_pos hroom]

/-- The element after two EOS have become one token in qj. -/
def State.joinEnded (s : State) (key : Nat) (p q : Packet) : Elem :=
  let e := s.elem key
  let h := s.header key e.ctx.toNat
  let t := if p.tag = q.tag then p else errToken key e.ctx.toNat 6 1 0x20 (q.tag.toNat * 16 + p.tag.toNat) p.tag
  (Elem.pop { e with qj := e.qj ++ [Joined.token t (e.hreg (hdrJa h)) (e.hreg (hdrJb h))] } (hdrJa h)).pop (hdrJb h)

/-- JOIN_STEP on two heads that take part in the pairing. -/
theorem execJoinStep_pairs (hruns : (s.elem key).runs = true) :
    let e := s.elem key
    let h := s.header key e.ctx.toNat
    (hdrJm h = 1 ∨ hdrJm h = 2) → s.joinHead key (hdrJa h) = some p → s.joinHead key (hdrJb h) = some q → p.pairs = true → q.pairs = true →
    execJoinStep key s = .next (s.apply (if p.kind = kEos ∧ q.kind = kEos then s.joinPush key (s.joinEnded key p q)
      else s.joinLeaves key (s.joinTaken key p.tag (e.side true p) (e.side false q)))) := by
  intro e h hmode ha hb hp hq
  have hjoins : ¬ (decide (hdrJm h ≠ 1 ∧ hdrJm h ≠ 2) || !e.runs) = true := by
    rcases hmode with hm | hm <;> simp [hm, e, hruns]
  simp only [h, e] at ha hb hjoins
  simp only [execJoinStep, complete_eq, State.run, if_neg hjoins, ha, hb, Option.bind_some, Packet.not_closing_of_pairs hp,
    Packet.not_closing_of_pairs hq, joinToken_of_pairs hp, joinToken_of_pairs hq, State.joinBad_of_pairs hp, State.joinBad_of_pairs hq, hp, hq,
    Bool.not_true, Bool.or_self, Bool.false_eq_true, if_false]
  rfl

/-- Entries of two DATA heads go to the open packet, which is closed once it is full or a head has ended (spec 06 R132). -/
theorem execJoinStep_data (hruns : (s.elem key).runs = true) :
    let e := s.elem key
    let h := s.header key e.ctx.toNat
    let taken := s.joinTaken key p.tag (some (p.jentry e.joinA)) (some (q.jentry e.joinB))
    (hdrJm h = 1 ∨ hdrJm h = 2) → s.joinHead key (hdrJa h) = some p → s.joinHead key (hdrJb h) = some q →
    p.kind = kData → q.kind = kData → p.crd = true → q.crd = true →
    (taken.2 = false → execJoinStep key s = .next (s.apply (s.joinMove key taken.1)))
    ∧ (taken.2 = true → ∀ e2, taken.1.closeJoin = some e2 → execJoinStep key s = .next (s.apply (s.joinMove key e2))) := by
  intro e h taken hmode ha hb hp hq hpc hqc
  have hstep := execJoinStep_pairs hruns hmode ha hb (Packet.pairs_iff.2 (.inl ⟨hp, hpc⟩)) (Packet.pairs_iff.2 (.inl ⟨hq, hqc⟩))
  have hdata : ¬ (p.kind = kEos ∧ q.kind = kEos) := by simp [hp, kData, kEos]
  rw [if_neg hdata, Elem.sideA_data hp, Elem.sideB_data hq] at hstep
  refine ⟨fun hopen => ?_, fun hfull e2 hclose => ?_⟩
  · rw [hstep, State.joinLeaves_open hopen]
  · rw [hstep, State.joinLeaves_full hfull hclose]

/-- Two EOS with no packet open go to qj as one token: an ERR token if their tags differ (spec 06 R132). -/
theorem execJoinStep_eos (hruns : (s.elem key).runs = true) :
    let e := s.elem key
    let h := s.header key e.ctx.toNat
    (hdrJm h = 1 ∨ hdrJm h = 2) → s.joinHead key (hdrJa h) = some p → s.joinHead key (hdrJb h) = some q →
    p.kind = kEos → q.kind = kEos → e.join = none → e.qj.length < 4 →
    execJoinStep key s = .next (s.apply (s.joinMove key (s.joinEnded key p q))) := by
  intro e h hmode ha hb hp hq hjoin hroom
  have hstep := execJoinStep_pairs hruns hmode ha hb (Packet.pairs_iff.2 (.inr hp)) (Packet.pairs_iff.2 (.inr hq))
  rw [hstep, if_pos ⟨hp, hq⟩, State.joinPush_room hjoin hroom]

end Join

/-! The row buffers of a matrix element (spec 13 R295, R296). -/
section Rows

variable {rest : List Packet}

/-- An EOS, an ERR or a closing wave at qw closes the filling buffer (spec 13 R296). -/
theorem execRowIntake_closes (hsite : siteType (elemIx key) = .me) (hhead : (s.elem key).queue 3 = p :: rest)
    (hcloses : p.kind = kEos ∨ p.kind = kErr ∨ p.closing = true) (hfilling : ((s.elem key).me.bufIn .filling).isSome = true) :
    execRowIntake key s = .next { s with
      elems := Map.set Elem.reset s.elems key { s.elem key with me := (s.elem key).me.closeFilling }, moved := Nats.add s.moved key } := by
  simp only [execRowIntake, complete_eq, State.run, hhead, hsite, hfilling, if_pos hcloses, ne_eq, not_true, if_false, if_true,
    State.apply_cons, State.apply_nil, State.perform_elem, State.perform_move]

/-- Rows for which a buffer has room are taken in; the last of a block that its header marks LAST closes the buffer (spec 13 R295, R296). -/
theorem execRowIntake_takes {m : MeState} {i : Nat} (hruns : (s.elem key).runs = true) (hsite : siteType (elemIx key) = .me)
    (hon : s.intakeOn key = true) (hhead : (s.elem key).queue 3 = p :: rest) (hbad : p.bad = false)
    (hold : s.fresh.contains (8 * key + 3) = false) :
    let e := s.elem key
    let h := s.header key e.ctx.toNat
    let rows := rowsOf (hdrFmt h) { pkt := p, hdr := e.hreg 3, isConst := false, fixed := false } (e.hreg 3)
    let n := e.me.sinceHdr + rows.length
    let m1 := { m with sinceHdr := n }
    (p.kind = kData ∨ (p.kind = kHdr ∧ hdrHle h = false)) → p.lw = fmtLw (hdrFmt h) → e.me.take rows = some (m, i) →
    execRowIntake key s = .next { s with
      elems := Map.set Elem.reset s.elems key { e.setQueue 3 rest with
        me := if blockDone (e.hreg 3) e.me.sinceHdr n && decide ((m1.buf i).state = .filling) then m1.close i else m1 }
      moved := Nats.add s.moved key } := by
  intro e h rows n m1 hkind hwidth htake
  have hrow : ¬ (p.kind ≠ kData ∧ p.kind ≠ kHdr) := by
    rcases hkind with hk | ⟨hk, -⟩ <;> simp [hk]
  have hwave : p.closing = false := Packet.not_closing_of_kind (by rcases hkind with hk | ⟨hk, -⟩ <;> rw [hk] <;> decide)
  have hcloses : ¬ (p.kind = kEos ∨ p.kind = kErr ∨ p.closing = true) := by
    rcases hkind with hk | ⟨hk, -⟩ <;> simp [hwave, hk, kData, kHdr, kEos, kErr]
  have hlatched : ¬ (p.kind = kHdr ∧ hdrHle h = true) := by
    rcases hkind with hk | ⟨-, hh⟩
    · simp [hk, kData, kHdr]
    · simp [hh]
  simp only [e, h, rows] at hlatched hwidth htake
  simp only [execRowIntake, complete_eq, State.run, hhead, hsite, hon, hruns, hbad, hold, if_neg hcloses, if_neg hlatched, if_neg hrow, hwidth,
    htake, ne_eq, not_true, Bool.not_true, Bool.or_self, Bool.false_eq_true, if_false, State.apply_cons, State.apply_nil,
    State.perform_elem, State.perform_move]
  rfl

end Rows

/-- Settles O36: each event by what it takes from the heads it meets. -/
theorem inputsTaken : Obligations.InputsTaken := by
  intro s key e h put hruns
  refine ⟨?header, ?data, ?eos, ?close, ?rows⟩
  case header => exact fun i p rest => execHeaderLatch_latches hruns
  case data => exact fun p q => execJoinStep_data hruns
  case eos => exact fun p q => execJoinStep_eos hruns
  case close => exact fun p rest => execRowIntake_closes
  case rows => exact fun p rest m i => execRowIntake_takes hruns

end Sys2Proof.Machine
end

section
/-! SUPPORT. Waves that act (spec 06 R138 to R140, 07 R144, R151, 09 R207): what an element that may act, and whose outputs have space, makes
of a switch wave, of a withy and of the commit waves that it has counted. -/

namespace Sys2Proof.Machine

variable {s : State} {key win wout : Nat} {p : Packet} {l : List Packet}

/-- The state after an element has acted in this cycle. -/
def State.afterAction (s : State) (key : Nat) (e : Elem) : State :=
  { s with elems := Map.set Elem.reset s.elems key e, fresh := Nats.add s.fresh (8 * key + 7), moved := Nats.add s.moved key }

theorem State.apply_action (s : State) (key : Nat) (e : Elem) :
    s.apply [.elem key e, .fresh (8 * key + 7), .move key] = s.afterAction key e := rfl

/-- No element acts on a wave while a firing is in progress (spec 06 R139). -/
theorem State.idle_of_mayAct (h : s.mayAct key = true) : (s.elem key).busy.isSome = false := by
  simp only [State.mayAct, Bool.and_eq_true, Option.isNone_iff_eq_none] at h
  obtain ⟨⟨-, hbusy⟩, -⟩ := h
  rw [hbusy, Option.isSome_none]

/-- A switch wave to a loaded context whose descriptors pass makes that context current (spec 06 R139, 07 R151). -/
theorem execSwitchWave_switches (hgov : s.governing key = (win, wout)) (hmay : s.mayAct key = true) (hmatch : s.waveMismatch key = false)
    (hclosed : s.closedBy key 0 = true) (hjoin : (s.elem key).join = none) (hret : (s.elem key).ret = [])
    (hrb0 : (s.elem key).me.rb0.state = .empty) (hrb1 : (s.elem key).me.rb1.state = .empty) (hspace : s.waveSpace key wout = true)
    (hheads : (inputsOf win).filterMap (s.waveHead key) = p :: l) (hloaded : (s.elem key).loaded.getLsbD (p.pay.extractLsb' 2 3).toNat = true)
    (hchecks : s.badRegister key (p.pay.extractLsb' 2 3).toNat = none) :
    execSwitchWave key s = .next (s.afterAction key ((((s.elem key).popWaves win).switched (p.pay.extractLsb' 2 3)
      (s.header key (p.pay.extractLsb' 2 3).toNat)).pushWave wout p)) := by
  simp only [execSwitchWave, complete_eq, State.run, hgov, hmay, hmatch, hclosed, hjoin, hret, hrb0, hrb1, hspace, hheads, hloaded, hchecks,
    Option.isSome_none, List.isEmpty_nil, ne_eq, not_true, decide_false, Bool.not_true, Bool.or_self, Bool.false_eq_true, if_false,
    State.apply_action]

/-- The element whose row buffer a closing wave at qw closes (spec 13 R296). -/
def Elem.rowsClosed (e : Elem) : Elem :=
  match e.queue 3 with
  | w :: _ => if w.closing then { e with me := e.me.closeFilling } else e
  | [] => e

/-- A withy whose element may act, with its loads returned, is passed on; the element keeps its state in place (spec 06 R139, 17 R405). -/
theorem execWithy_acts (hgov : s.governing key = (win, wout)) (hmay : s.mayAct key = true) (hclosed : s.closedBy key 1 = true)
    (hspace : s.waveSpace key wout = true) (hret : ∀ r ∈ (s.elem key).ret, r.need = 0)
    (hheads : (inputsOf win).filterMap (s.waveHead key) = p :: l) :
    let e := (s.elem key).rowsClosed
    execWithy key s = .next (s.afterAction key { (e.popWaves win).pushWave wout p with
      acted := true, saveCh := BitVec.ofNat 6 (63 - win % 64), inj := e.inj ++ s.markers key e }) := by
  have hreturned : (s.elem key).ret.any (fun r => r.need ≠ 0) = false := by simpa [List.any_eq_false] using hret
  simp only [execWithy, complete_eq, State.run, hgov, hclosed, Bool.not_true, Bool.false_eq_true, if_false, State.apply_seq_cons,
    State.apply_seq_nil, State.idle_of_mayAct hmay, Bool.false_and, State.apply_nil, hmay, hspace, hreturned,
    Bool.or_self, hheads, State.apply_action]
  rfl

/-- With a commit wave counted at every input of WIN, the element applies the staged constants and passes a commit wave on (spec 06 R138,
R139, 09 R207). -/
theorem execCommitWave_acts (hcur : s.current key = (win, wout)) (hcounted : s.countCommits key = []) (htakes : (s.elem key).takesCommits = true)
    (hheld : (s.elem key).held = false) (hbusy : (s.elem key).busy = none) (hfirst : s.fresh.contains (8 * key + 7) = false)
    (hwin : inputsOf win ≠ []) (hwaves : ∀ q ∈ inputsOf win, 1 ≤ (s.elem key).commitCount q) (hspace : s.waveSpace key wout = true)
    (hret : (s.elem key).ret = []) :
    let e := (inputsOf win).foldl (fun (acc : Elem) q => acc.setCommit q (acc.commitCount q - 1)) (s.elem key)
    (s.applyStaged key e).2 = none →
    execCommitWave key s = .next (s.afterAction key ((s.applyStaged key e).1.pushWave wout (wavePacket 2 0))) := by
  intro e hpass
  have hall : (inputsOf win).all (fun q => decide (1 ≤ (s.elem key).commitCount q)) = true := by simpa [List.all_eq_true] using hwaves
  have hsome : (inputsOf win).isEmpty = false := List.isEmpty_eq_false_iff.2 hwin
  simp only [e] at hpass
  simp only [execCommitWave, complete_eq, State.run, State.apply_seq_cons, State.apply_seq_nil, hcounted, State.apply_nil, hcur, htakes, hheld,
    hbusy, hfirst, hsome, hall, hspace, hret, hpass, Option.isSome_none, List.isEmpty_nil, Bool.not_true, Bool.or_self, Bool.false_eq_true,
    if_false, State.apply_action]
  rfl

/-- Settles O37: each wave by what it leaves of the element that acts on it. -/
theorem wavesAct : Obligations.WavesAct := by
  intro s key e win wout acted
  refine ⟨?switch, ?withy, ?commit⟩
  case switch =>
    exact fun hmay hmatch hclosed hjoin hret hrb0 hrb1 hspace p l => execSwitchWave_switches rfl hmay hmatch hclosed hjoin hret hrb0 hrb1 hspace
  case withy => exact fun hmay hclosed hspace hret p l => execWithy_acts rfl hmay hclosed hspace hret
  case commit =>
    exact fun hcounted htakes hheld hbusy hfirst => execCommitWave_acts rfl hcounted htakes hheld hbusy hfirst

end Sys2Proof.Machine
end

section
/-! SUPPORT. What a completed firing makes of its element (spec 07 R159, R160), and what it leaves unchanged. -/

namespace Sys2Proof.Machine

variable {s : State} {f : Slot} {fr : Fire} {e : Elem}

/-- The firing that the focus names is one of this slot, on the element as it stands. -/
theorem State.fireOf_eq_some (h : s.fireOf f = some fr) : fr.f = f ∧ fr.e = s.elem fr.key := by
  unfold State.fireOf at h
  split at h
  · cases h; exact ⟨rfl, rfl⟩
  · cases h

/-- Element maps are canonical in a canonical state. -/
theorem State.elems_wf (h : s.canonical = true) : Map.wf Elem.reset s.elems = true := by
  obtain ⟨-, hcores, -⟩ := s.canonical_iff.1 h
  simp only [State.coresWf, Bool.and_eq_true] at hcores
  tauto

/-! Pops (spec 07 R147). -/

theorem Elem.pop_eq (e : Elem) (q : Nat) : e.pop q = { e with qs := (e.pop q).qs, qj := (e.pop q).qj } := by
  unfold Elem.pop; split_ifs <;> rfl

theorem Elem.queue_pop_other {q r : Nat} (h : r ≠ q) : (e.pop q).queue r = e.queue r := by
  unfold Elem.pop
  split_ifs
  · rfl
  · exact Map.get_set_other _ _ h
  · rfl

theorem Elem.qj_pop_other {q : Nat} (h : q ≠ 6) : (e.pop q).qj = e.qj := by
  unfold Elem.pop; rw [if_neg h]; split_ifs <;> rfl

theorem Fire.pops_eq (fr : Fire) (a b : Bool) (e : Elem) :
    fr.pops a b e = { e with qs := (fr.pops a b e).qs, qj := (fr.pops a b e).qj } := by
  unfold Fire.pops
  split_ifs
  · rw [Elem.pop_eq (e.pop _), Elem.pop_eq e]
  · exact e.pop_eq _
  · exact e.pop_eq _
  · rfl

/-- Whatever every pop of another queue than those named keeps, the pops of a firing keep. -/
theorem Fire.pops_keeps {α : Type} {a b : Bool} (g : Elem → α) (q : Nat) (hg : ∀ e r, q ≠ r → g (e.pop r) = g e) (e : Elem) :
    ((a = true ∧ fr.f.qa.toNat = q) ∨ (b = true ∧ fr.f.qb.toNat = q)) ∨ g (fr.pops a b e) = g e := by
  by_cases ha : a = true ∧ fr.f.qa.toNat = q
  · exact .inl (.inl ha)
  by_cases hb : b = true ∧ fr.f.qb.toNat = q
  · exact .inl (.inr hb)
  right
  have popA : g (if a then e.pop fr.f.qa.toNat else e) = g e := by
    split
    · exact hg _ _ (fun h => ha ⟨‹_›, h.symm⟩)
    · rfl
  unfold Fire.pops
  simp only [Bool.and_eq_true]
  split
  next h => exact (hg _ _ (fun hq => hb ⟨h.1, hq.symm⟩)).trans popA
  next => exact popA

/-! Pushes (spec 07 R160, 09 R199). -/

/-- Filling registers changes no other part of the element. -/
theorem Elem.setOuts_eq (m : BitVec 6) (p : Packet) (l : List Nat) (e : Elem) :
    let x := l.foldl (fun e o => if m.getLsbD o then e.setOut o (some p) else e) e
    x = { e with outs := x.outs } := by
  refine List.foldlRecOn l _ (motive := fun x : Elem => x = { e with outs := x.outs }) rfl (fun x hx o _ => ?_)
  split
  · rw [hx]; rfl
  · exact hx

theorem Elem.out_setOuts_other {o : Nat} {m : BitVec 6} (h : m.getLsbD o = false) (p : Packet) (l : List Nat) (e : Elem) :
    (l.foldl (fun e o => if m.getLsbD o then e.setOut o (some p) else e) e).out o = e.out o := by
  refine List.foldlRecOn l _ (motive := fun x : Elem => x.out o = e.out o) rfl (fun x hx r _ => ?_)
  split
  next hr =>
    have hne : o ≠ r := by rintro rfl; simp [hr] at h
    exact (Map.get_set_other x.outs (some p) hne).trans hx
  next => exact hx

theorem Elem.push_eq (e : Elem) (key : Nat) (m : BitVec 6) (p : Packet) (dest : PortDest) :
    let x := e.push key m p dest
    x = { e with outs := x.outs, oyDest := x.oyDest, ret := x.ret } := by
  unfold Elem.push
  split_ifs
  · rfl
  · rfl
  · dsimp only; rw [Elem.setOuts_eq]
  · dsimp only; rw [Elem.setOuts_eq]

/-- An output that the mask does not name keeps its register. -/
theorem Elem.out_push_other {key o : Nat} {m : BitVec 6} {p : Packet} {dest : PortDest} (h : m.getLsbD o = false) :
    (e.push key m p dest).out o = e.out o := by
  unfold Elem.push
  split_ifs
  · rfl
  · rfl
  · exact Elem.out_setOuts_other h p _ e
  · exact Elem.out_setOuts_other h p _ e

/-! The destination entry (spec 07 R145, R159). -/

theorem Fire.writeDest_eq (fr : Fire) (r : Option Packet) (e : Elem) : fr.writeDest r e = { e with d := (fr.writeDest r e).d } := by
  unfold Fire.writeDest
  split
  · rfl
  · split <;> rfl

theorem Fire.dReg_writeDest (r : Option Packet) (n : Nat) :
    (fr.f.dwe = true ∧ n = fr.f.dd.toNat) ∨ (fr.writeDest r e).dReg n = e.dReg n := by
  by_cases h : fr.f.dwe = true ∧ n = fr.f.dd.toNat
  · exact .inl h
  right
  unfold Fire.writeDest
  split
  · rfl
  · split
    next hw =>
      simp only [Bool.and_eq_true] at hw
      exact Map.get_set_other _ _ (fun hn => h ⟨hw.1, hn⟩)
    next => rfl

/-! The element after a firing with a result. -/

variable {p : Packet}

/-- The pushes, the pops and the write of the destination, one after another. -/
theorem Fire.after_result (fr : Fire) (p : Packet) :
    fr.after (fr.result p) =
      { (fr.pops fr.f.dqa fr.f.dqb (fr.writeDest (some p) fr.e)).push fr.key fr.f.om (fr.outPacket p) .nowhere with
        st := if fr.f.nse then fr.f.ns else fr.e.st, busy := none } := rfl

theorem Fire.after_result_eq (fr : Fire) (p : Packet) :
    let x := fr.after (fr.result p)
    x = { fr.e with d := x.d, qs := x.qs, qj := x.qj, outs := x.outs, oyDest := x.oyDest, ret := x.ret, st := x.st, busy := none } := by
  rw [Fire.after_result, Elem.push_eq, Fire.pops_eq, Fire.writeDest_eq]

theorem Fire.dReg_after_result (fr : Fire) (p : Packet) (n : Nat) :
    (fr.f.dwe = true ∧ n = fr.f.dd.toNat) ∨ (fr.after (fr.result p)).dReg n = fr.e.dReg n := by
  rw [Fire.after_result, Elem.push_eq, Fire.pops_eq]
  exact Fire.dReg_writeDest (some p) n

theorem Fire.queue_after_result (fr : Fire) (p : Packet) (q : Nat) :
    ((fr.f.dqa = true ∧ fr.f.qa.toNat = q) ∨ (fr.f.dqb = true ∧ fr.f.qb.toNat = q)) ∨ (fr.after (fr.result p)).queue q = fr.e.queue q := by
  rw [Fire.after_result, Elem.push_eq]
  refine (Fire.pops_keeps (fun e => e.queue q) q (fun _ _ => Elem.queue_pop_other) _).imp_right (fun h => h.trans ?_)
  rw [Fire.writeDest_eq]; rfl

theorem Fire.qj_after_result (fr : Fire) (p : Packet) :
    ((fr.f.dqa = true ∧ fr.f.qa.toNat = 6) ∨ (fr.f.dqb = true ∧ fr.f.qb.toNat = 6)) ∨ (fr.after (fr.result p)).qj = fr.e.qj := by
  rw [Fire.after_result, Elem.push_eq]
  refine (Fire.pops_keeps (fun e => e.qj) 6 (fun _ _ h => Elem.qj_pop_other h.symm) _).imp_right (fun h => h.trans ?_)
  rw [Fire.writeDest_eq]

theorem Fire.out_after_result (fr : Fire) (p : Packet) (o : Nat) :
    fr.f.om.getLsbD o = true ∨ (fr.after (fr.result p)).out o = fr.e.out o := by
  rw [Fire.after_result]
  refine (Bool.eq_false_or_eq_true _).imp_right (fun ho => (Elem.out_push_other ho).trans ?_)
  rw [Fire.pops_eq, Fire.writeDest_eq]; rfl

/-! The state after a completed firing. -/

theorem Fire.landed_elem (hs : s.canonical = true) (d : Done) : (fr.landed d s).elem fr.key = fr.after d :=
  Map.get_set_same _ _ (State.elems_wf hs)

theorem Fire.landed_elem_other (d : Done) {k : Nat} (h : k ≠ fr.key) : (fr.landed d s).elem k = s.elem k :=
  Map.get_set_other _ _ h

/-- A firing that completes with a result and nothing else keeps to its frame. -/
theorem Fire.landed_result_frame (hs : s.canonical = true) (he : fr.e = s.elem fr.key) (p : Packet) :
    FiringFrame s (fr.landed (fr.result p) s) fr := by
  simp only [FiringFrame, Fire.landed_elem hs, ← he]
  exact ⟨rfl, fun _ => rfl, fun k => Fire.landed_elem_other _, fr.after_result_eq p, fun r _ => fr.dReg_after_result p r,
    fun q _ => fr.queue_after_result p q, fr.qj_after_result p, fun o _ => fr.out_after_result p o, rfl⟩

end Sys2Proof.Machine
end

section
/-! SUPPORT. The integer instructions (spec 10 R225, R227): those of one and of two operands complete with a result, and compares that write
a state bit (07 R161). -/

namespace Sys2Proof.Machine

variable {s : State} {f : Slot} {fr : Fire} {a b : Opnd} {n : Nat}

/-- A unary instruction that does not round completes with a result on operands of its width. -/
theorem unaryOp_lands {fn : Fire → LaneIn → BitVec 32 → Nat × Bool} (h : Fires f ownGuard always s fr) (ha : s.opA fr = some a)
    (hw : badWidth (fmtLw fr.fmt) [a] = none) (hl : outLen fr.w [a] = some n) :
    unaryOp f false fn s = .next (fr.landed
      (fr.result (fr.pack (some a) (fr.lanesOf a n (fun i => fn fr (laneIn (some a) none none i) fr.e.rng)))) s) := by
  refine fire_lands h ?_ rfl rfl
  simp only [State.withA, ha]
  exact Fire.laneWise_noStep (b := none) (c := none) hw hl

/-- So does a binary one, if the lengths agree. -/
theorem binaryOp_lands {fn : Fire → LaneIn → BitVec 32 → Nat × Bool} (h : Fires f ownGuard always s fr) (ha : s.opA fr = some a)
    (hb : s.opB fr = some b) (hw : badWidth (fmtLw fr.fmt) [a, b] = none) (hl : outLen fr.w [a, b] = some n) :
    binaryOp f false fn s = .next (fr.landed
      (fr.result (fr.pack (some a) (fr.lanesOf a n (fun i => fn fr (laneIn (some a) (some b) none i) fr.e.rng)))) s) := by
  refine fire_lands h ?_ rfl rfl
  simp only [State.withAB, State.withA, State.withB, ha, hb]
  exact Fire.laneWise_noStep (c := none) hw hl

/-- ADD to MOVH are binary lane-wise instructions that do not round. -/
theorem exec_pairOps : ∀ c ∈ pairOps, ∃ g, ∀ f s, exec (c f) s = binaryOp f false (lane2 g) s := by
  simp only [pairOps, List.forall_mem_cons]
  exact ⟨⟨addLane, fun _ _ => rfl⟩, ⟨subLane, fun _ _ => rfl⟩, ⟨addsLane, fun _ _ => rfl⟩, ⟨subsLane, fun _ _ => rfl⟩,
    ⟨mulLane, fun _ _ => rfl⟩, ⟨mulhLane, fun _ _ => rfl⟩, ⟨mulhnLane, fun _ _ => rfl⟩, ⟨minLane, fun _ _ => rfl⟩,
    ⟨maxLane, fun _ _ => rfl⟩, ⟨minnLane, fun _ _ => rfl⟩, ⟨maxnLane, fun _ _ => rfl⟩, ⟨andLane, fun _ _ => rfl⟩,
    ⟨orLane, fun _ _ => rfl⟩, ⟨xorLane, fun _ _ => rfl⟩, ⟨andnLane, fun _ _ => rfl⟩, ⟨shlLane, fun _ _ => rfl⟩,
    ⟨shrLane, fun _ _ => rfl⟩, ⟨shaLane, fun _ _ => rfl⟩, ⟨rolLane, fun _ _ => rfl⟩, ⟨movhLane, fun _ _ => rfl⟩, by simp⟩

/-- ABS to MOV are unary ones. -/
theorem exec_singleOps : ∀ c ∈ singleOps, ∃ g, ∀ f s, exec (c f) s = unaryOp f false (lane1 g) s := by
  simp only [singleOps, List.forall_mem_cons]
  exact ⟨⟨absLane, fun _ _ => rfl⟩, ⟨negLane, fun _ _ => rfl⟩, ⟨clzLane, fun _ _ => rfl⟩, ⟨ctzLane, fun _ _ => rfl⟩,
    ⟨popcLane, fun _ _ => rfl⟩, ⟨brevLane, fun _ _ => rfl⟩, ⟨movLane, fun _ _ => rfl⟩, by simp⟩

/-- Settles O59: each of the instructions completes with a result, and a firing with a result keeps to its frame. -/
theorem integerFrame : Obligations.IntegerFrame := by
  intro s t f fr a b n c hs h
  obtain ⟨-, he⟩ := State.fireOf_eq_some h.1
  have frame {p : Packet} (hp : exec (c f) s = .next (fr.landed (fr.result p) s)) (ht : exec (c f) s = .next t) : FiringFrame s t fr := by
    cases hp.symm.trans ht
    exact Fire.landed_result_frame hs he p
  constructor
  · intro hc ha hb hw hl
    obtain ⟨g, hg⟩ := exec_pairOps c hc
    exact frame ((hg f s).trans (binaryOp_lands h ha hb hw hl))
  · intro hc ha hw hl
    obtain ⟨g, hg⟩ := exec_singleOps c hc
    exact frame ((hg f s).trans (unaryOp_lands h ha hw hl))

theorem zipIdx_map_range {α : Type} (g : Nat → α) (n : Nat) : ((List.range n).map g).zipIdx = (List.range n).map (fun i => (g i, i)) :=
  List.ext_getElem (by simp) (by simp)

theorem Fire.poisonedLanes_map_range (fr : Fire) (g : Nat → Bool) (n : Nat) :
    fr.poisonedLanes ((List.range n).map g) = packFields ((List.range n).map (fun i => (1, bit01 (g i && fr.active true i)))) := by
  simp only [Fire.poisonedLanes, zipIdx_map_range, List.map_map, Function.comp_def]

theorem Fire.outcome_map_range (fr : Fire) (p : Nat → Bool) (n : Nat) : fr.outcome ((List.range n).map p) = compareBit fr n p := by
  simp only [Fire.outcome, compareBit, zipIdx_map_range, List.filter_map, List.any_map, List.all_map, Function.comp_def]

/-- A compare with MOD[0] = 1 on operands of its width (spec 07 R161): it writes the state bit unless poisoned lanes take part under EPOL = 1, and
counts an error if any take part. -/
theorem compareOp_writes {pred : Fire → LaneIn → Bool} (h : Fires f ownGuard always s fr) (ha : s.opA fr = some a) (hb : s.opB fr = some b)
    (hw : badWidth (fmtLw fr.fmt) [a, b] = none) (hl : outLen fr.w [a, b] = some n) (hmd : fr.md 0 = true) :
    let on (i : Nat) : Bool := pred fr (laneIn (some a) (some b) none i)
    let mask := packFields ((List.range n).map (fun i => (1, bit01 ((a.bp i || b.bp i) && fr.active true i))))
    let d := { fr.result (fr.pack (some a) (fr.lanesOf a n (fun i => (if on i then 2 ^ fr.w - 1 else 0, a.bp i || b.bp i)))) with
               stBit := some (fr.imm 13 3, compareBit fr n on) }
    compareOp f pred s = .next (s.apply (fr.settle s
      (if mask = 0 then .done d else if fr.epol then .trap 0x23 (detailOf [(8, mask)]) else .done { d with errs := 1 }))) := by
  intro on mask d
  refine (fireProg_fires h).trans ?_
  simp only [State.withAB, State.withA, State.withB, ha, hb]
  rw [Fire.laneWise_noStep (c := none) hw hl]
  simp only [hmd, if_true, List.length_map, List.length_range, List.map_map, Function.comp_def, Fire.poisonedLanes_map_range,
    Fire.outcome_map_range]
  rfl

/-- Settles O4: of what a compare writes, the two cases of EPOL. -/
theorem poisonedPredicate : Obligations.PoisonedPredicate := by
  intro s f fr a b n h ha hb hw hl hmd mask hmask
  have hcmp := compareOp_writes (pred := fun _ x => x.a = x.b) h ha hb hw hl hmd
  simp only [show packFields _ ≠ 0 from hmask, if_false] at hcmp
  constructor <;> (intro hepol; rw [hepol] at hcmp; exact hcmp)

end Sys2Proof.Machine
end

section
/-! SUPPORT. Slots that cannot fire (spec 07 R162) and the counters that end an element's turn (R156). -/

namespace Sys2Proof.Machine

variable {s : State} {f : Slot} {i : Instr}

/-- The instruction fires as this slot, under this guard and when it is ready so. -/
def FiresAs (i : Instr) (f : Slot) (guard : Fire → Slot) (ready : Fire → State → Bool) : Prop :=
  ∃ g, ∀ s, exec i s = complete (fireProg f guard ready g) s

/-- What an instruction waits for matters in firings of its own slot alone. -/
theorem FiresAs.congr {guard : Fire → Slot} {ready ready' : Fire → State → Bool} (h : FiresAs i f guard ready)
    (hready : ∀ fr s, fr.f = f → ready' fr s = ready fr s) : FiresAs i f guard ready' := by
  obtain ⟨g, hg⟩ := h
  refine ⟨g, fun s => (hg s).trans ?_⟩
  have same : fireProg f guard ready g s = fireProg f guard ready' g s := by
    simp only [fireProg]
    split
    · rfl
    next fr hfr =>
      have hcan : s.canFire fr guard ready' = s.canFire fr guard ready := by
        simp only [State.canFire, hready fr s (State.fireOf_eq_some hfr).1]
      rw [hcan]
  simp only [complete_eq, State.run, same]

/-! The wait of an opcode whose modes differ in it (spec 14 R330, R331). -/

theorem readyFor_asend {fr : Fire} (h : fr.f.md.toNat % 4 ≠ 2) : readyFor 0xD2 fr s = true := by simp [readyFor, h]
theorem readyFor_asendPin {fr : Fire} (h : fr.f.md.toNat % 4 = 2) : readyFor 0xD2 fr s = fr.readyAsendPin s := by simp [readyFor, h]
theorem readyFor_aadd {fr : Fire} (h : fr.f.md.toNat % 2 ≠ 1) : readyFor 0xD3 fr s = true := by simp [readyFor, h]
theorem readyFor_aaddPin {fr : Fire} (h : fr.f.md.toNat % 2 = 1) : readyFor 0xD3 fr s = fr.readyAaddPin s := by simp [readyFor, h]

/-- Every element instruction fires under the guard and the wait to which the arbiter holds the opcode of its row, in the mode that the row
fixes (spec 07 R154): by definition, but for the opcodes whose wait depends on the mode. -/
theorem firesAs_row {r : EncRow} (hslot : i.slot = some f) (hrow : i.encRow = some r)
    (hmode : r.fixMask = 0 ∨ f.md.toNat &&& r.fixMask = r.fixVal) : FiresAs i f (guardFor r.op) (readyFor r.op) := by
  cases i <;> cases hslot <;> cases hrow
  case asend =>
    have hmd : f.md.toNat % 4 = 0 := Laws.mode_three (hmode.resolve_left (by decide))
    exact FiresAs.congr (ready := always) ⟨_, fun _ => rfl⟩ (fun fr s hf => readyFor_asend (by rw [hf, hmd]; decide))
  case asendIdx =>
    have hmd : f.md.toNat % 4 = 1 := Laws.mode_three (hmode.resolve_left (by decide))
    exact FiresAs.congr (ready := always) ⟨_, fun _ => rfl⟩ (fun fr s hf => readyFor_asend (by rw [hf, hmd]; decide))
  case asendPin =>
    have hmd : f.md.toNat % 4 = 2 := Laws.mode_three (hmode.resolve_left (by decide))
    exact FiresAs.congr (ready := Fire.readyAsendPin) ⟨_, fun _ => rfl⟩ (fun fr s hf => readyFor_asendPin (by rw [hf, hmd]))
  case aadd =>
    have hmd : f.md.toNat % 2 = 0 := Laws.mode_one (hmode.resolve_left (by decide))
    exact FiresAs.congr (ready := always) ⟨_, fun _ => rfl⟩ (fun fr s hf => readyFor_aadd (by rw [hf, hmd]; decide))
  case aaddPin =>
    have hmd : f.md.toNat % 2 = 1 := Laws.mode_one (hmode.resolve_left (by decide))
    exact FiresAs.congr (ready := Fire.readyAaddPin) ⟨_, fun _ => rfl⟩ (fun fr s hf => readyFor_aaddPin (by rw [hf, hmd]))
  all_goals exact ⟨_, fun _ => rfl⟩

/-- A slot that cannot fire leaves the state as it is (spec 07 R162). -/
theorem exec_idle {r : EncRow} {fr : Fire} (hslot : i.slot = some f) (hrow : i.encRow = some r) (hfr : s.fireOf f = some fr)
    (hmode : r.fixMask = 0 ∨ f.md.toNat &&& r.fixMask = r.fixVal) (hidle : s.canFire fr (guardFor r.op) (readyFor r.op) = false) :
    exec i s = .next s := by
  obtain ⟨g, hg⟩ := firesAs_row hslot hrow hmode
  rw [hg s, fireProg_idle hfr hidle]

/-! The end of a turn (spec 07 R156). -/

variable {old : State} {key n : Nat} {e : Elem}

/-- Keys written one after another read as written last. -/
theorem Map.get_foldl_set {α : Type} [DecidableEq α] {d : α} (g : Nat → α) (l : List Nat) (m : Map α) (hm : Map.wf d m = true) :
    Map.get d (l.foldl (fun m k => Map.set d m k (g k)) m) n = if n ∈ l then g n else Map.get d m n := by
  induction l generalizing m with
  | nil => rfl
  | cons k l ih =>
    rw [List.foldl_cons, ih _ (Map.wf_set k (g k) hm)]
    by_cases hl : n ∈ l
    · simp [hl]
    · by_cases hk : n = k
      · subst hk; simp [Map.get_set_same n (g n) hm]
      · simp [hl, hk, Map.get_set_other m (g k) hk]

/-- The end of a turn in a free element: its slots' counters, as they stood, are counted on (spec 07 R156). -/
theorem run_endElement_free (h : old.isFree key = true) : ∃ fired, s.run (endElement old key) =
    s.perform (.elem key ((s.elem key).recount (fun n => (old.slotField key n).str) (old.readySlots key) fired)) := by
  simp only [State.run, endElement, h, Bool.not_true, Bool.false_eq_true, if_false, State.apply_cons, State.apply_nil]
  exact ⟨_, rfl⟩

/-- In a busy element they are held. -/
theorem run_endElement_held (h : old.isFree key = false) :
    s.run (endElement old key) = s ∨ s.run (endElement old key) = s.perform (.elem key { s.elem key with latch := [] }) := by
  simp only [State.run, endElement, h, Bool.not_false, if_true]
  split
  · exact .inr rfl
  · exact .inl rfl

theorem State.elem_perform (hs : s.canonical = true) : (s.perform (.elem key e)).elem key = e :=
  Map.get_set_same key e (State.elems_wf hs)

theorem State.elem_perform_other {k : Nat} (h : k ≠ key) : (s.perform (.elem key e)).elem k = s.elem k :=
  Map.get_set_other _ _ h

/-- A slot that was not eligible has its counter cleared (spec 07 R156). -/
theorem Elem.lossOf_recount_not_ready {str : Nat → Bool} {ready : List Nat} {fired : Option Nat} (hn : n < 16) (hready : n ∉ ready) :
    (e.recount str ready fired).lossOf n = 0 := by
  have hnot : (!ready.contains n) = true := by simpa using hready
  simp only [Elem.lossOf, Elem.recount]
  rw [Map.get_foldl_set _ _ _ rfl, if_pos (List.mem_range.2 hn), if_pos (.inr (.inr hnot))]

/-- Settles O57: no slot that cannot fire changes the state, and what ends a turn changes counters alone. -/
theorem ineligibleSlotsIdle : Obligations.IneligibleSlotsIdle := by
  refine ⟨fun s i f r fr hslot hrow hfr hmode hidle => exec_idle hslot hrow hfr hmode hidle, ?_⟩
  intro old s key n hn hs t
  cases hfree : old.isFree key with
  | true =>
    obtain ⟨fired, ht⟩ := run_endElement_free (s := s) hfree
    simp only [t, ht, State.elem_perform hs]
    exact ⟨rfl, fun k => State.elem_perform_other, rfl, fun _ => ⟨rfl, Elem.lossOf_recount_not_ready hn⟩, by simp⟩
  | false =>
    rcases run_endElement_held (s := s) hfree with ht | ht
    · simp only [t, ht]; simp
    · simp only [t, ht, State.elem_perform hs]
      exact ⟨rfl, fun k => State.elem_perform_other, trivial, by simp⟩

end Sys2Proof.Machine
end

section
/-! SUPPORT. Arbitration (spec 07 R155): the slot chosen among the eligible ones, and the turns of a cycle, of which an element has one. -/

namespace Sys2Proof.Machine

/-! The choice. -/
section Choice

variable {loss pcl : Nat → Nat} {a b c : Nat}

/-- Slot a fires rather than slot b, if both are eligible (spec 07 R155). -/
def Goes (loss pcl : Nat → Nat) (a b : Nat) : Prop :=
  if 16 ≤ loss a ∨ 16 ≤ loss b then loss b < loss a ∨ (loss b = loss a ∧ a ≤ b) else pcl a < pcl b ∨ (pcl b = pcl a ∧ a ≤ b)

theorem Goes.refl (loss pcl : Nat → Nat) (a : Nat) : Goes loss pcl a a := by unfold Goes; split <;> simp

theorem Goes.trans (hab : Goes loss pcl a b) (hbc : Goes loss pcl b c) : Goes loss pcl a c := by
  unfold Goes at *
  split at hab <;> split at hbc <;> split <;> omega

/-- The better of two slots is one of them, and goes rather than either. -/
theorem better_goes (h : a < b) : (better loss pcl a b = a ∨ better loss pcl a b = b)
    ∧ Goes loss pcl (better loss pcl a b) a ∧ Goes loss pcl (better loss pcl a b) b := by
  unfold better
  split_ifs
  · exact ⟨.inr rfl, by unfold Goes; split <;> omega, Goes.refl ..⟩
  · exact ⟨.inl rfl, Goes.refl .., by unfold Goes; split <;> omega⟩
  · exact ⟨.inr rfl, by unfold Goes; split <;> omega, Goes.refl ..⟩
  · exact ⟨.inl rfl, Goes.refl .., by unfold Goes; split <;> omega⟩

/-- The best of rising slots is one of them, and goes rather than any. -/
theorem foldl_better_goes (l : List Nat) (a : Nat) (h : (a :: l).Pairwise (· < ·)) :
    l.foldl (better loss pcl) a ∈ a :: l ∧ ∀ m ∈ a :: l, Goes loss pcl (l.foldl (better loss pcl) a) m := by
  induction l generalizing a with
  | nil => simp [Goes.refl]
  | cons b l ih =>
    obtain ⟨ha, hbl⟩ := List.pairwise_cons.1 h
    obtain ⟨hb, hl⟩ := List.pairwise_cons.1 hbl
    obtain ⟨hmem, hgoesA, hgoesB⟩ := better_goes (loss := loss) (pcl := pcl) (ha b (by simp))
    have hbelow : ∀ m ∈ l, better loss pcl a b < m := fun m hm => by
      rcases hmem with h | h
      · rw [h]; exact ha m (by simp [hm])
      · rw [h]; exact hb m hm
    obtain ⟨hin, hgoes⟩ := ih (better loss pcl a b) (List.pairwise_cons.2 ⟨hbelow, hl⟩)
    rw [List.foldl_cons]
    refine ⟨?_, fun m hm => ?_⟩
    · rcases List.mem_cons.1 hin with h | h
      · rw [h]; rcases hmem with h | h <;> simp [h]
      · simp [h]
    · have hbest := hgoes _ (List.mem_cons_self ..)
      rcases List.mem_cons.1 hm with rfl | hm
      · exact hbest.trans hgoesA
      · rcases List.mem_cons.1 hm with rfl | hm
        · exact hbest.trans hgoesB
        · exact hgoes m (by simp [hm])

/-- The eligible slot that fires goes rather than any other. -/
theorem chooseSlot_goes {l : List Nat} (h : l.Pairwise (· < ·)) (hne : l ≠ []) :
    ∃ n, chooseSlot loss pcl l = some n ∧ n ∈ l ∧ ∀ m ∈ l, Goes loss pcl n m := by
  cases l with
  | nil => exact absurd rfl hne
  | cons a l => exact ⟨_, rfl, foldl_better_goes l a h⟩

/-- Where some slot is promoted, the one that goes has the largest counter. -/
theorem Goes.promoted {l : List Nat} (h : ∀ m ∈ l, Goes loss pcl a m) (hp : ∃ m ∈ l, 16 ≤ loss m) :
    ∀ m ∈ l, loss m < loss a ∨ (loss m = loss a ∧ a ≤ m) := by
  obtain ⟨k, hk, hpk⟩ := hp
  have hgo := h k hk
  rw [Goes, if_pos (.inr hpk)] at hgo
  intro m hm
  have hgm := h m hm
  rwa [Goes, if_pos (.inl (by omega))] at hgm

/-- Where none is, the one that goes is of the lowest class. -/
theorem Goes.unpromoted {l : List Nat} (h : ∀ m ∈ l, Goes loss pcl a m) (ha : a ∈ l) (hp : ∀ m ∈ l, loss m < 16) :
    ∀ m ∈ l, pcl a < pcl m ∨ (pcl m = pcl a ∧ a ≤ m) := by
  intro m hm
  have hgm := h m hm
  have hla := hp a ha
  have hlm := hp m hm
  rwa [Goes, if_neg (by omega)] at hgm

end Choice

/-- The eligible slots of an element, in rising order. -/
theorem State.readySlots_rising (s : State) (key : Nat) : (s.readySlots key).Pairwise (· < ·) :=
  List.pairwise_lt_range.filter _

/-! The turns of a cycle. -/
section Turns

variable {s : State} {key k core : Nat}

/-- Among these turns no element fires. -/
def NoFiring (l : List Turn) : Prop := ∀ key, Turn.element key ∉ l

theorem NoFiring.count {l : List Turn} (h : NoFiring l) (key : Nat) : l.count (.element key) = 0 := List.count_eq_zero_of_not_mem (h key)

@[simp] theorem noFiring_nil : NoFiring [] := fun _ => List.not_mem_nil

@[simp] theorem noFiring_cons_event (i : Instr) (l : List Turn) : NoFiring (.event i :: l) ↔ NoFiring l := by simp [NoFiring]

@[simp] theorem noFiring_event_if (c : Prop) [Decidable c] (i : Instr) : NoFiring (if c then [.event i] else []) := by split <;> simp

@[simp] theorem noFiring_if_event (c : Prop) [Decidable c] (i : Instr) : NoFiring (if c then [] else [.event i]) := by split <;> simp

@[simp] theorem noFiring_append (l m : List Turn) : NoFiring (l ++ m) ↔ NoFiring l ∧ NoFiring m := by
  simp only [NoFiring, List.mem_append, not_or, forall_and]

theorem noFiring_flatMap {α : Type} {g : α → List Turn} {l : List α} (h : ∀ a, NoFiring (g a)) : NoFiring (l.flatMap g) := fun key hm => by
  obtain ⟨a, -, ha⟩ := List.mem_flatMap.1 hm
  exact h a key ha

theorem noFiring_map {α : Type} {g : α → Turn} {l : List α} (h : ∀ a key, g a ≠ .element key) : NoFiring (l.map g) := fun key hm => by
  obtain ⟨a, -, ha⟩ := List.mem_map.1 hm
  exact h a key ha

theorem noFiring_filterMap {α : Type} {g : α → Option Turn} {l : List α} (h : ∀ a key, g a ≠ some (.element key)) :
    NoFiring (l.filterMap g) :=
  fun key hm => by
    obtain ⟨a, -, ha⟩ := List.mem_filterMap.1 hm
    exact h a key ha

theorem noFiring_acceptTurns (core : Nat) : NoFiring (s.acceptTurns core) := by
  unfold State.acceptTurns
  split <;> simp

theorem noFiring_linkTurns (k : Nat) : NoFiring (s.linkTurns k) := noFiring_filterMap (fun o key => by split <;> simp)

theorem noFiring_portTurns (core : Nat) : NoFiring (s.portTurns core) := by
  rw [State.portTurns, noFiring_append]
  exact ⟨noFiring_if_event _ _, noFiring_map (by simp)⟩

theorem noFiring_latchTurns (k : Nat) : NoFiring (s.latchTurns k) :=
  noFiring_filterMap (fun q key => by split <;> [split <;> simp; simp])

theorem noFiring_waveTurns (k : Nat) : NoFiring (s.waveTurns k) := by
  unfold State.waveTurns
  dsimp only
  split <;> simp

theorem noFiring_unitTurns (k : Nat) : NoFiring (s.unitTurns k) := by simp [State.unitTurns]

theorem noFiring_engineTurns (k : Nat) (g : Engine) : NoFiring (s.engineTurns k g) := by
  unfold State.engineTurns
  dsimp only
  split
  · exact noFiring_nil
  · simp only [noFiring_append, noFiring_if_event, true_and]
    exact ⟨noFiring_filterMap (fun i key => by split <;> [split <;> simp; simp]), noFiring_map (by simp)⟩

theorem wordTurn_ne_element (n : Nat) (w : AccWord) (key : Nat) : wordTurn n w ≠ .element key := by
  cases w <;> simp [wordTurn]

theorem noFiring_fabricTurns : NoFiring s.fabricTurns := by
  simp only [State.fabricTurns, noFiring_append]
  exact ⟨⟨⟨noFiring_map (by simp), noFiring_map (fun x => wordTurn_ne_element x.2 x.1)⟩, noFiring_map (by simp)⟩,
    noFiring_filterMap (fun x key => by split <;> simp)⟩

theorem noFiring_queueTurns : NoFiring s.queueTurns := by
  simp only [State.queueTurns, noFiring_append]
  refine ⟨⟨noFiring_filterMap (fun t key => ?_), ?_⟩, noFiring_flatMap (fun l => ?_)⟩
  · split <;> [simp; simp; simp; split <;> simp]
  · split <;> simp [NoFiring]
  · rw [noFiring_append]
    refine ⟨noFiring_event_if _ _, ?_⟩
    split
    · split <;> [split <;> simp; simp]
    · exact noFiring_nil

theorem noFiring_regionTurns (b : Nat) : NoFiring (s.regionTurns b) := by
  unfold State.regionTurns
  dsimp only
  split <;> simp

theorem noFiring_timeoutTurns (k : Nat) : NoFiring (s.timeoutTurns k) := noFiring_filterMap (fun p key => by split <;> simp)

/-- Of the turns of an element's firings one is a firing, after those of a trap and of bindings. -/
theorem fireTurns_eq (s : State) (k : Nat) :
    ∃ l, NoFiring l ∧ s.fireTurns k = l ++ if (s.elem k).active || (s.elem k).busy.isSome then [.element k] else [] := by
  refine ⟨_, ?_, rfl⟩
  rw [noFiring_append]
  exact ⟨noFiring_event_if _ _, noFiring_filterMap (fun b key => by split <;> simp)⟩

theorem count_fireTurns (s : State) (key k : Nat) : (s.fireTurns k).count (.element key) ≤ if k = key then 1 else 0 := by
  obtain ⟨l, hl, heq⟩ := fireTurns_eq s k
  rw [heq, List.count_append, hl.count]
  split
  · by_cases hk : k = key <;> simp [hk]
  · simp

theorem Map.lt_of_above {α : Type} {m : Map α} {b k : Nat} (h : Map.above b m = true) (hk : k ∈ m.map (fun x => x.1)) : b < k := by
  induction m with
  | nil => simp at hk
  | cons e m ih =>
    simp only [Map.above, Bool.and_eq_true, decide_eq_true_eq] at h
    rcases List.mem_cons.1 hk with rfl | hk
    · exact h.1
    · exact ih h.2 hk

/-- A canonical map names each of its keys once. -/
theorem Map.keys_nodup {α : Type} [DecidableEq α] {d : α} {m : Map α} (h : Map.wf d m = true) : (m.map (fun x => x.1)).Nodup := by
  induction m with
  | nil => exact List.nodup_nil
  | cons e m ih =>
    obtain ⟨-, habove, hm⟩ := Map.wf_cons.1 h
    exact List.nodup_cons.2 ⟨fun hk => Nat.lt_irrefl _ (Map.lt_of_above habove hk), ih hm⟩

/-- The elements of a canonical state that run are named once. -/
theorem State.liveKeys_nodup (h : s.canonical = true) : s.liveKeys.Nodup := (Map.keys_nodup (State.elems_wf h)).filter _

theorem count_flatMap_fireTurns (s : State) (key : Nat) (l : List Nat) : (l.flatMap s.fireTurns).count (.element key) ≤ l.count key := by
  induction l with
  | nil => simp
  | cons k l ih =>
    have hk := count_fireTurns s key k
    rw [List.flatMap_cons, List.count_append, List.count_cons]
    simp only [beq_iff_eq]
    omega

/-- An element has at most one turn in a cycle. -/
theorem State.count_cycleTurns (h : s.canonical = true) (key : Nat) : s.cycleTurns.count (.element key) ≤ 1 := by
  have hfire : (s.liveKeys.reverse.flatMap s.fireTurns).count (.element key) ≤ 1 :=
    (count_flatMap_fireTurns s key _).trans (List.nodup_iff_count_le_one.1 (List.nodup_reverse.2 (State.liveKeys_nodup h)) key)
  have hcons : NoFiring (if s.consBusy then [.event .consChangeComplete] else []) := by split <;> simp
  have hgated : NoFiring (s.gated.filterMap (fun x => if x.2 = .waking then some (.event (.wakeComplete x.1)) else none)) :=
    noFiring_filterMap (fun x key => by split <;> simp)
  have hinputs : NoFiring ((s.inputs.take 1).map Turn.event) := noFiring_map (by simp)
  unfold State.cycleTurns
  simp only [List.count_append, (noFiring_flatMap noFiring_acceptTurns).count, (noFiring_flatMap noFiring_linkTurns).count,
    (noFiring_flatMap noFiring_portTurns).count, (noFiring_flatMap noFiring_latchTurns).count, (noFiring_flatMap noFiring_waveTurns).count,
    hgated.count, hinputs.count, (noFiring_flatMap noFiring_unitTurns).count,
    (noFiring_flatMap (fun x : Nat × Engine => noFiring_engineTurns x.1 x.2)).count,
    noFiring_fabricTurns.count, noFiring_queueTurns.count, (noFiring_flatMap (fun x : Nat × Region => noFiring_regionTurns x.1)).count,
    (noFiring_flatMap noFiring_timeoutTurns).count, hcons.count, Nat.zero_add, Nat.add_zero]
  exact hfire

end Turns

/-- Settles O58: the chosen slot goes rather than every other eligible one, which says what the two cases ask of it. -/
theorem arbitrationChoice : Obligations.ArbitrationChoice := by
  refine ⟨?choice, fun s key h => State.count_cycleTurns h key⟩
  intro s key hbusy ready loss pcl
  have hrun : s.slotToRun key = chooseSlot loss pcl ready := by simp only [State.slotToRun, hbusy]; rfl
  rw [hrun]
  constructor
  · intro hnone
    rw [hnone, chooseSlot]
  · intro hsome
    obtain ⟨n, hn, hmem, hgoes⟩ := chooseSlot_goes (s.readySlots_rising key) hsome
    exact ⟨n, hn, hmem, Goes.promoted hgoes, Goes.unpromoted hgoes hmem⟩

end Sys2Proof.Machine
end

section
/-! SUPPORT. One step (spec 07 R155, R158, 08 R173, 05 R103, 16 R369, 18 R422, R440): what the first turn fetches, and what its execution and
its end leave. -/

namespace Sys2Proof.Machine

variable {s u v : State} {t : Turn} {i : Instr} {f : Focus} {key : Nat}

/-! What a turn fetches. -/

/-- In a cycle of a firing before its last the element fetches nothing (spec 07 R158). -/
theorem State.fetch_element_busy (hbusy : (u.elem key).busy ≠ none) (hleft : (u.elem key).left ≠ 0) : u.fetch (.element key) = none := by
  have hcond : ((u.elem key).busy.isSome && (u.elem key).left ≠ 0) = true := by
    simp [Option.isSome_iff_ne_none.2 hbusy, hleft]
  simp only [State.fetch, hcond, if_true]

theorem State.fetch_element {n : Nat} (hlast : (u.elem key).busy = none ∨ (u.elem key).left = 0) (hrun : u.slotToRun key = some n)
    (hi : decodeSlot (u.slotBitsAt key (u.elem key).ctx.toNat n) = .ok i) :
    u.fetch (.element key) = some (i, .slot key (u.elem key).ctx.toNat n) := by
  have hcond : ((u.elem key).busy.isSome && (u.elem key).left ≠ 0) = false := by
    rcases hlast with h | h <;> simp [h]
  simp only [State.fetch, hcond, Bool.false_eq_true, if_false, hrun, hi]

theorem State.fetch_command {c e n : Nat} {m : Cmd} (hm : (u.engine c e).running[n]? = some m) (hi : decodeCommand m.c = .ok i) :
    u.fetch (.command c e n) = some (i, .command c e n) := by
  simp only [State.fetch, hm, hi]

theorem State.fetch_thread {x : Nat} {p : QPacket} (hp : u.ringPacket x = some p) (hi : decodeQueue p = .ok i) :
    u.fetch (.thread x) = some (i, .thread x) := by
  simp only [State.fetch, hp, hi]

/-! What a turn leaves. -/

/-- Where a firing of several cycles only begins, the change is that alone; else the turn ends on what the meaning made. -/
theorem afterTurn_whole (h : ∀ key, t = .element key → u.longFiring v i key = none) : afterTurn u v i t = v.run (endTurn u true t) := by
  cases t
  case element key => simp only [afterTurn, h key rfl]
  all_goals rfl

theorem afterTurn_long {n d : Nat} (h : u.longFiring v i key = some (n, d)) :
    afterTurn u v i (.element key) = u.run (Prog.seq [beginLong i key n d, endElement u key]) := by
  simp only [afterTurn, h]

theorem runTurn_idle (h : u.fetch t = none) : runTurn t u = .next (u.run (endTurn u false t)) := by
  simp only [runTurn, h]

theorem runTurn_runs (h : u.fetch t = some (i, f)) (hexec : exec i (u.perform (.focus f)) = .next v) :
    runTurn t u = .next ((afterTurn u v i t).perform (.focus .none)) := by
  simp only [runTurn, h, hexec]

theorem step_turn {rest : List Turn} (hpow : s.powered = true) (hagenda : s.agenda = t :: rest) :
    step s = runTurn t ((s.perform (.agenda rest)).run (beginTurn t)) := by
  simp only [step, hpow, if_true, hagenda]

/-- Settles O54: a step is a fault, a new cycle or the first turn, which runs what it fetches. -/
theorem stepRunsDecoded : Obligations.StepRunsDecoded := by
  intro s
  refine ⟨fun hpow => by simp [step, hpow], fun hpow hagenda => by simp [step, hpow, hagenda], fun hpow t rest hagenda => ?_⟩
  intro u
  have hstep : step s = runTurn t u := step_turn hpow hagenda
  refine ⟨fun h => hstep.trans (runTurn_idle h), ?runs, ?busy, ?slot, ?command, ?packet, ?management, ?event⟩
  case runs =>
    intro i f v hfetch hexec
    have hrun := hstep.trans (runTurn_runs hfetch hexec)
    refine ⟨fun h => ?_, fun key n d ht h => ?_⟩
    · rw [hrun, afterTurn_whole h]
    · subst ht
      rw [hrun, afterTurn_long h]
  case busy => rintro key rfl; exact State.fetch_element_busy
  case slot => rintro key n i rfl; exact State.fetch_element
  case command => rintro c e n m i rfl; exact State.fetch_command
  case packet => rintro x p i rfl; exact State.fetch_thread
  case management => rintro rfl; rfl
  case event => rintro i rfl; rfl

end Sys2Proof.Machine
end

section
/-! SUPPORT. Slots and their bits (spec 08 R165, R168, R173): what stands in 96 bits is what the encoder writes again, the opcode and the mode
of an instruction name it both ways, and so decode and encode agree. -/

namespace Sys2Proof

variable {i : Instr} {f : Slot} {r : EncRow}

/-! Fields taken out of bits and packed again. -/
section Fields

/-- Fields packed are as wide as their widths together. -/
theorem packFields_lt (ws vs : List Nat) : packFields (ws.zip vs) < 2 ^ ws.sum := by
  induction ws generalizing vs with
  | nil => exact Nat.one_pos
  | cons w ws ih =>
    cases vs with
    | nil => exact Nat.two_pow_pos _
    | cons v vs =>
      have hlow : v % 2 ^ w < 2 ^ w := Nat.mod_lt v (Nat.two_pow_pos w)
      have hhigh : 2 ^ w * (packFields (ws.zip vs) + 1) ≤ 2 ^ w * 2 ^ ws.sum := Nat.mul_le_mul_left _ (ih vs)
      rw [List.zip_cons_cons, packFields, List.sum_cons, Nat.pow_add]
      linarith

/-- Packing what was taken out gives the bits back, as far as the widths go. -/
theorem packFields_takeFields (ws : List Nat) (x : Nat) : packFields (ws.zip (takeFields ws x)) = x % 2 ^ ws.sum := by
  induction ws generalizing x with
  | nil => exact (Nat.mod_one x).symm
  | cons w ws ih =>
    rw [takeFields, List.zip_cons_cons, packFields, Nat.mod_mod, ih, List.sum_cons, Nat.pow_add, Nat.mod_mul]

/-- The number of the flag that one bit is. -/
theorem bit01_mod_two (x : Nat) : bit01 (x % 2 ^ 1 = 1) = x % 2 ^ 1 := by
  rcases Nat.mod_two_eq_zero_or_one x with h | h <;> simp [h, bit01]

/-- The fields that a slot's bits give are the fields as they stand there: no bit is dropped (spec 08 R165). -/
theorem slotValues_slotOf (x : Nat) : slotValues (slotOf x).1 (slotOf x).2 = takeFields slotWidths x := by
  simp only [slotOf]
  simp only [slotValues, slotWidths, takeFields, List.getD_cons_zero, List.getD_cons_succ]
  simp only [BitVec.toNat_ofNat, Nat.mod_mod, bit01_mod_two]

theorem slotBits_lt (op : Nat) (f : Slot) : slotBits op f < 2 ^ 96 := packFields_lt slotWidths (slotValues op f)

theorem slotBits_slotOf {x : Nat} (h : x < 2 ^ 96) : slotBits (slotOf x).1 (slotOf x).2 = x := by
  rw [slotBits, slotValues_slotOf, packFields_takeFields]
  exact Nat.mod_eq_of_lt h

end Fields

/-! Opcode, mode and instruction. -/
section Names

/-- Every element instruction is one whose encoding statement stands in Laws/PerInstr. -/
theorem Laws.Encoding.of_slot (h : i.slot = some f) : Encoding.Statement i := by
  cases i <;> cases h
  exacts [
    nop _, add _, sub _, adds _, subs _, mul _, mulh _, mulhn _, madd _, abs _, neg _, min _, max _, minn _, maxn _, and _, or _, xor _,
    andn _, shl _, shr _, sha _, rol _, clz _, ctz _, popc _, brev _, biti _, bitd _, bfx _, bfi _, cmpeq _, cmpne _, cmplt _, cmpltn _,
    cmple _, cmplen _, sel _, selLane _, mov _, movi _, movh _, movx _, movxLane _, movxw _, movxwLane _, shuf _, bcast _, extl _, insl _,
    pack _, unpk _, reda _, redm _, scana _, len _, setlen _, fadd _, fsub _, fmul _, ffma _, ffms _, fnma _, fmin _, fmax _, fabs _,
    fneg _, fcpys _, fcmpeq _, fcmplt _, fcmple _, fcmpun _, fclass _, fcvt _, fcvti _, icvtf _, frnd _, frcpe _, frsqe _, fscl _, fexpt _,
    freda _, fdot _, falgn _, falgnExp _, falgnHdr _, lute _, luti _, lutw _, rred _, rcomb _, lclamp _, pass _, drop _, emit _, eose _,
    steer _, steerData _, merge _, split _, carry _, delay _, delta _, count _, sink _, tsend _, tsendFar _, cfgk _, cfgkFar _, mark _,
    errt _, errtMake _, repair _, repairBack _, trap _, time _, who _, tagof _, hdr _, sld _, sst _, slds _, ssts _, sgth _, ssct _, samo _,
    pqin _, pqout _, spnd _, szero _, lds _, sts _, ldx _, stx _, lda _, sta _, amo _, mcst _, pref _, fence _, xfence _, drain _, swait _,
    ssig _, sinit _, binit _, barv _, bwait _, ecmd _, eresp _, mwld _, mwsel _, mpass _, mpassFeed _, mzpc _, mscl _, mout _, mclr _,
    mfeed _, msumw _, mstat _, achain _, arsv _, asend _, asendIdx _, asendPin _, aadd _, aaddPin _, awr _, ard _, aflsh _, aclr _, arel _,
    await _, axs _]

/-- An opcode with its mode names an instruction with the same fields, whose row has that opcode. -/
theorem instrOf_row {op : Nat} (h : instrOf op f = some i) : i.slot = some f ∧ ∃ r, i.encRow = some r ∧ r.op = op := by
  unfold instrOf at h
  -- One case for each opcode, and in it one for each mode that MOD selects.
  repeat' split at h
  all_goals cases h
  all_goals exact ⟨rfl, _, rfl, rfl⟩

end Names

/-! The decoder and the encoder of a slot. -/
section Codec

theorem encode_slot (hslot : i.slot = some f) (hrow : i.encRow = some r) : encode i = some (96, slotBits r.op f) := by
  simp only [encode, encodeSlot, hrow, hslot]

theorem wellFormed_slot (hslot : i.slot = some f) (hrow : i.encRow = some r) : i.wellFormed = true ↔ slotFaults r f = [] := by
  simp only [Instr.wellFormed, hrow, hslot, List.isEmpty_iff]

/-- The bits of a valid slot are not all zero (spec 08 R173). -/
theorem slotBits_ne_zero {op : Nat} (hop : op < 256) (hval : f.val = true) : slotBits op f ≠ 0 := by
  intro hzero
  have hfields : slotOf 0 = (op, f) := hzero ▸ slotOf_slotBits op f hop
  have hzeroVal : (slotOf 0).2.val = false := rfl
  simp [hfields, hval] at hzeroVal

/-- Bits whose opcode and mode name an instruction, and whose fields break no check of its row, are accepted. -/
theorem decodeSlot_accepts {x : Nat} (hx : x ≠ 0) (hname : instrOf (slotOf x).1 (slotOf x).2 = some i) (hrow : i.encRow = some r)
    (hfaults : slotFaults r (slotOf x).2 = []) : decodeSlot x = .ok i := by
  simp only [decodeSlot, if_neg hx, hname, hrow, hfaults]

/-- No other bits are accepted. -/
theorem decodeSlot_accepted {x : Nat} (h : decodeSlot x = .ok i) :
    instrOf (slotOf x).1 (slotOf x).2 = some i ∧ ∃ r, i.encRow = some r ∧ slotFaults r (slotOf x).2 = [] := by
  simp only [decodeSlot] at h
  split at h
  · cases h
  · split at h
    · cases h
    next j hname =>
      split at h
      · cases h
      next r hrow =>
        split at h
        next hfaults =>
          cases h
          exact ⟨hname, r, hrow, hfaults⟩
        · cases h

/-- The bits of a slot that breaks no check decode to its instruction. -/
theorem decodeSlot_slotBits (hslot : i.slot = some f) (hrow : i.encRow = some r) (hfaults : slotFaults r f = []) :
    decodeSlot (slotBits r.op f) = .ok i := by
  obtain ⟨hname, hop⟩ := (Laws.Encoding.of_slot hslot).1 f r hslot hrow hfaults
  have hfields := slotOf_slotBits r.op f hop
  exact decodeSlot_accepts (slotBits_ne_zero hop (Laws.slotFaults_valid hfaults)) (by simpa only [hfields] using hname) hrow
    (by simpa only [hfields] using hfaults)

/-- A word written out as a number decodes to the instruction whose slot has those bits. -/
theorem decodeSlot_word {x : Nat} (hslot : i.slot = some f) (hrow : i.encRow = some r) (hword : slotBits r.op f = x)
    (hfaults : slotFaults r f = []) : decodeSlot x = .ok i :=
  hword ▸ decodeSlot_slotBits hslot hrow hfaults

/-- A word of at most 96 bits is read as a slot. -/
theorem decodeTableWord_slot {x : Nat} (hx : x < 2 ^ 96) (h : decodeSlot x = .ok i) : decodeTableWord 96 x = some i := by
  have hbytes : leNat (leBytes 12 x) = x := (leNat_leBytes 12 x).trans (Nat.mod_eq_of_lt hx)
  simp only [decodeTableWord, hbytes, h]
  rfl

/-- The encoder writes again the bits that the decoder accepts. -/
theorem encode_of_decodeSlot {x : Nat} (hx : x < 2 ^ 96) (h : decodeSlot x = .ok i) : i.wellFormed = true ∧ encode i = some (96, x) := by
  obtain ⟨hname, r, hrow, hfaults⟩ := decodeSlot_accepted h
  obtain ⟨hslot, q, hrow', hop⟩ := instrOf_row hname
  obtain rfl : r = q := Option.some.inj (hrow.symm.trans hrow')
  refine ⟨(wellFormed_slot hslot hrow).mpr hfaults, ?_⟩
  rw [encode_slot hslot hrow, hop, slotBits_slotOf hx]

/-- Settles O51: the fields come back from the bits and the bits from the fields, and the opcode with the mode names the instruction. -/
theorem slotRoundTrip : Obligations.SlotRoundTrip := by
  refine ⟨fun i f r hslot hrow hw => ?_, fun x i => encode_of_decodeSlot⟩
  have hdecode := decodeSlot_slotBits hslot hrow ((wellFormed_slot hslot hrow).mp hw)
  have hlt := slotBits_lt r.op f
  exact ⟨encode_slot hslot hrow, hlt, hdecode, decodeTableWord_slot hlt hdecode⟩

/-- Settles O53: each word is the bits of its slot, whose fields break no check; the refused ones name what the first check finds. -/
theorem decodeWords : Obligations.DecodeWords := by
  refine ⟨?add, ?cmplt, ?sel, ?trap, ?empty, ?unassigned, ?reserved, ?copy, ?path, ?nopq, ?type⟩
  case add => exact decodeSlot_word rfl rfl (by decide) (by decide)
  case cmplt => exact decodeSlot_word rfl rfl (by decide) (by decide)
  case sel => exact decodeSlot_word rfl rfl (by decide) (by decide)
  case trap => exact decodeSlot_word rfl rfl (by decide) (by decide)
  case empty => rfl
  case unassigned => rfl
  case reserved => decide
  case copy => decide +kernel
  case path => decide
  case nopq => decide
  case type => decide

end Codec
end Sys2Proof
end

section
/-! SUPPORT. What the steps of a firing run on with once their conditions hold (spec 08 R184, 09 R187, R189, 02 R54), and a firing that makes changes
beyond its element. -/

namespace Sys2Proof.Machine

variable {s : State} {f : Slot} {fr : Fire} {a b x : Opnd} {n : Nat} {ready : Fire → State → Bool} {g : Fire → State → Outc}

/-- A firing that counts no error lands on the state that its other changes leave. -/
theorem fireWhen_landsAfter {d : Done} {l : List Effect} (h : Fires f ownGuard ready s fr) (hd : g fr s = .done { d with pre := l })
    (he : d.errs = 0) : fireWhen f ready g s = .next (fr.landed d (s.apply l)) := by
  rw [fireWhen_done h hd, Fire.finish_pre (d := { d with pre := l }) he]
  rfl

theorem State.withA_some (h : s.opA fr = some a) (k : Opnd → Outc) : s.withA fr k = k a := by simp only [State.withA, h]

theorem State.withAB_some (ha : s.opA fr = some a) (hb : s.opB fr = some b) (k : Opnd → Opnd → Outc) : s.withAB fr k = k a b := by
  simp only [State.withAB, State.withA, State.withB, ha, hb]

theorem Fire.widthOk_fits {l : List Opnd} (h : badWidth (fmtLw fr.fmt) l = none) (k : Outc) : fr.widthOk l k = k := by
  simp only [Fire.widthOk, h]

theorem ranged_within {limit : Nat} {l : List (Nat × Bool)} (h : l.any (fun i => !i.2 && decide (limit < i.1)) = false) (k : Outc) :
    ranged limit l k = k := by
  simp only [ranged, h, Bool.false_eq_true, if_false]

theorem Fire.indexed_fits (hw : badWidth (fmtLw fr.fmt) [b] = none) (hl : outLen fr.w [x, b] = some n) (k : List (Nat × Bool) → Outc) :
    fr.indexed x b k = k ((List.range n).map (fun i => (x.bl i, x.bp i))) := by
  simp only [Fire.indexed, Fire.widthOk_fits hw, Fire.storeIndices, hl, Option.map_some]

theorem Fire.affineLength_fits (hw : badWidth (fmtLw fr.fmt) [a] = none) (hl : a.pkt.lanes = fr.desc.lanes) (k : Outc) :
    fr.affineLength a k = k := by
  simp only [Fire.affineLength, Fire.widthOk_fits hw, hl, if_true]

theorem passed_ok {α : Type} {r : Except Fail α} {y : α} (h : r = .ok y) (k : α → Outc) : passed r k = k y := by
  simp only [passed, h]

end Sys2Proof.Machine
end

section
/-! SUPPORT. The instructions of the scratchpad element (spec 09 R191 to R198, 12 R277). -/

namespace Sys2Proof.Machine

variable {s : State} {f : Slot} {fr : Fire} {a b x : Opnd} {n : Nat}

/-- Settles O17: each load completes at once with its lanes, on the state in which the sectors read are corrected. -/
theorem scratchLoadsComplete : Obligations.ScratchLoadsComplete := by
  intro s f fr made
  refine ⟨fun h => ?sld, fun h => ?slds, fun h x hx hin => ?sgth⟩
  all_goals obtain ⟨rfl, -⟩ := State.fireOf_eq_some h.1
  case sld => exact fireWhen_landsAfter h rfl rfl
  case slds => exact fireWhen_landsAfter h rfl rfl
  case sgth => exact fireWhen_landsAfter h ((State.withA_some hx _).trans (ranged_within hin _)) rfl

/-- SST writes the lanes that end within the scratchpad, where no other lane is unpoisoned. -/
theorem execSst_stores (h : Fires f ownGuard Fire.readySst s fr) (ha : s.opA fr = some a) (hw : badWidth (fmtLw fr.fmt) [a] = none)
    (hout : (fr.sstLanes a).filter (fun x => decide (32768 < x.1 + fr.w / 8) && !x.2.2) = []) :
    let l := fr.sstLanes a
    let out (x : Nat × (Nat × Bool)) : Bool := decide (32768 < x.1 + fr.w / 8)
    let ins := l.filter (fun x => !out x)
    let w := padWrite fr.key (laneBytesOf (fr.w / 8)
      (ins.flatMap (fun x => (List.range (fr.w / 8)).map (fun j => ((x.1 + j : Nat) : Int)))) (ins.map (fun x => x.2)))
    exec (.sst f) s = .next (s.apply (fr.finish { fr.plain with
      e := s.padTouched fr.key w fr.e, errs := (l.filter out).length, pre := s.padPre fr.key w } s)) := by
  refine fireWhen_done h ?_
  simp only [State.withA_some ha, Fire.widthOk_fits hw, hout, ne_eq, not_true, if_false]

/-- SSTS writes its lanes at its generator's addresses. -/
theorem execSsts_stores (h : Fires f ownGuard Fire.readySsts s fr) (ha : s.opA fr = some a) (hw : badWidth (fmtLw fr.fmt) [a] = none)
    (hl : a.pkt.lanes = fr.desc.lanes) :
    let w := padWrite fr.key (laneBytesOf fr.desc.laneBytes fr.affine a.raws)
    exec (.ssts f) s = .next (s.apply (fr.finish { fr.plain with
      e := s.padTouched fr.key w fr.stepped, stBit := fr.wrapBit, pre := s.padPre fr.key w } s)) := by
  refine fireWhen_done h ?_
  simp only [State.withA_some ha, Fire.affineLength_fits hw hl, Fire.affineErr]

/-- SSCT writes the lanes whose indices are not poisoned. -/
theorem execSsct_stores (h : Fires f ownGuard Fire.storeReady s fr) (hx : s.opA fr = some x) (hb : s.opB fr = some b)
    (hw : badWidth (fmtLw fr.fmt) [b] = none) (hl : outLen fr.w [x, b] = some n)
    (hin : ((List.range n).map (fun i => (x.bl i, x.bp i))).any (fun i => !i.2 && decide (fr.desc.cntm 0 < i.1)) = false) :
    let l := (List.range n).map (fun i => (x.bl i, x.bp i))
    exec (.ssct f) s = .next (s.apply (fr.finish { fr.plain with
      e := s.padTouched fr.key (fr.scatter l b) fr.e, errs := (l.filter (fun i => i.2)).length, pre := s.padPre fr.key (fr.scatter l b) } s)) := by
  refine fireWhen_done h ?_
  simp only [State.withAB_some hx hb, Fire.indexed_fits hw hl]
  exact ranged_within hin _

/-- The lines that SZERO clears, from the first on. -/
def Fire.zeroed (fr : Fire) : Effect :=
  let z := spadBase fr.core (elemIx fr.key)
  .clear (z + 64 * fr.imm 0 9) (Nat.min (z + 64 * fr.imm 0 9 + 64 * 2 ^ fr.imm 9 4) (z + 32768))

theorem execSzero_clears (h : Fires f ownGuard Fire.readySzero s fr) :
    exec (.szero f) s = .next (s.apply (fr.finish { fr.plain with
      e := s.padTouched fr.key [fr.zeroed] fr.e, pre := s.padPre fr.key [fr.zeroed] } s)) :=
  fireWhen_done h rfl

/-- Settles O18: each store by what its firing writes; one that counts no error lands on what it has written. -/
theorem scratchStoresComplete : Obligations.ScratchStoresComplete := by
  intro s f fr
  refine ⟨fun h a ha hw hout => execSst_stores h ha hw hout, fun h a ha hw hl => ?ssts,
    fun h x b n hx hb hw hl hin => execSsct_stores h hx hb hw hl hin, fun h => ?szero⟩
  case ssts => exact (execSsts_stores h ha hw hl).trans (congrArg Host.Outcome.next (Fire.finish_pre rfl))
  case szero => exact (execSzero_clears h).trans (congrArg Host.Outcome.next (Fire.finish_pre rfl))

/-- PQOUT takes from the front of the entries that qualify; with none it gives an EOS. -/
theorem execPqout_takes {l : List PqEntry} (h : Fires f ownGuard Fire.readyPqout s fr) (hl : fr.qualifying (s.pqBound fr) = l)
    (hnone : s.pqBound fr = none → fr.md 1 = false) (hsome : ∀ b, s.pqBound fr = some b → b.pkt.lw = 2 ∧ b.bp 0 = false) :
    let q := l.take (fr.imm 4 2 + 1)
    exec (.pqout f) s = .next (if q = [] then fr.landed { fr.plain with out := some (eosPacket fr.outLw fr.f.ot) } s
      else fr.landed { fr.result (dataPacket 2 fr.f.ot true (q.flatMap (fun x => [(x.key.toNat, false), (x.val.toNat, x.pois)]))) with
                       e := { fr.e with pq := fr.e.pq.drop q.length, pqAt := some s.free } } { s with free := s.free + 1024 }) := by
  intro q
  have outcome : exec (.pqout f) s = .next (s.apply (fr.settle s (
      if q = [] then .done { fr.plain with out := some (eosPacket fr.outLw fr.f.ot) }
      else .done { fr.result (dataPacket 2 fr.f.ot true (q.flatMap (fun x => [(x.key.toNat, false), (x.val.toNat, x.pois)]))) with
                   e := { fr.e with pq := fr.e.pq.drop q.length, pqAt := some s.free }, pre := [.free (s.free + 1024)] }))) := by
    refine (fireProg_fires h).trans ?_
    cases hbound : s.pqBound fr with
    | none => simp only [hbound ▸ hl, hnone hbound, Bool.false_eq_true, if_false, q]
    | some b =>
      obtain ⟨hlw, hp⟩ := hsome b hbound
      simp only [hbound ▸ hl, hlw, hp, ne_eq, not_true, Bool.false_eq_true, if_false, q]
  rw [outcome]
  split
  next => exact congrArg Host.Outcome.next (Fire.finish_plain rfl rfl)
  next => exact congrArg Host.Outcome.next (Fire.finish_pre rfl)

/-- SAMO, SPND, PQIN and PQOUT complete. -/
theorem queueOps_complete : queueOpsComplete := by
  intro s f fr
  refine ⟨fun h x b n hx hb hw hl hin => ?samo, fun h => ?spnd, fun h a ha hw hcrd => ?pqin,
    fun h => ⟨fun hmd => ?all, fun hmd b hb hlw hp => ?bounded⟩⟩
  all_goals obtain ⟨rfl, -⟩ := State.fireOf_eq_some h.1
  case samo =>
    refine fireWhen_done h ?_
    simp only [State.withAB_some hx hb, Fire.indexed_fits hw hl]
    exact ranged_within hin _
  case spnd => exact fire_lands h rfl rfl rfl
  case pqin =>
    refine fireWhen_done h ?_
    simp only [State.withA_some ha, Fire.widthOk_fits hw, hcrd, Bool.not_true, Bool.false_eq_true, if_false]
  case all =>
    have hbound : s.pqBound fr = none := if_neg (by simp [hmd])
    exact execPqout_takes h (by rw [hbound]; rfl) (fun _ => hmd) (by simp [hbound])
  case bounded =>
    have hbound : s.pqBound fr = some b := (if_pos hmd).trans hb
    exact execPqout_takes h (by rw [hbound]; rfl) (by simp [hbound]) (by simp [hbound, hlw, hp])

/-- Fields that are all zero pack to zero. -/
theorem packFields_zero {l : List (Nat × Nat)} (h : ∀ x ∈ l, x.2 = 0) : packFields l = 0 := by
  induction l with
  | nil => rfl
  | cons x l ih =>
    obtain ⟨hx, hl⟩ := List.forall_mem_cons.1 h
    simp [packFields, hx, ih hl]

/-- Where every unpoisoned coordinate is within the table, the mask of those that are not is empty (spec 12 R277). -/
theorem Fire.coordinateMask_zero (hin : ∀ i < a.pkt.lanes, i % 2 = 0 → (a.raw i).2 = false → (a.raw i).1 ≤ fr.desc.cntm 0) :
    packFields ((((List.range a.pkt.lanes).map a.raw).zipIdx).map (fun x =>
      (1, bit01 (x.2 % 2 = 0 && !x.1.2 && decide (fr.desc.cntm 0 < x.1.1))))) = 0 := by
  refine packFields_zero ?_
  simp only [zipIdx_map_range, List.forall_mem_map, List.mem_range]
  intro i hi
  simp only [bit01, ite_eq_right_iff, Bool.and_eq_true, decide_eq_true_eq, Bool.not_eq_true', one_ne_zero, imp_false]
  rintro ⟨⟨heven, hpois⟩, hlt⟩
  exact absurd (hin i hi heven hpois) (by omega)

theorem poisonedCount_coordinates (l : List (PqEntry × Bool)) :
    poisonedCount (l.map (fun x => (x.1.key.toNat, x.2))) = (l.filter (fun x => x.2)).length := by
  simp only [poisonedCount, List.filter_map, List.length_map, Function.comp_def]

/-- DELTA completes on a head that is not DATA, and on entries whose coordinates are within the table. -/
theorem delta_completes : deltaCompletes := by
  intro s f fr a h ha
  refine ⟨fun hkind => ?passes, fun hkind hcrd hw hin => ?entries⟩
  case passes =>
    refine fireWhen_lands h ?_ rfl rfl
    simp only [State.withA_some ha, hkind, Bool.not_false, if_true]
    rfl
  case entries =>
    intro k fix q p
    refine fireWhen_done h ?_
    simp only [State.withA_some ha, hkind, hcrd, Bool.not_true, Bool.false_eq_true, if_false, Fire.widthOk_fits hw, Fire.coordinateMask_zero hin,
      poisonedCount_coordinates, bits_low, ne_eq, not_true]
    by_cases hq : q.2 = []
    case pos => simp only [p, if_pos hq]; exact if_pos hq
    case neg => simp only [p, if_neg hq]; exact if_neg hq

/-- Settles O23: the four operations on the scratchpad, and DELTA. -/
theorem scratchOpsComplete : Obligations.ScratchOpsComplete := ⟨queueOps_complete, delta_completes⟩

end Sys2Proof.Machine
end

section
/-! SUPPORT. The loads, stores, atomics and fences of stream elements (spec 09 R192 to R206, 15 R343 to R356). -/

namespace Sys2Proof.Machine

variable {s : State} {f : Slot} {fr : Fire} {a b x : Opnd} {n : Nat}

/-- LDS, LDX, STS and STX issue their accesses once every piece passes its checks. -/
theorem streams_complete : streamsComplete := by
  intro s f fr h w g
  obtain ⟨rfl, -⟩ := State.fireOf_eq_some h.1
  refine ⟨fun ps hps => ?lds, fun x hx hin ps hps => ?ldx, fun a ps st ha hw hl hps hst => ?sts,
    fun x b n hx hb hw hl hin ps st hps hst => ?stx⟩
  case lds => exact fireWhen_landsAfter h (passed_ok hps _) rfl
  case ldx => exact fireWhen_landsAfter h ((State.withA_some hx _).trans ((ranged_within hin _).trans (passed_ok hps _))) rfl
  case sts =>
    refine fireWhen_landsAfter h ?_ rfl
    simp only [State.withA_some ha, Fire.affineLength_fits hw hl]
    rw [Fire.affineItems, passed_ok hps, Opnd.raws, passed_ok hst]
    rfl
  case stx =>
    refine fireWhen_done h ?_
    simp only [State.withAB_some hx hb, Fire.indexed_fits hw hl]
    rw [ranged_within hin, passed_ok hps, List.length_map, List.length_range, passed_ok hst]
    rfl

/-- A firing with nothing to wait for, whose pieces' cores are awake and can be reached, runs on. -/
theorem Fire.whenClear_clear {wr : Bool} {fence : Option Nat} {ps : List (Nat × Piece)} (hwait : s.mustWait fr.key wr fence ps = false)
    (hgate : ps.any (fun p => (s.gatedFor p.2.x.pkg p.2.x.pa).isSome) = false) (hcut : s.cutPiece (ps.map (fun p => p.2)) = none) (k : Outc) :
    fr.whenClear s wr fence ps k = k := by
  simp only [Fire.whenClear, hwait, hgate, hcut, Bool.false_eq_true, if_false]

/-- A firing that has every answer runs on with the bytes of its pieces, and has asked for nothing (spec 18 R429). -/
theorem Fire.gathers_answered {op : PeerOp} {arg : Nat} {data : List (Byte × Bool)} {ps : List Piece} (h : s.lacking fr.e.asks ps = [])
    (k : Fire → List Byte → Bool → Outc) :
    fr.gathers s op arg data ps k =
      (let l := s.fetchFrom fr.e.asks s.free ps
       k { fr with e := { fr.e with asks := [] } } (l.map (fun b => b.1)) (l.any (fun b => b.2))) := by
  simp only [Fire.gathers, h, ne_eq, not_true, if_false]

/-- The firing whose requests to other packages have all been answered: it keeps none of them. -/
def Fire.answered (fr : Fire) : Fire := { fr with e := { fr.e with asks := [] } }

/-- A firing lands alike whether or not it keeps its requests: what its outcome leaves in the element counts. -/
theorem fireWhen_landsAnswered {ready : Fire → State → Bool} {g : Fire → State → Outc} {d : Done} {l : List Effect}
    (h : Fires f ownGuard ready s fr) (hd : g fr s = .done { d with pre := l }) (he : d.errs = 0) :
    fireWhen f ready g s = .next (fr.answered.landed d (s.apply l)) :=
  fireWhen_landsAfter (fr := fr) h hd he

theorem ranged_one {limit i : Nat} (h : i ≤ limit) (p : Bool) (k : Outc) : ranged limit [(i, p)] k = k :=
  ranged_within (by simp [h]) k

/-! AMO where its checks pass and nothing is left to wait for. -/
section Atomic

variable {p : Piece} {l : List Piece}

/-- The operation is made at once on bytes of this package; another package's answer is taken (spec 09 R194, 18 R429). -/
theorem execAmo_clear (h : Fires f ownGuard always s fr) (hx : s.opA fr = some x) (hb : s.opB fr = some b)
    (hw : badWidth (fmtLw fr.fmt) [b] = none) (hp : x.bp 0 = false) (hin : x.nat 0 ≤ fr.desc.cntm 0) (hcas : fr.imm 4 4 = 9 → b.count = 2)
    (hck : s.checkPart (s.fabWho fr.key fr.scope) .atomic ((fr.desc.entry (x.nat 0)).headD 0) fr.desc.laneBytes = .ok (p :: l))
    (href : p.x.pkg = s.pkgNum → atomicRefused p.x.pa (fr.imm 4 4) = false) (hwait : s.mustWait fr.key true fr.amoFence [(0, p)] = false)
    (hgate : s.gatedFor p.x.pkg p.x.pa = none) (hcut : s.cutPiece [p] = none) :
    let size := fr.desc.laneBytes
    let v2 := if fr.imm 4 4 = 9 then b.bl 1 else 0
    let pois := b.bp 0 || (fr.imm 4 4 = 9 && b.bp 1)
    let reach := s.reach fr.core (s.tcidOf fr.key) true p
    let q := s.atomic p.x.kid p.x.pa size (fr.imm 4 4) (b.bl 0) v2 pois (s.elemRole fr.key)
    exec (.amo f) s = .next (s.apply (fr.settle s (
      if p.x.pkg ≠ s.pkgNum then
        fr.gathers s .atomic (fr.imm 4 4) ((leBytes size (b.bl 0) ++ leBytes size v2).map (fun y => (y, pois))) [p]
          (fun fr l old => .done (fr.oneLane (leNat l) (old || pois) reach))
      else .done (fr.oneLane q.1 (q.2.1 || pois) (reach ++ q.2.2))))) := by
  have hcount : ¬ (fr.imm 4 4 = 9 ∧ b.count ≠ 2) := fun hc => hc.2 (hcas hc.1)
  have hallowed : ¬ (p.x.pkg = s.pkgNum ∧ atomicRefused p.x.pa (fr.imm 4 4) = true) := fun hc => by simp [href hc.1] at hc
  have hgate' : [((0 : Nat), p)].any (fun p => (s.gatedFor p.2.x.pkg p.2.x.pa).isSome) = false := by simp [hgate]
  refine (fireProg_fires h).trans ?_
  simp only [State.withAB_some hx hb, Fire.widthOk_fits hw, if_neg hcount, ranged_one hin, hp, Bool.false_eq_true, if_false]
  rw [passed_ok hck]
  simp only [if_neg hallowed]
  rw [Fire.whenClear_clear hwait hgate' hcut]
  rfl

end Atomic

/-- LDA, STA and AMO act on what memory holds, once nothing is left to wait for. -/
theorem ordered_complete : orderedComplete := by
  intro s f fr x h hx hp hin w items answered
  obtain ⟨rfl, -⟩ := State.fireOf_eq_some h.1
  refine ⟨fun ps hps hlack hwait hgate hcut => ?lda, fun b hb hw => ⟨fun ps st hps hst hsc => ?sta, fun p l hcas hck href hwait hgate hcut => ?amo⟩⟩
  case lda =>
    refine fireWhen_landsAnswered (fr := fr) h ?_ rfl
    simp only [State.withA_some hx, ranged_one hin, hp, Bool.false_eq_true, if_false, Fire.laneItems]
    rw [passed_ok hps, Fire.whenClear_clear hwait hgate hcut, Fire.gathers_answered hlack]
    rfl
  case sta =>
    have hperformed : ¬ (decide (fr.order = 3) && decide (s.unperformed fr.key fr.scope ≠ [])) = true := by simpa using hsc
    refine fireWhen_landsAfter h ?_ rfl
    simp only [State.withAB_some hx hb, Fire.widthOk_fits hw, ranged_one hin, hp, Bool.false_eq_true, if_false, Fire.laneItems]
    rw [passed_ok hps, passed_ok hst, if_neg hperformed]
    rfl
  case amo =>
    intro pois done reach
    refine ⟨fun hpkg => ?here, fun hpkg hlack => ?there⟩
    all_goals rw [execAmo_clear h hx hb hw hp hin hcas hck href hwait hgate hcut]
    case here =>
      rw [if_neg (not_not.2 hpkg)]
      exact congrArg Host.Outcome.next (Fire.finish_pre rfl)
    case there =>
      rw [if_pos hpkg, Fire.gathers_answered hlack]
      exact congrArg Host.Outcome.next (Fire.finish_pre (fr := fr) rfl)

/-- Settles O24: the accesses that are issued, and those that act at once. -/
theorem streamAccessesComplete : Obligations.StreamAccessesComplete := ⟨streams_complete, ordered_complete⟩

/-- MCST issues its store behind the copies, PREF fills lines, FENCE notes what is issued or waits for none. -/
theorem fences_complete : fencesComplete := by
  intro s f fr h
  refine ⟨fun a b ha hb hw hsize hp hin ps st hps hst => ?mcst, fun x hx => ?pref, fun ho => ?acq, fun ho => ?rel, fun h1 h2 hnone => ?sc⟩
  case mcst =>
    refine fireWhen_landsAfter h ?_ rfl
    simp only [State.withAB_some ha hb, Fire.widthOk_fits hw, if_neg (not_lt.2 hsize), ranged_one hin, hp, Bool.false_eq_true, if_false]
    rw [passed_ok hps, Opnd.raws, passed_ok hst, bits_low]
    rfl
  case pref => exact fireWhen_landsAfter h (State.withA_some hx _) rfl
  case acq => exact fire_lands h (if_pos ho) rfl rfl
  case rel => exact fire_lands h ((if_neg (by omega)).trans (if_pos ho)) rfl rfl
  case sc => exact fire_lands h ((if_neg h1).trans ((if_neg h2).trans (if_neg (not_not.2 hnone)))) rfl rfl

/-- What a fence of classes still watches (spec 09 R205, R206): of what it watched from its start, all that is not finished. -/
def Fire.watched (fr : Fire) (s : State) (start : List Nat) : List Nat :=
  (if fr.e.busy = some fr.n then fr.e.watch else start).filter (fun i => (s.unfinished fr.core).contains i)

theorem Fire.watches_eq (fr : Fire) (s : State) (start : List Nat) :
    fr.watches s start = if fr.watched s start = [] then .done { fr.plain with e := { fr.e with watch := [] } }
      else .wait { fr.e with watch := fr.watched s start } [] := rfl

theorem Fire.watched_begins {start : List Nat} (hbusy : fr.e.busy = none) (h : start = []) : fr.watched s start = [] := by
  simp [Fire.watched, hbusy, h]

theorem Fire.watched_finished {start : List Nat} (hbusy : fr.e.busy = some fr.n) (h : ∀ i ∈ fr.e.watch, i ∉ s.unfinished fr.core) :
    fr.watched s start = [] := by
  simpa [Fire.watched, hbusy, List.filter_eq_nil_iff] using h

/-- A fence of classes that watches nothing more completes. -/
theorem fire_watches_done {start : Fire → State → List Nat} (h : Fires f ownGuard always s fr) (hl : fr.watched s (start fr s) = []) :
    fire f (fun fr s => fr.watches s (start fr s)) s = .next (fr.landed { fr.plain with e := { fr.e with watch := [] } } s) :=
  fire_lands h ((fr.watches_eq s _).trans (if_pos hl)) rfl rfl

/-- One that watches something more goes on. -/
theorem fire_watches_wait {start : Fire → State → List Nat} (h : Fires f ownGuard always s fr) (hl : fr.watched s (start fr s) ≠ []) :
    fire f (fun fr s => fr.watches s (start fr s)) s = .next { s with
      elems := Map.set Elem.reset s.elems fr.key
        { fr.e with watch := fr.watched s (start fr s), busy := some fr.n, left := 0, cons := s.consOf fr.key fr.e } } := by
  refine (fireProg_fires h).trans ?_
  rw [fr.watches_eq, if_neg hl]
  rfl

/-- XFENCE and DRAIN complete with nothing left of what they watch. -/
theorem classFences_complete : classFencesComplete := by
  intro s f fr h done
  refine ⟨fun hbusy => ⟨fun hnone => ?xfence, fun hnone => ?drain⟩, fun hbusy hdone => ⟨?xfenceOn, ?drainOn⟩⟩
  case xfence => exact fire_watches_done h (Fire.watched_begins hbusy hnone)
  case drain => exact fire_watches_done h (Fire.watched_begins hbusy hnone)
  case xfenceOn => exact fire_watches_done h (Fire.watched_finished hbusy hdone)
  case drainOn => exact fire_watches_done h (Fire.watched_finished hbusy hdone)

/-- Until then they go on. -/
theorem classFences_wait : classFencesWait := by
  intro s f fr h left goesOn
  refine ⟨fun l hl hne => ?xfence, fun l hl hne => ?drain⟩
  all_goals subst hl
  case xfence => exact fire_watches_wait h hne
  case drain => exact fire_watches_wait h hne

/-- Settles O25: MCST, PREF and FENCE; a fence of classes that completes; one that goes on. -/
theorem fencesComplete : Obligations.FencesComplete := ⟨fences_complete, classFences_complete, classFences_wait⟩

end Sys2Proof.Machine
end

section
/-! SUPPORT. Semaphores, barriers and engine slots as stream elements use them (spec 09 R208 to R213). -/

namespace Sys2Proof.Machine

variable {s : State} {f : Slot} {fr : Fire} {a b x : Opnd} {n : Nat}

/-- Settles O26: the waits that are ready give what the object holds, the others issue their operation. -/
theorem synchronisationComplete : Obligations.SynchronisationComplete := by
  intro s f fr a ha sem bar acts
  refine ⟨fun h => ?swait, fun h => ?bwait, fun h => ⟨?ssig, ?sinit, fun hlw hlanes hmax => ?binit, fun hmin hmax => ?barv⟩⟩
  all_goals obtain ⟨rfl, -⟩ := State.fireOf_eq_some h.1
  case swait => exact fireWhen_lands h (State.withA_some ha _) rfl rfl
  case bwait => exact fireWhen_lands h (State.withA_some ha _) rfl rfl
  case ssig => exact fireWhen_landsAfter h (State.withA_some ha _) rfl
  case sinit => exact fireWhen_landsAfter h (State.withA_some ha _) rfl
  case binit =>
    refine fireWhen_landsAfter h ((State.withA_some ha _).trans ?_) rfl
    have hrange : ¬ (decide (4095 < (a.raw 0).1) && !(a.raw 0).2) = true := by simp [hmax]
    rw [if_neg (not_not.2 hlw), if_neg (by omega), if_neg hrange, Nat.mod_eq_of_lt (by omega)]
    rfl
  case barv =>
    refine fireWhen_landsAfter h ((State.withA_some ha _).trans ?_) rfl
    have hrange : ¬ ((decide (a.nat 0 = 0) || decide (4095 < a.nat 0)) && !a.bp 0) = true := by simp; omega
    rw [if_neg hrange, Nat.mod_eq_of_lt (by omega)]
    rfl

/-- Settles O27: ECMD waits with its command offered, ERESP takes the oldest record. -/
theorem engineSlotsComplete : Obligations.EngineSlotsComplete := by
  intro s f fr
  refine ⟨fun h a b ha hb hla hlb hpa hpb => ?ecmd, fun h t rest r htracked hdone => ?eresp⟩
  all_goals obtain ⟨rfl, -⟩ := State.fireOf_eq_some h.1
  case ecmd =>
    intro c k hoffered hloads
    have hsize : ¬ (a.pkt.lanes * a.pkt.width ≠ 256 ∨ b.pkt.lanes * b.pkt.width ≠ 256) := by simp [hla, hlb]
    have hwait : ¬ (s.offered fr.key (engineOf c) || (s.consOf fr.key fr.e && s.pending.any (fun p => p.key = fr.key && p.op.isLoad))) = true := by
      simp [hoffered, hloads]
    refine (fireProg_fires h).trans ?_
    simp only [State.withAB_some ha hb, if_neg hsize, hpa, hpb, Bool.or_self, Bool.false_eq_true, if_false]
    exact congrArg (fun o => Host.Outcome.next (s.apply (fr.settle s o))) (if_neg hwait)
  case eresp =>
    refine fireWhen_lands h ?_ rfl rfl
    simp only [htracked, hdone]

end Sys2Proof.Machine
end

section
/-! SUPPORT. The addresses of scratchpads (spec 01 R18, R21, R22): which block an address of one lies in. -/

namespace Sys2Proof.Machine

variable {key x e : Nat}

/-- The window addresses of the scratchpad of a scratchpad element. -/
def inPad (key x : Nat) : Prop := spadBase (coreOf key) (elemIx key) ≤ x ∧ x < spadBase (coreOf key) (elemIx key) + 32768

theorem inPad_padAddr (key : Nat) (a : Int) : inPad key (padAddr key a) := by
  have hoff : spadOff a < 32768 := by
    simp only [spadOff, lowBits]
    omega
  exact ⟨Nat.le_add_right _ _, Nat.add_lt_add_left hoff _⟩

/-- Scratchpad elements stand in columns 1 and 2 (spec 01 R13). -/
theorem column_of_siteType_se (h : siteType e = .se) : e % 16 = 1 ∨ e % 16 = 2 := by
  simp only [siteType] at h
  split_ifs at h
  all_goals simp at h
  omega

theorem spadElem_spadIndex (he : e < 128) (h : siteType e = .se) : spadIndex e < 16 ∧ spadElem (spadIndex e) = e := by
  have := column_of_siteType_se h
  simp only [spadIndex, spadElem]
  omega

theorem spadIndex_spadElem {j : Nat} (hj : j < 16) : spadElem j < 128 ∧ spadIndex (spadElem j) = j := by
  simp only [spadIndex, spadElem]
  omega

/-- Of the offsets of a window those of the scratchpads are in their block, and none is in HBM (spec 01 R21). -/
theorem windowPlace_cases (core off : Nat) :
    (0x200000 ≤ off ∧ off < 0x280000 ∧ windowPlace core off = ⟨.spad, core, off - 0x200000⟩)
    ∨ ((off < 0x200000 ∨ 0x280000 ≤ off) ∧ (windowPlace core off).block ∉ [Area.spad, Area.hbm]) := by
  by_cases hmem : off < 0x200000
  case pos => exact .inr ⟨.inl hmem, by simp [windowPlace, hmem]⟩
  case neg =>
    by_cases hspad : off < 0x280000
    case pos => exact .inl ⟨by omega, hspad, by simp only [windowPlace, if_neg hmem, if_pos hspad]⟩
    case neg =>
      refine .inr ⟨.inr (by omega), ?_⟩
      simp only [windowPlace, if_neg hmem, if_neg hspad]
      repeat' refine iteInduction (motive := fun p : Place => p.block ∉ [Area.spad, Area.hbm]) (fun _ => ?_) (fun _ => ?_)
      all_goals simp

/-- What an address is: in HBM, in a core's window, or in neither (spec 01 R18). -/
theorem placeOf_cases (x : Nat) :
    (x < 0x6000000000 ∧ placeOf x = ⟨.hbm, 0, x⟩)
    ∨ (∃ core < 384, ∃ off < 0x1000000, x = winBase core + off ∧ placeOf x = windowPlace core off)
    ∨ (0x800000000000 ≤ x → 0x800180000000 ≤ x) ∧ ((placeOf x).block = .control ∨ (placeOf x).block = .hole) := by
  by_cases hhbm : x < 0x6000000000
  case pos => exact .inl ⟨hhbm, if_pos hhbm⟩
  case neg =>
    right
    by_cases hwin : 0x800000000000 ≤ x ∧ x < 0x800180000000
    case pos =>
      exact .inl ⟨(x - 0x800000000000) / 0x1000000, by omega, (x - 0x800000000000) % 0x1000000, by omega, by simp only [winBase]; omega,
        (if_neg hhbm).trans (if_pos hwin)⟩
    case neg =>
      refine .inr ⟨by omega, ?_⟩
      simp only [placeOf, if_neg hhbm, if_neg hwin]
      split <;> simp

theorem lt_of_placeOf_hbm (h : (placeOf x).block = .hbm) : x < 0x6000000000 := by
  rcases placeOf_cases x with ⟨hx, -⟩ | ⟨core, -, off, -, -, hplace⟩ | ⟨-, hblock | hblock⟩
  · exact hx
  · rw [hplace] at h
    rcases windowPlace_cases core off with ⟨-, -, hspad⟩ | ⟨-, hother⟩
    · simp [hspad] at h
    · simp [h] at hother
  · simp [hblock] at h
  · simp [hblock] at h

/-- An address whose block is a scratchpad lies in that of the element that the block names. -/
theorem inPad_of_placeOf_spad (h : (placeOf x).block = .spad) : inPad (ekey (placeOf x).core (spadElem ((placeOf x).off / 0x8000))) x := by
  rcases placeOf_cases x with ⟨-, hplace⟩ | ⟨core, -, off, -, hx, hplace⟩ | ⟨-, hblock | hblock⟩
  · simp [hplace] at h
  · rcases windowPlace_cases core off with ⟨hlo, hhi, hspad⟩ | ⟨-, hother⟩
    · obtain ⟨helem, hindex⟩ := spadIndex_spadElem (j := (off - 0x200000) / 0x8000) (by omega)
      have hcoreOf : coreOf (ekey core (spadElem ((off - 0x200000) / 0x8000))) = core := by simp only [coreOf, ekey]; omega
      have helemIx : elemIx (ekey core (spadElem ((off - 0x200000) / 0x8000))) = spadElem ((off - 0x200000) / 0x8000) := by
        simp only [elemIx, ekey]; omega
      simp only [inPad, hplace, hspad, hcoreOf, helemIx, spadBase, hindex]
      omega
    · simp [← hplace, h] at hother
  · simp [hblock] at h
  · simp [hblock] at h

/-- An address of a scratchpad lies in the block of scratchpads, as one of its element, or in no block of a core's window. -/
theorem placeOf_inPad (hsite : siteType (elemIx key) = .se) (h : inPad key x) :
    ((placeOf x).block = .spad ∧ ekey (placeOf x).core (spadElem ((placeOf x).off / 0x8000)) = key)
    ∨ (placeOf x).block = .control ∨ (placeOf x).block = .hole := by
  obtain ⟨hindex, helem⟩ := spadElem_spadIndex (e := elemIx key) (Nat.mod_lt key (by decide)) hsite
  simp only [inPad, spadBase, winBase] at h
  rcases placeOf_cases x with ⟨hx, -⟩ | ⟨core, hcore, off, hoff, hx, hplace⟩ | ⟨-, hblock⟩
  · omega
  · simp only [winBase] at hx
    have hcoreOf : core = coreOf key := by omega
    rcases windowPlace_cases core off with ⟨hlo, hhi, hspad⟩ | ⟨hrange, -⟩
    · have hindexOf : (off - 0x200000) / 0x8000 = spadIndex (elemIx key) := by omega
      rw [hplace, hspad, hindexOf, helem, hcoreOf]
      exact .inl ⟨rfl, Nat.div_add_mod key 128⟩
    · omega
  · exact .inr hblock

end Sys2Proof.Machine
end

section
/-! SUPPORT. What a firing that stores to its scratchpad leaves unchanged (spec 09 R189, R191 to R193, R195, R198). -/

namespace Sys2Proof.Machine

variable {s t u : State} {f : Slot} {fr : Fire} {key : Nat} {P Q : Nat → Prop}

/-! Bytes read from other blocks than the registers. -/
section Bytes

variable {kid a : Nat}

theorem State.memBytes_congr {n : Nat} (h : ∀ i < n, t.memByte (a + i) = s.memByte (a + i)) : t.memBytes a n = s.memBytes a n := by
  induction n generalizing a with
  | zero => rfl
  | succ n ih =>
    have hrest : t.memBytes (a + 1) n = s.memBytes (a + 1) n := ih (fun i hi => by simpa [Nat.add_assoc, Nat.add_comm 1] using h (i + 1) (by omega))
    simp only [State.memBytes, hrest, show t.memByte a = s.memByte a from h 0 (by omega)]

theorem State.byteAt_coreMem (h : (placeOf a).block = .coreMem) : s.byteAt kid a = s.memByte a := by simp only [State.byteAt, h]

theorem State.byteAt_image (h : (placeOf a).block = .image) : s.byteAt kid a = s.memByte a := by simp only [State.byteAt, h]

theorem State.byteAt_spad (h : (placeOf a).block = .spad) :
    s.byteAt kid a = s.spadByte (ekey (placeOf a).core (spadElem ((placeOf a).off / 0x8000))) a := by
  simp only [State.byteAt, h]

theorem State.byteAt_hbm (h : (placeOf a).block = .hbm) : s.byteAt kid a = byteOf (s.hbmSector kid (a / 32)).toNat (a % 32) := by
  simp only [State.byteAt, h]

/-- A byte of HBM reads the same where its sector, the keys and the key of the sector are the same (spec 02 R43, R44). -/
theorem State.byteAt_hbm_congr (h : (placeOf a).block = .hbm) (hmem : ∀ x < 0x6000000000, t.memByte x = s.memByte x)
    (hkey : t.sectorKey = s.sectorKey) (hslots : t.keySlots = s.keySlots) : t.byteAt kid a = s.byteAt kid a := by
  have ha := lt_of_placeOf_hbm h
  have hbytes : t.memBytes (32 * (a / 32)) 32 = s.memBytes (32 * (a / 32)) 32 := State.memBytes_congr (fun i hi => hmem _ (by omega))
  have hkeyOf : t.keyOf kid = s.keyOf kid := by simp only [State.keyOf, hslots]
  rw [State.byteAt_hbm h, State.byteAt_hbm h, State.hbmSector, hbytes, hkey, hkeyOf, State.hbmSector]

theorem State.spadByte_congr (hat : (t.elem key).pqAt = (s.elem key).pqAt) (hmem : t.memByte a = s.memByte a) :
    t.spadByte key a = s.spadByte key a := by
  simp only [State.spadByte, hat, hmem]

end Bytes

/-! Changes that only store. -/
section Stores

/-- From s to t bytes at addresses of P were stored, and sectors poisoned or mended; nothing else changed. -/
def Stored (P : Nat → Prop) (s t : State) : Prop :=
  t = { s with mem := t.mem, poison := t.poison, softErr := t.softErr } ∧ ∀ x, ¬ P x → t.memByte x = s.memByte x

/-- A change that only stores, at addresses of P. -/
def Effect.storesIn (P : Nat → Prop) : Effect → Prop
  | .bytes a l => ∀ j < l.length, P (a + j)
  | .clear lo hi => ∀ x, lo ≤ x → x < hi → P x
  | .poison _ _ => True
  | .softErr _ _ => True
  | _ => False

theorem Stored.refl (P : Nat → Prop) (s : State) : Stored P s s := ⟨rfl, fun _ _ => rfl⟩

theorem Stored.trans (h : Stored P s t) (k : Stored P t u) : Stored P s u := by
  obtain ⟨ht, hmem⟩ := h
  obtain ⟨hu, hmem'⟩ := k
  refine ⟨?_, fun x hx => (hmem' x hx).trans (hmem x hx)⟩
  rw [hu, ht]

theorem Stored.mono (h : Stored P s t) (hPQ : ∀ x, P x → Q x) : Stored Q s t := ⟨h.1, fun x hx => h.2 x (fun hp => hx (hPQ x hp))⟩

theorem Stored.perform {e : Effect} (h : e.storesIn P) : Stored P s (s.perform e) := by
  cases e with
  | bytes a l =>
    refine ⟨rfl, fun x hx => writeBytes_other l s.mem a x ?_⟩
    by_contra hin
    have hj := h (x - a) (by omega)
    rw [show a + (x - a) = x by omega] at hj
    exact hx hj
  | clear lo hi =>
    refine ⟨rfl, fun x hx => clearRange_other s.mem lo hi x ?_⟩
    by_contra hin
    exact hx (h x (by omega) (by omega))
  | poison sector b => exact ⟨rfl, fun _ _ => rfl⟩
  | softErr sector n => exact ⟨rfl, fun _ _ => rfl⟩
  | _ => exact h.elim

theorem Stored.apply {w : List Effect} (h : ∀ e ∈ w, e.storesIn P) : Stored P s (s.apply w) := by
  induction w generalizing s with
  | nil => exact Stored.refl P s
  | cons e w ih =>
    obtain ⟨he, hw⟩ := List.forall_mem_cons.1 h
    exact (Stored.perform he).trans (ih hw)

/-- A run of addressed items is a part of them, one address after another. -/
theorem mem_of_runsOf {α : Type} {l : List (Int × α)} {r : Int × List α} (h : r ∈ runsOf l) :
    ∀ j < r.2.length, ∃ y ∈ l, y.1 = r.1 + (j : Int) := by
  induction l generalizing r with
  | nil => simp [runsOf] at h
  | cons z l ih =>
    obtain ⟨a, x⟩ := z
    have inTail : ∀ q ∈ runsOf l, ∀ j < q.2.length, ∃ y ∈ (a, x) :: l, y.1 = q.1 + (j : Int) := fun q hq j hj => by
      obtain ⟨y, hy, heq⟩ := ih hq j hj
      exact ⟨y, List.mem_cons_of_mem _ hy, heq⟩
    have alone : ∀ j < [x].length, ∃ y ∈ (a, x) :: l, y.1 = a + (j : Int) := fun j hj => by
      obtain rfl : j = 0 := by simpa using hj
      exact ⟨(a, x), List.mem_cons_self, by simp⟩
    rw [runsOf] at h
    split at h
    next => obtain rfl := List.mem_singleton.1 h; exact alone
    next b ys rest hruns =>
      split at h
      next hb =>
        rcases List.mem_cons.1 h with rfl | h
        · intro j hj
          cases j with
          | zero => exact ⟨(a, x), List.mem_cons_self, by simp⟩
          | succ j =>
            obtain ⟨y, hy, heq⟩ := inTail (b, ys) (by simp [hruns]) j (by simpa using hj)
            exact ⟨y, hy, by push_cast; omega⟩
        · exact inTail r (by simp [hruns, h])
      next =>
        rcases List.mem_cons.1 h with rfl | h
        · exact alone
        · exact inTail r (by simpa [hruns] using h)

/-- A write at scratchpad offsets stores at their addresses. -/
theorem padWrite_storesIn {l : List (Int × Byte × Bool)} {e : Effect} (he : e ∈ padWrite key l) :
    e.storesIn (fun x => ∃ y ∈ l, x = padAddr key y.1) := by
  rcases List.mem_append.1 he with he | he
  · obtain ⟨r, hr, rfl⟩ := List.mem_map.1 he
    intro j hj
    obtain ⟨z, hz, hzero⟩ := mem_of_runsOf hr 0 (by omega)
    obtain ⟨z', hz', hj'⟩ := mem_of_runsOf hr j hj
    obtain ⟨y, hy, rfl⟩ := List.mem_map.1 hz
    obtain ⟨y', hy', rfl⟩ := List.mem_map.1 hz'
    exact ⟨y', hy', by omega⟩
  · obtain ⟨sec, -, he⟩ := List.mem_flatMap.1 he
    dsimp only at he
    split at he
    · obtain rfl := List.mem_singleton.1 he
      trivial
    · split at he
      · rcases List.mem_cons.1 he with rfl | he
        · trivial
        · obtain rfl := List.mem_singleton.1 he
          trivial
      · simp at he

theorem Effect.storesIn_mono {e : Effect} (h : e.storesIn P) (hPQ : ∀ x, P x → Q x) : e.storesIn Q := by
  cases e with
  | bytes a l => exact fun j hj => hPQ _ (h j hj)
  | clear lo hi => exact fun x hlo hhi => hPQ x (h x hlo hhi)
  | poison sector b => trivial
  | softErr sector n => trivial
  | _ => exact h.elim

/-- Lanes stored at stored addresses. -/
theorem padWrite_laneBytesOf_storesIn {wb : Nat} {as : List Int} {lanes : List (Nat × Bool)} {e : Effect}
    (he : e ∈ padWrite key (laneBytesOf wb as lanes)) : e.storesIn (fun x => ∃ a ∈ as, x = padAddr key a) := by
  refine Effect.storesIn_mono (padWrite_storesIn he) (fun x => ?_)
  rintro ⟨y, hy, rfl⟩
  obtain ⟨q, hq, rfl⟩ := List.mem_map.1 hy
  exact ⟨q.1, (List.of_mem_zip hq).1, rfl⟩

end Stores

/-! The firing (spec 07 R159, 09 R195). -/
section Firing

variable {w : List Effect} {d : Done} {e : Elem}

theorem State.mem_wf (hs : s.canonical = true) : Memory.wf s.mem = true := by
  obtain ⟨hmemories, -, -⟩ := s.canonical_iff.1 hs
  simp only [State.memoriesWf, Bool.and_eq_true] at hmemories
  tauto

theorem get_writeBytes_range {m : List Host.Cell} (hm : Memory.wf m = true) (a : Nat) {i n : Nat} (g : Nat → Byte) (hi : i < n) :
    Map.get 0 (writeBytes m a ((List.range n).map g)) (a + i) = g i := by
  rw [writeBytes_same _ m a i hm (by simpa using hi), List.getElem_map, List.getElem_range]

/-- A scratchpad whose arranged queue was ended holds what it read as before (spec 09 R195). -/
theorem State.apply_unqueued (hs : s.canonical = true) :
    Stored (inPad key) s (s.apply (s.unqueued key)) ∧ ∀ x, inPad key x → (s.apply (s.unqueued key)).memByte x = s.spadByte key x := by
  cases hat : (s.elem key).pqAt with
  | none => simp only [State.unqueued, hat, State.apply_nil, State.spadByte]; exact ⟨Stored.refl _ s, fun _ _ => trivial⟩
  | some n =>
    have hun : s.unqueued key = [.bytes (spadBase (coreOf key) (elemIx key))
        ((List.range 32768).map (fun i => s.spadByte key (spadBase (coreOf key) (elemIx key) + i)))] := by simp only [State.unqueued, hat]
    rw [hun]
    refine ⟨Stored.apply (by simp [Effect.storesIn, inPad]), fun x ⟨hlo, hhi⟩ => ?_⟩
    obtain ⟨i, rfl⟩ := Nat.exists_eq_add_of_le hlo
    simp only [State.apply_cons, State.apply_nil, State.perform_bytes, State.memByte]
    rw [get_writeBytes_range (State.mem_wf hs) _ _ (Nat.add_lt_add_iff_left.1 hhi)]

/-- The element whose scratchpad is written shows of a queue what stands in the bytes, or goes on to arrange it. -/
theorem State.pqAt_padTouched : (s.padTouched key w e).pqAt = if w = [] ∨ s.pqMode key = true then e.pqAt else none := by
  unfold State.padTouched
  split <;> rfl

theorem State.padTouched_eq : s.padTouched key w e = { e with pq := (s.padTouched key w e).pq, pqAt := (s.padTouched key w e).pqAt } := by
  unfold State.padTouched
  split <;> rfl

/-- Around a write to its scratchpad an element reads every other byte of it as before, whether a queue is arranged in it or was. -/
theorem State.padPre_stored (hs : s.canonical = true) (hw : ∀ e ∈ w, e.storesIn P) (hP : ∀ x, P x → inPad key x) :
    let u := s.apply (s.padPre key w)
    Stored (inPad key) s u ∧ ∀ (t : State) x, inPad key x → ¬ P x → t.memByte x = u.memByte x
      → (t.elem key).pqAt = (s.padTouched key w (s.elem key)).pqAt → t.spadByte key x = s.spadByte key x := by
  intro u
  rw [State.pqAt_padTouched]
  by_cases hkeeps : w = [] ∨ s.pqMode key = true
  case pos =>
    have hu : u = s.apply w := by simp only [u, State.padPre, if_pos hkeeps]
    have hstored : Stored P s u := hu ▸ Stored.apply hw
    refine ⟨hstored.mono hP, fun t x _ hx hmem hat => ?_⟩
    rw [if_pos hkeeps] at hat
    exact State.spadByte_congr hat (hmem.trans (hstored.2 x hx))
  case neg =>
    obtain ⟨hv, hreads⟩ := State.apply_unqueued (key := key) hs
    have hu : u = (s.apply (s.unqueued key)).apply w := by simp only [u, State.padPre, if_neg hkeeps, State.apply_append]
    have hstored : Stored P (s.apply (s.unqueued key)) u := hu ▸ Stored.apply hw
    refine ⟨hv.trans (hstored.mono hP), fun t x hin hx hmem hat => ?_⟩
    rw [if_neg hkeeps] at hat
    simp only [State.spadByte, hat]
    exact hmem.trans ((hstored.2 x hx).trans (hreads x hin))

/-- A firing without a result for its destination moves queues and outputs, and the state register. -/
theorem Fire.after_eq (fr : Fire) (hd : d.res = none) :
    let x := fr.after d
    x = { d.e with qs := x.qs, qj := x.qj, outs := x.outs, oyDest := x.oyDest, ret := x.ret, st := x.st, busy := none } := by
  unfold Fire.after
  rw [hd]
  cases d.out with
  | none => dsimp only; rw [Fire.pops_eq]; rfl
  | some p => dsimp only; rw [Elem.push_eq, Fire.pops_eq]; rfl

/-- Counting errors changes the region of the element alone. -/
theorem State.apply_countErr (s u : State) (key n : Nat) :
    u.apply (s.countErr key n) = { u with regions := (u.apply (s.countErr key n)).regions }
    ∧ ∀ b, s.regionOf key ≠ some b → (u.apply (s.countErr key n)).region b = u.region b := by
  unfold State.countErr
  split
  next => exact ⟨rfl, fun _ _ => rfl⟩
  next =>
    cases hregion : s.regionOf key with
    | none => exact ⟨rfl, fun _ _ => rfl⟩
    | some c => exact ⟨rfl, fun b hb => Map.get_set_other _ _ (fun h => hb (by rw [h]))⟩

/-- A completed firing lands on what its other changes leave, and then counts its errors. -/
theorem Fire.apply_finish (fr : Fire) (d : Done) (s : State) :
    s.apply (fr.finish d s) = (fr.landed d (s.apply d.pre)).apply (s.countErr fr.key d.errs) := by
  simp only [Fire.finish, State.apply_append, State.apply_cons, State.apply_nil, State.perform_elem, State.perform_move, Fire.landed]

/-- A byte reads as before, if the bytes outside one scratchpad do, and the byte does as its element reads it where it lies in that scratchpad. -/
theorem State.byteAt_congr_pad {kid a : Nat} (hsite : siteType (elemIx key) = .se) (hblock : (placeOf a).block ∈ [Area.hbm, .coreMem, .spad, .image])
    (hmem : ∀ x, ¬ inPad key x → t.memByte x = s.memByte x) (hpad : inPad key a → t.spadByte key a = s.spadByte key a)
    (helem : ∀ k, k ≠ key → t.elem k = s.elem k) (hkey : t.sectorKey = s.sectorKey) (hslots : t.keySlots = s.keySlots) :
    t.byteAt kid a = s.byteAt kid a := by
  by_cases hin : inPad key a
  case pos =>
    rcases placeOf_inPad hsite hin with ⟨hspad, hown⟩ | hother | hother
    · rw [State.byteAt_spad hspad, State.byteAt_spad hspad, hown]
      exact hpad hin
    · simp [hother] at hblock
    · simp [hother] at hblock
  case neg =>
    simp only [List.mem_cons, List.not_mem_nil, or_false] at hblock
    rcases hblock with hhbm | hcore | hspad | himage
    · refine State.byteAt_hbm_congr hhbm (fun x hx => hmem x (fun hpad => ?_)) hkey hslots
      simp only [inPad, spadBase, winBase] at hpad
      omega
    · rw [State.byteAt_coreMem hcore, State.byteAt_coreMem hcore, hmem a hin]
    · have hne : ekey (placeOf a).core (spadElem ((placeOf a).off / 0x8000)) ≠ key := fun hown => hin (hown ▸ inPad_of_placeOf_spad hspad)
      rw [State.byteAt_spad hspad, State.byteAt_spad hspad]
      exact State.spadByte_congr (by rw [helem _ hne]) (hmem a hin)
    · rw [State.byteAt_image himage, State.byteAt_image himage, hmem a hin]

/-- A firing that writes its scratchpad at addresses of P keeps to its frame. -/
theorem StoreFrame.of_padWrite (hs : s.canonical = true) (hsite : siteType (elemIx fr.key) = .se) (he : fr.e = s.elem fr.key)
    (hw : ∀ e ∈ w, e.storesIn P) (hP : ∀ x, P x → inPad fr.key x) (hres : d.res = none) (hpre : d.pre = s.padPre fr.key w)
    {gens : Map Nat} (hd : d.e = s.padTouched fr.key w { fr.e with gens := gens }) : StoreFrame s (s.apply (fr.finish d s)) fr P := by
  obtain ⟨⟨hu, hout⟩, hreads⟩ := State.padPre_stored hs hw hP
  have hcanonical : (s.apply (s.padPre fr.key w)).canonical = true := State.apply_keeps State.perform_canonical s _ hs
  rw [Fire.apply_finish, hpre]
  generalize s.apply (s.padPre fr.key w) = u at hu hreads hout hcanonical
  obtain ⟨ht, hregion⟩ := State.apply_countErr s (fr.landed d u) fr.key d.errs
  generalize (fr.landed d u).apply (s.countErr fr.key d.errs) = t at ht hregion
  have hafter := Fire.after_eq fr hres
  rw [hd, State.padTouched_eq] at hafter
  have helems : t.elems = (fr.landed d u).elems := by rw [ht]
  have hown : t.elem fr.key = fr.after d := by rw [State.elem, helems]; exact Fire.landed_elem hcanonical d
  have helem (k : Nat) (hk : k ≠ fr.key) : t.elem k = s.elem k := by
    rw [State.elem, helems]
    exact (Fire.landed_elem_other d hk).trans (by rw [hu]; rfl)
  have hmem (x : Nat) : t.memByte x = u.memByte x := by rw [ht]; rfl
  have hpqAt : (t.elem fr.key).pqAt = (s.padTouched fr.key w (s.elem fr.key)).pqAt := by
    rw [hown, hafter, State.pqAt_padTouched, State.pqAt_padTouched, he]
  refine ⟨fun kid a hblock => ?bytes, helem, ?data, ?constants, fun b hb => ?regions, ?frame⟩
  case bytes =>
    refine (Classical.em (P a)).imp_right (fun ha => State.byteAt_congr_pad hsite hblock (fun x hx => (hmem x).trans (hout x hx))
      (fun hin => hreads t a hin ha (hmem a) hpqAt) helem ?_ ?_)
    all_goals rw [ht, Fire.landed, hu]
  case data => rw [hown, hafter, he]
  case constants => rw [hown, hafter, he]
  case regions =>
    rw [hregion b hb, Fire.landed, hu]
    rfl
  case frame => rw [ht, Fire.landed, hu]

/-- So does a store, whose firing steps a generator at most, writes a state bit at most, and counts errors. -/
theorem StoreFrame.of_store (hs : s.canonical = true) (hsite : siteType (elemIx fr.key) = .se) (he : fr.e = s.elem fr.key)
    (hw : ∀ e ∈ w, e.storesIn P) (hP : ∀ x, P x → inPad fr.key x) {x : Elem} (hx : x = { fr.e with gens := x.gens }) (bit : Option (Nat × Bool))
    (n : Nat) : StoreFrame s (s.apply (fr.finish { fr.plain with
      e := s.padTouched fr.key w x, stBit := bit, errs := n, pre := s.padPre fr.key w } s)) fr P :=
  StoreFrame.of_padWrite (gens := x.gens) hs hsite he hw hP rfl rfl (by rw [← hx])

end Firing

/-! The addresses of each store. -/
section Addresses

variable {a b x : Opnd} {n : Nat}

/-- The lanes of SST start one lane after another from IMM[14:0] up (spec 09 R191). -/
theorem Fire.mem_sstLanes {y : Nat × (Nat × Bool)} :
    y ∈ fr.sstLanes a ↔ ∃ i < a.pkt.lanes, (fr.imm 0 15 + i * (fr.w / 8), a.raw i) = y := by
  simp only [Fire.sstLanes, Opnd.raws, zipIdx_map_range, List.map_map, List.mem_map, List.mem_range, Function.comp_apply]

theorem Fire.sst_storesIn {p : Nat × (Nat × Bool) → Bool} {lanes : List (Nat × Bool)} :
    ∀ e ∈ padWrite fr.key (laneBytesOf (fr.w / 8)
      (((fr.sstLanes a).filter p).flatMap (fun x => (List.range (fr.w / 8)).map (fun j => ((x.1 + j : Nat) : Int)))) lanes),
    e.storesIn (fun x => ∃ i < a.pkt.lanes, ∃ j < fr.w / 8, x = padAddr fr.key ((fr.imm 0 15 + i * (fr.w / 8) + j : Nat) : Int)) := by
  refine fun e he => Effect.storesIn_mono (padWrite_laneBytesOf_storesIn he) ?_
  rintro x ⟨z, hz, rfl⟩
  obtain ⟨y, hy, hz⟩ := List.mem_flatMap.1 hz
  obtain ⟨i, hi, rfl⟩ := Fire.mem_sstLanes.1 (List.mem_of_mem_filter hy)
  obtain ⟨j, hj, rfl⟩ := List.mem_map.1 hz
  exact ⟨i, hi, j, List.mem_range.1 hj, rfl⟩

theorem Fire.scatter_storesIn : ∀ e ∈ fr.scatter ((List.range n).map (fun i => (x.bl i, x.bp i))) b,
    e.storesIn (fun y => ∃ i < n, x.bp i = false ∧ ∃ j ∈ fr.desc.entry (x.bl i), y = padAddr fr.key j) := by
  intro e he
  simp only [Fire.scatter, zipIdx_map_range, List.mem_flatMap, List.mem_map, List.mem_range] at he
  obtain ⟨-, ⟨i, hi, rfl⟩, he⟩ := he
  cases hp : x.bp i with
  | true => simp [hp] at he
  | false =>
    simp only [hp, Bool.false_eq_true, if_false] at he
    refine Effect.storesIn_mono (padWrite_laneBytesOf_storesIn he) ?_
    rintro y ⟨j, hj, rfl⟩
    exact ⟨i, hi, hp, j, hj, rfl⟩

end Addresses

/-- Settles O60: each store by the addresses that its changes store to. -/
theorem scratchpadFrame : Obligations.ScratchpadFrame := by
  intro s t f fr hs hsite
  refine ⟨fun h a ha hw hin ht => ?sst, fun h a ha hw hl ht => ?ssts, fun h x b n hx hb hw hl hin ht => ?ssct, fun h ht => ?szero⟩
  all_goals obtain ⟨rfl, he⟩ := State.fireOf_eq_some h.1
  case sst =>
    have hout : (fr.sstLanes a).filter (fun x => decide (32768 < x.1 + fr.w / 8) && !x.2.2) = [] := by
      refine List.filter_eq_nil_iff.2 (fun y hy => ?_)
      obtain ⟨i, hi, rfl⟩ := Fire.mem_sstLanes.1 hy
      simpa using hin i hi
    rw [Host.Outcome.next.inj (ht.symm.trans (execSst_stores h ha hw hout))]
    refine StoreFrame.of_store hs hsite he Fire.sst_storesIn ?_ rfl _ _
    rintro x ⟨i, -, j, -, rfl⟩
    exact inPad_padAddr _ _
  case ssts =>
    rw [Host.Outcome.next.inj (ht.symm.trans (execSsts_stores h ha hw hl))]
    refine StoreFrame.of_store hs hsite he (fun e => padWrite_laneBytesOf_storesIn) ?_ rfl _ _
    rintro x ⟨i, -, rfl⟩
    exact inPad_padAddr _ _
  case ssct =>
    have hwithin : ((List.range n).map (fun i => (x.bl i, x.bp i))).any (fun i => !i.2 && decide (fr.desc.cntm 0 < i.1)) = false := by
      simpa using hin
    rw [Host.Outcome.next.inj (ht.symm.trans (execSsct_stores h hx hb hw hl hwithin))]
    refine StoreFrame.of_store hs hsite he Fire.scatter_storesIn ?_ rfl _ _
    rintro y ⟨i, -, -, j, -, rfl⟩
    exact inPad_padAddr _ _
  case szero =>
    rw [Host.Outcome.next.inj (ht.symm.trans (execSzero_clears h))]
    refine StoreFrame.of_store (w := [fr.zeroed]) hs hsite he (List.forall_mem_singleton.2 (fun x hlo hhi => ⟨hlo, hhi⟩)) ?_ rfl _ _
    rintro x ⟨hlo, hhi⟩
    exact ⟨(Nat.le_add_right _ _).trans hlo, lt_of_lt_of_le hhi (Nat.min_le_right _ _)⟩

end Sys2Proof.Machine
end

section
/-! SUPPORT. The integer, logic and lane instructions complete (spec 10 R225 to R237): what each leaves on operands of its width. -/

namespace Sys2Proof.Machine

variable {s : State} {f : Slot} {fr : Fire} {a b : Opnd} {n : Nat}

/-! Lane by lane (spec 08 R184, 07 R163). -/

/-- A function of lane i of a alone. -/
theorem unaryOp_lane1 (h : Fires f ownGuard always s fr) (ha : s.opA fr = some a) (hw : badWidth (fmtLw fr.fmt) [a] = none)
    (hl : outLen fr.w [a] = some n) (g : Fire → Nat → Nat) :
    unaryOp f false (lane1 g) s =
      .next (fr.landed (fr.result (fr.pack (some a) (fr.lanesOf a n (fun i => (g fr (a.bl i), a.bp i))))) s) :=
  unaryOp_lands h ha hw hl

/-- A function of lanes i of a and b. -/
theorem binaryOp_lane2 (h : Fires f ownGuard always s fr) (ha : s.opA fr = some a) (hb : s.opB fr = some b)
    (hw : badWidth (fmtLw fr.fmt) [a, b] = none) (hl : outLen fr.w [a, b] = some n) (g : Fire → Nat → Nat → Nat) :
    binaryOp f false (lane2 g) s =
      .next (fr.landed (fr.result (fr.pack (some a) (fr.lanesOf a n (fun i => (g fr (a.bl i) (b.bl i), a.bp i || b.bp i))))) s) :=
  binaryOp_lands h ha hb hw hl

/-- An instruction that also reads its destination entry (spec 10 R223). -/
theorem ternaryOp_lands {fn : Fire → LaneIn → BitVec 32 → Nat × Bool} (h : Fires f ownGuard always s fr) (ha : s.opA fr = some a)
    (hb : s.opB fr = some b) (hw : badWidth (fmtLw fr.fmt) [a, b, fr.opD] = none) (hl : outLen fr.w [a, b, fr.opD] = some n) :
    ternaryOp f false fn s = .next (fr.landed (fr.result (fr.pack (some a)
      (fr.lanesOf a n (fun i => fn fr (laneIn (some a) (some b) (some fr.opD) i) fr.e.rng)))) s) :=
  fire_lands h ((State.withAB_some ha hb _).trans (Fire.laneWise_noStep hw hl)) rfl rfl

/-- Settles O1: each instruction by the function of its lanes. -/
theorem integerPairsComplete : Obligations.IntegerPairsComplete := by
  intro s f fr a b n h ha hb hw hl w made
  have lands := binaryOp_lane2 h ha hb hw hl
  exact ⟨lands addLane, lands subLane, lands addsLane, lands subsLane, lands mulLane, lands mulhLane, lands mulhnLane, lands minLane,
    lands maxLane, lands minnLane, lands maxnLane, lands andLane, lands orLane, lands xorLane, lands andnLane, lands shlLane, lands shrLane,
    lands shaLane, lands rolLane, lands movhLane⟩

/-- Settles O2: each instruction by the function of its lanes. -/
theorem integerSinglesComplete : Obligations.IntegerSinglesComplete := by
  intro s f fr a n h ha hw hl w keep made
  have lands := unaryOp_lane1 h ha hw hl
  exact ⟨lands absLane, lands negLane, lands clzLane, lands ctzLane, lands popcLane, lands brevLane, lands movLane⟩

/-- Settles O3: the lanes of a, b and the destination entry. -/
theorem integerTriplesComplete : Obligations.IntegerTriplesComplete := by
  intro s f fr a b n h ha hb hw hl c made
  exact ⟨ternaryOp_lands h ha hb hw hl, ternaryOp_lands h ha hb hw hl⟩

/-! Compares (spec 07 R161). -/

/-- No poisoned lane takes part in the outcome. -/
theorem takingPart_unpoisoned (hp : ∀ i < n, fr.active true i = true → (a.bp i || b.bp i) = false) :
    packFields ((List.range n).map (fun i => (1, bit01 ((a.bp i || b.bp i) && fr.active true i)))) = 0 := by
  refine packFields_zero (List.forall_mem_map.2 fun i hi => ?_)
  cases hon : fr.active true i
  case false => simp [bit01]
  case true => simp only [hp i (List.mem_range.1 hi) hon, Bool.false_and]; rfl

/-- A compare completes: with MOD[0] = 0 it leaves st to NS, with MOD[0] = 1 and no poisoned lane taking part it writes its bit. -/
theorem compareOp_lands {pred : Fire → LaneIn → Bool} (h : Fires f ownGuard always s fr) (ha : s.opA fr = some a) (hb : s.opB fr = some b)
    (hw : badWidth (fmtLw fr.fmt) [a, b] = none) (hl : outLen fr.w [a, b] = some n)
    (hp : fr.md 0 = true → ∀ i < n, fr.active true i = true → (a.bp i || b.bp i) = false) :
    let on (i : Nat) : Bool := pred fr (laneIn (some a) (some b) none i)
    let l := fr.lanesOf a n (fun i => (if on i then 2 ^ fr.w - 1 else 0, a.bp i || b.bp i))
    compareOp f pred s = .next (fr.landed { fr.result (fr.pack (some a) l) with
      stBit := if fr.md 0 then some (fr.imm 13 3, compareBit fr n on) else none } s) := by
  intro on l
  cases hmd : fr.md 0
  case false =>
    refine fire_lands h ?_ rfl rfl
    rw [State.withAB_some ha hb, Fire.laneWise_noStep (c := none) hw hl]
    simp only [hmd, Bool.false_eq_true, if_false]
    rfl
  case true =>
    rw [compareOp_writes h ha hb hw hl hmd, if_pos (takingPart_unpoisoned (hp hmd)), if_pos rfl]
    exact congrArg Host.Outcome.next (Fire.finish_plain rfl rfl)

theorem integerCompares_complete : integerComparesComplete := by
  intro s f fr a b n h ha hb hw hl hp w made
  have lands (pred : Fire → LaneIn → Bool) := compareOp_lands (pred := pred) h ha hb hw hl hp
  exact ⟨lands _, lands _, lands _, lands _, lands _, lands _⟩

theorem floatCompares_complete : floatComparesComplete := by
  intro s f fr a b n h ha hb hw hl hp va vb made
  have lands (pred : Fire → LaneIn → Bool) := compareOp_lands (pred := pred) h ha hb hw hl hp
  exact ⟨lands _, lands _, lands _, lands _⟩

/-- Settles O19: the compares of integers and those of floats. -/
theorem comparesComplete : Obligations.ComparesComplete := ⟨integerCompares_complete, floatCompares_complete⟩

/-! Fields (spec 10 R228, R229, R231): no lane is masked. -/

/-- A lane-wise instruction without masks computes every lane. -/
theorem Fire.laneWise_unmasked {a b c : Option Opnd} {fn : LaneIn → BitVec 32 → Nat × Bool} {k : List (Nat × Bool) → Packet → Done → Outc}
    (hw : badWidth (fmtLw fr.fmt) (optList [a, b, c]) = none) (hl : outLen fr.w (optList [a, b, c]) = some n) :
    fr.laneWise a b c false false fn k =
      (let l := (List.range n).map (fun i => fn (laneIn a b c i) fr.e.rng)
       k l (fr.pack a l) (fr.result (fr.pack a l))) := by
  have computed (i : Nat) : fr.active false i = true := rfl
  simp only [Fire.laneWise_noStep hw hl, computed, if_true]

/-- Settles O5: SEL by the operand that its bit selects, the others by their lanes. -/
theorem fieldsComplete : Obligations.FieldsComplete := by
  intro s f fr h lw p l q
  obtain ⟨rfl, -⟩ := State.fireOf_eq_some h.1
  refine ⟨fun o ho hw => ?sel, fun a n ha hw hl => ⟨?bfx, ?movi⟩, fun a b n ha hb hw hl => ?bfi⟩
  case sel =>
    refine fire_lands h ?_ rfl rfl
    simp only [ho, Fire.widthOk_fits hw]
    rfl
  case bfx => exact fire_lands h ((State.withA_some ha _).trans (Fire.laneWise_unmasked (b := none) (c := none) hw hl)) rfl rfl
  case movi => exact fire_lands h ((State.withA_some ha _).trans (Fire.laneWise_unmasked (b := none) (c := none) hw hl)) rfl rfl
  case bfi => exact fire_lands h ((State.withAB_some ha hb _).trans (Fire.laneWise_unmasked (c := none) hw hl)) rfl rfl

/-! Over the whole of A (spec 10 R230 to R237). -/

/-- An instruction over all lanes of A completes with what it makes of A, on an A of its width. -/
theorem oneOp_lands {g : Fire → State → Opnd → Outc} {d : Done} (h : Fires f ownGuard always s fr) (ha : s.opA fr = some a)
    (hw : badWidth (fmtLw fr.fmt) [a] = none) (hd : g fr s a = .done d) (hp : d.pre = []) (he : d.errs = 0) :
    oneOp f g s = .next (fr.landed d s) :=
  fire_lands h ((State.withA_some ha _).trans ((Fire.widthOk_fits hw _).trans hd)) hp he

/-- Settles O6: the lanes that each takes from A, and from B. -/
theorem laneMovesComplete : Obligations.LaneMovesComplete := by
  intro s f fr a h ha hw n t lanes
  obtain ⟨rfl, -⟩ := State.fireOf_eq_some h.1
  refine ⟨oneOp_lands h ha hw rfl rfl rfl, fire_lands h (State.withA_some ha _) rfl rfl, oneOp_lands h ha hw rfl rfl rfl,
    fun ht => ⟨?bcast, ?extl, fun b hb hwab => ?insl⟩⟩
  case bcast => exact oneOp_lands h ha hw (if_neg (not_le.2 ht)) rfl rfl
  case extl => exact oneOp_lands h ha hw (if_neg (not_le.2 ht)) rfl rfl
  case insl =>
    exact fire_lands h ((State.withAB_some ha hb _).trans ((Fire.widthOk_fits hwab _).trans (if_neg (not_le.2 ht)))) rfl rfl

/-- A data entry of the width is an operand of the width (spec 07 R145). -/
theorem badWidth_entry {lw : BitVec 2} {r : DEntry} {t : BitVec 3} {hdr : HReg} (h : r.lw = lw) :
    badWidth lw [{ pkt := r.packet t, hdr := hdr, isConst := false, fixed := false }] = none := by
  simp [badWidth, DEntry.packet, h]

/-- Settles O7: the entry or the lane that the index names. -/
theorem indexedMovesComplete : Obligations.IndexedMovesComplete := by
  intro s f fr a x h ha hx lw
  obtain ⟨rfl, -⟩ := State.fireOf_eq_some h.1
  refine ⟨fun hx3 hw hentry => ?movx, fun b hb hw => ⟨fun hlane => ?movxLane, fun hx3 => ?movxw, fun hlane hwd => ?movxwLane⟩⟩
  case movx =>
    refine oneOp_lands h ha hw ?_ rfl rfl
    simp only [hx, Bool.false_eq_true, if_false, if_neg (not_lt.2 hx3), Fire.widthOk_fits (badWidth_entry hentry)]
  case movxLane =>
    refine fire_lands h ((State.withAB_some ha hb _).trans ((Fire.widthOk_fits hw _).trans ?_)) rfl rfl
    simp only [hx, Bool.false_eq_true, if_false, if_neg (not_le.2 hlane)]
  case movxw =>
    refine fire_lands h ((State.withAB_some ha hb _).trans ((Fire.widthOk_fits hw _).trans ?_)) rfl rfl
    simp only [hx, Bool.false_eq_true, if_false, if_neg (not_lt.2 hx3)]
  case movxwLane =>
    refine fire_lands h ((State.withAB_some ha hb _).trans ((Fire.widthOk_fits hwd _).trans ?_)) rfl rfl
    simp only [hx, Bool.false_eq_true, if_false, if_neg (not_le.2 hlane)]
    rfl

/-- Outside coordinate mode every lane is a value lane (spec 06 R123). -/
theorem Opnd.values_eq_raws (h : a.pkt.crd = false) : a.values = a.raws := by
  simp only [Opnd.values, Opnd.raws, Opnd.count, h, Bool.false_eq_true, if_false]

/-- The group of BITI and BITD (spec 10 R230). -/
theorem two_add_bit01 (c : Bool) : 2 + bit01 c = if c then 3 else 2 := by cases c <;> rfl

theorem State.withAAt_some {w : Nat} (h : s.operandAt fr w fr.f.sa false = some a) (k : Opnd → Outc) : s.withAAt fr w k = k a := by
  simp only [State.withAAt, h]

/-- Settles O8: the groups of bits, the lanes of the second format, and the sums and extremes of value lanes. -/
theorem packAndReduceComplete : Obligations.PackAndReduceComplete := by
  intro s f fr a h ha n g m bit lanes sum
  obtain ⟨rfl, -⟩ := State.fireOf_eq_some h.1
  refine ⟨fun hw => ⟨fun hgroups => ?biti, fun hfits => ?bitd, ?pack, ?reda, fun x l hvalues => ?redm, fun hcrd => ?scana⟩,
    fun u hu hw => ⟨fun hm hfits => ?unpk, fun hm hfits => ?unpkPairs⟩⟩
  case biti =>
    refine oneOp_lands h ha hw ?_ rfl rfl
    simp only [two_add_bit01]
    exact if_neg (not_not.2 hgroups)
  case bitd =>
    refine oneOp_lands h ha hw ?_ rfl rfl
    simp only [two_add_bit01]
    exact if_neg (not_lt.2 hfits)
  case pack => exact oneOp_lands h ha hw rfl rfl rfl
  case reda => exact oneOp_lands h ha hw rfl rfl rfl
  case redm =>
    refine oneOp_lands h ha hw ?_ rfl rfl
    simp only [hvalues]
  case scana =>
    refine oneOp_lands h ha hw ?_ rfl rfl
    simp only [hcrd, Bool.false_eq_true, if_false, Opnd.values_eq_raws hcrd, Opnd.raws, List.length_map, List.length_range]
    rfl
  case unpk =>
    refine fire_lands h ((State.withAAt_some hu _).trans ?_) rfl rfl
    simp only [show badWidth (fmtLw (fr.imm 4 5)) [u] = none from hw]
    exact (if_neg hm).trans (if_neg (not_lt.2 hfits))
  case unpkPairs =>
    refine fire_lands h ((State.withAAt_some hu _).trans ?_) rfl rfl
    simp only [show badWidth (fmtLw (fr.imm 4 5)) [u] = none from hw]
    exact (if_pos hm).trans (if_neg (not_lt.2 hfits))

end Sys2Proof.Machine
end

section
/-! SUPPORT. The float, alignment and lookup instructions complete (spec 11 R244 to R259): what each leaves on operands of its width. -/

namespace Sys2Proof.Machine

variable {s : State} {f : Slot} {fr : Fire} {a b : Opnd} {n : Nat}

/-! Lane by lane with rounding (spec 08 R184, 03 R67). -/

/-- A lane-wise instruction that rounds gives its lanes in order, with the generator as they left it. -/
theorem Fire.laneWise_rounded {b c : Option Opnd} (hw : badWidth (fmtLw fr.fmt) (optList [some a, b, c]) = none)
    (hl : outLen fr.w (optList [some a, b, c]) = some n) (g : BitVec 32 → LaneIn → Nat × Bool) :
    fr.laneWise (some a) b c true true (fun x r => g r x) (fun _ _ d => .done d) = .done (roundedLanes fr a b c n g) :=
  Fire.laneWise_ok hw hl

theorem unaryOp_rounds (h : Fires f ownGuard always s fr) (ha : s.opA fr = some a) (hw : badWidth (fmtLw fr.fmt) [a] = none)
    (hl : outLen fr.w [a] = some n) (g : Fire → LaneIn → BitVec 32 → Nat × Bool) :
    unaryOp f true g s = .next (fr.landed (roundedLanes fr a none none n (fun r x => g fr x r)) s) :=
  fire_lands h ((State.withA_some ha _).trans (Fire.laneWise_rounded (b := none) (c := none) hw hl _)) rfl rfl

theorem binaryOp_rounds (h : Fires f ownGuard always s fr) (ha : s.opA fr = some a) (hb : s.opB fr = some b)
    (hw : badWidth (fmtLw fr.fmt) [a, b] = none) (hl : outLen fr.w [a, b] = some n) (g : Fire → LaneIn → BitVec 32 → Nat × Bool) :
    binaryOp f true g s = .next (fr.landed (roundedLanes fr a (some b) none n (fun r x => g fr x r)) s) :=
  fire_lands h ((State.withAB_some ha hb _).trans (Fire.laneWise_rounded (c := none) hw hl _)) rfl rfl

theorem ternaryOp_rounds (h : Fires f ownGuard always s fr) (ha : s.opA fr = some a) (hb : s.opB fr = some b)
    (hw : badWidth (fmtLw fr.fmt) [a, b, fr.opD] = none) (hl : outLen fr.w [a, b, fr.opD] = some n)
    (g : Fire → LaneIn → BitVec 32 → Nat × Bool) :
    ternaryOp f true g s = .next (fr.landed (roundedLanes fr a (some b) (some fr.opD) n (fun r x => g fr x r)) s) :=
  fire_lands h ((State.withAB_some ha hb _).trans (Fire.laneWise_rounded hw hl _)) rfl rfl

/-- Settles O9: each instruction by the function of its lanes; FCLASS does not round. -/
theorem floatSinglesComplete : Obligations.FloatSinglesComplete := by
  intro s f fr a n h ha hw hl made
  have rounds (g : Fire → LaneIn → BitVec 32 → Nat × Bool) := unaryOp_rounds h ha hw hl g
  exact ⟨rounds _, rounds _, rounds _, rounds _, rounds _, rounds _, unaryOp_lands h ha hw hl⟩

theorem floatPairs_complete : floatPairsComplete := by
  intro s f fr a b n h ha hb hw hl made
  have rounds (g : Fire → LaneIn → BitVec 32 → Nat × Bool) := binaryOp_rounds h ha hb hw hl g
  exact ⟨rounds _, rounds _, rounds _, rounds _, rounds _, rounds _, rounds _⟩

theorem fused_complete : fusedComplete := by
  intro s f fr a b n h ha hb hw hl made
  have rounds (g : Fire → LaneIn → BitVec 32 → Nat × Bool) := ternaryOp_rounds h ha hb hw hl g
  exact ⟨rounds _, rounds _, rounds _⟩

/-- Settles O20: the instructions of two operands and the fused ones. -/
theorem floatArithmeticComplete : Obligations.FloatArithmeticComplete := ⟨floatPairs_complete, fused_complete⟩

/-! Conversions and reductions (spec 11 R247, R250). -/

/-- A conversion rounds the elements of an A that has the second format's width, if the lanes that they make fit (spec 11 R247, 06 R126). -/
theorem convertOp_rounds (h : Fires f ownGuard always s fr) (ha : s.operandAt fr (lwBits (fmtLw (fr.imm 4 5))) f.sa false = some a)
    (hw : badWidth (fmtLw (fr.imm 4 5)) [a] = none)
    (hfits : (if fr.fmt = 13 then ((a.elements (fr.imm 4 5)).length + 1) / 2 else (a.elements (fr.imm 4 5)).length) ≤ maxLanes fr.w) :
    let q := fr.roundAll fr.fmt ((a.elements (fr.imm 4 5)).map (fun x => (a.value (fr.imm 4 5) x.1, x.2)))
    convertOp f s = .next (fr.landed (fr.lanesRng (if fr.fmt = 13 then pairUp q.1 else q.1) q.2) s) := by
  obtain ⟨rfl, -⟩ := State.fireOf_eq_some h.1
  refine fire_lands h ((State.withAAt_some ha _).trans ?_) rfl rfl
  simp only [hw]
  exact if_neg (not_lt.2 hfits)

/-- Settles O10: the conversions by whether the result's format is the pair format, FREDA by its sum. -/
theorem conversionsComplete : Obligations.ConversionsComplete := by
  intro s f fr h f2 made
  refine ⟨fun a ha hw => ⟨fun hfmt hfits => ?whole, fun hfmt hfits => ?pairs⟩, fun a ha hw => oneOp_lands h ha hw rfl rfl rfl⟩
  case whole =>
    have rounds := convertOp_rounds h ha hw (by rwa [if_neg hfmt])
    simp only [if_neg hfmt] at rounds
    exact ⟨rounds, rounds, rounds⟩
  case pairs =>
    have rounds := convertOp_rounds h ha hw (by rwa [if_pos hfmt])
    simp only [if_pos hfmt] at rounds
    exact ⟨rounds, rounds, rounds⟩

/-! Exact sums and alignment (spec 11 R250, R251). -/

theorem badWidth_append {lw : BitVec 2} {l m : List Opnd} (hl : badWidth lw l = none) (hm : badWidth lw m = none) :
    badWidth lw (l ++ m) = none := by
  simp only [badWidth, Option.map_eq_none_iff] at *
  rw [List.find?_append, hl, hm, Option.none_or]

/-- A mask of which no lane is set is zero (spec 09 R189). -/
theorem laneMask_zero {α : Type} {l : List α} {p : α → Bool} (h : ∀ x ∈ l, p x = false) :
    packFields (l.map (fun x => (1, bit01 (p x)))) = 0 :=
  packFields_zero (List.forall_mem_map.2 fun x hx => by rw [h x hx]; rfl)

theorem Fire.checked_fits {l : List Opnd} (hw : badWidth (fmtLw fr.fmt) l = none) (hl : outLen fr.w l = some n) (k : Nat → Outc) :
    fr.checked l k = k n := by
  simp only [Fire.checked, hw, hl]

/-- FDOT rounds the sum of the products once, with the destination entry's lane 0 under MOD[0]. -/
theorem execFdot_sums (h : Fires f ownGuard always s fr) (ha : s.opA fr = some a) (hb : s.opB fr = some b)
    (hw : badWidth (fmtLw fr.fmt) [a, b] = none) (hl : outLen fr.w [a, b] = some n)
    (hd : fr.md 0 = true → badWidth (fmtLw fr.fmt) [fr.opD] = none) :
    let t := (List.range n).map (fun i => Val.mul (a.value fr.fmt (a.bl i)) (b.value fr.fmt (b.bl i)))
    let t := if fr.md 0 then t ++ [elemVal fr.fmt (fr.opD.bl 0)] else t
    let q := fr.roundAll fr.fmt [(Val.sum fr.rm t, (List.range n).any (fun i => a.bp i || b.bp i) || (fr.md 0 && fr.opD.bp 0))]
    exec (.fdot f) s = .next (fr.landed (fr.lanesRng q.1 q.2) s) := by
  have hall : badWidth (fmtLw fr.fmt) ([a, b] ++ if fr.md 0 then [fr.opD] else []) = none := by
    refine badWidth_append hw ?_
    split
    next hmd => exact hd hmd
    next => rfl
  exact fire_lands h ((State.withAB_some ha hb _).trans ((Fire.widthOk_fits hall _).trans (Fire.checked_fits hw hl _))) rfl rfl

/-- FALGN in data mode gives its elements where all are in range. -/
theorem execFalgn_aligns {ys : List (Nat × Bool)} (h : Fires f ownGuard always s fr) (ha : s.opA fr = some a) (hb : s.opB fr = some b)
    (hw : badWidth (fmtLw fr.fmt) [a] = none) (hn : (a.elements fr.fmt).length ≤ 8)
    (hys : (a.elements fr.fmt).map (fun x => alignElem fr.fmt (a.value fr.fmt x.1) x.2 (b.bp 0) (b.int 0)) = ys.map some) :
    exec (.falgn f) s = .next (fr.landed (fr.lanesOut ys) s) := by
  have inRange : packFields ((ys.map some).map (fun y => (1, bit01 y.isNone))) = 0 :=
    laneMask_zero (List.forall_mem_map.2 fun _ _ => rfl)
  have given : (ys.map some).map (fun y => y.getD (0, true)) = ys := by simp
  refine fire_lands h ((State.withAB_some ha hb _).trans ((Fire.widthOk_fits hw _).trans ((if_neg (not_lt.2 hn)).trans ?_))) rfl rfl
  rw [hys]
  simp only [inRange, given, ne_eq, not_true, if_false]

/-- FALGN in header mode gives the header of a scale that needs no clamp. -/
theorem execFalgnHdr_heads (h : Fires f ownGuard always s fr) (hb : s.opB fr = some b) (hp : b.bp 0 = false) :
    let sc := b.int 0 - serialWidth fr.fmt + 128
    0 ≤ sc → sc ≤ 254 →
    exec (.falgnHdr f) s = .next (fr.landed { fr.plain with
      out := some (hdrPacket (sc.toNat * 8 + fr.imm 8 8 * 2 ^ 11 + fr.imm 7 1 * 2 ^ 19) false fr.f.ot) } s) := by
  intro sc hlo hhi
  have inRange : ¬ (sc < 0 ∨ 254 < sc) := by omega
  have clamped : min (max sc 0) 254 = sc := by omega
  refine fire_lands h ?_ rfl rfl
  simp only [State.withB, hb, hp, show b.int 0 - serialWidth fr.fmt + 128 = sc from rfl, inRange, clamped, decide_false, Bool.and_false,
    Bool.false_eq_true, if_false]

/-- Settles O11: FDOT by its sum, FALGN by its mode. -/
theorem alignComplete : Obligations.AlignComplete := by
  intro s f fr h
  obtain ⟨rfl, -⟩ := State.fireOf_eq_some h.1
  exact ⟨fun a b n ha hb hw hl hd => execFdot_sums h ha hb hw hl hd,
    fun a ha hw => ⟨oneOp_lands h ha hw rfl rfl rfl, fun b ys hb hn hys => execFalgn_aligns h ha hb hw hn hys⟩,
    fun b hb hp => execFalgnHdr_heads h hb hp⟩

/-! The lookup element (spec 11 R254 to R259). -/

/-- LUTI reads the entries that its indices name, where every unpoisoned index names one (spec 11 R256, 09 R189). -/
theorem execLuti_reads (h : Fires f ownGuard always s fr) (ha : s.opA fr = some a) (hw : badWidth (fmtLw fr.fmt) [a] = none)
    (hin : ∀ x ∈ a.values, x.2 = false → x.1 ≤ 255) :
    let q := fr.roundAll fr.fmt (a.values.map (fun x =>
      if x.2 then (Val.fin false 0 0, true) else (if fr.md 0 then fr.e.lutSlope x.1 else fr.e.lutIcpt x.1, fr.e.lutFlag x.1)))
    exec (.luti f) s = .next (fr.landed { fr.result (fr.pack (some a) q.1) with e := { fr.e with rng := q.2 } } s) := by
  have inTable : packFields (a.values.map (fun x => (1, bit01 (!x.2 && decide (255 < x.1))))) = 0 := by
    refine laneMask_zero fun x hx => ?_
    cases hp : x.2
    case false => simpa using hin x hx hp
    case true => rfl
  exact oneOp_lands h ha hw (if_neg (not_not.2 inTable)) rfl rfl

/-- LCLAMP clamps every lane of A between lanes 0 and 1 of B; none is masked (spec 11 R257). -/
theorem execLclamp_clamps (h : Fires f ownGuard always s fr) (ha : s.opA fr = some a) (hb : s.opB fr = some b)
    (hwab : badWidth (fmtLw fr.fmt) [a, b] = none) (hw : badWidth (fmtLw fr.fmt) [a] = none) (hlanes : 2 ≤ b.pkt.lanes)
    (hl : outLen fr.w [a] = some n) :
    let lo := b.value fr.fmt (b.raw 0).1
    let hi := b.value fr.fmt (b.raw 1).1
    let d := laneLoop fr false true (some a) none none (fun x r =>
      let v := x.va fr.fmt
      (roundElem fr.fmt fr.rm r (if v.isNan || lo.isNan || hi.isNan || Val.lt hi lo then Val.nan
        else if Val.lt v lo then lo else if Val.lt hi v then hi else v), x.pa || ((b.raw 0).2 || (b.raw 1).2))) (List.range n) fr.e.rng
    exec (.lclamp f) s = .next (fr.landed { fr.result (fr.pack (some a) d.1) with e := { fr.e with rng := d.2 } } s) :=
  fire_lands h ((State.withAB_some ha hb _).trans ((Fire.widthOk_fits hwab _).trans
    ((if_neg (not_lt.2 hlanes)).trans (Fire.laneWise_ok (b := none) (c := none) hw hl)))) rfl rfl

/-- LUTW writes its words where all stand in the table and TC0 is sound (spec 11 R254). -/
theorem execLutw_writes (h : Fires f ownGuard always s fr) (ha : s.operandAt fr 64 f.sa false = some a) (hb : s.opB fr = some b)
    (hw : badWidth 3 [a] = none) (hp : b.bp 0 = false) (hin : b.nat 0 + a.pkt.lanes - 1 ≤ 257)
    (hsound : a.raws.zipIdx.any (fun x => b.nat 0 + x.2 = 256 && tc0Bad x.1.1) = false) :
    exec (.lutw f) s = .next (fr.landed { fr.plain with
      e := a.raws.zipIdx.foldl (fun e x => { e with lut := Map.set 0 e.lut (b.nat 0 + x.2) (BitVec.ofNat 64 x.1.1)
                                                    lutp := Map.set false e.lutp (b.nat 0 + x.2) x.1.2 }) fr.e } s) := by
  obtain ⟨rfl, -⟩ := State.fireOf_eq_some h.1
  have inTable : decide (257 < b.nat 0 + a.raws.length - 1) = false := by simpa [Opnd.raws] using hin
  refine fire_lands h ((State.withAAt_some ha _).trans ?_) rfl rfl
  simp only [State.withB, hb, hw, hp, gt_iff_lt, inTable, hsound, Bool.or_self, Bool.false_eq_true, if_false]

/-- Settles O12: LUTE by its mode, each other instruction by its lanes. -/
theorem lookupComplete : Obligations.LookupComplete := by
  intro s f fr a h ha lanes l
  obtain ⟨rfl, -⟩ := State.fireOf_eq_some h.1
  refine ⟨fun hmd n hw hl => ?lute, fun hw => ⟨fun hmd heven => ?pairs, fun hin => execLuti_reads h ha hw hin, fun hfits => ?rred,
    fun heven => ?rcomb, fun b n hb hwab hlanes hl => execLclamp_clamps h ha hb hwab hw hlanes hl⟩,
    fun u b hu hb hw hp hin hsound => execLutw_writes h hu hb hw hp hin hsound⟩
  case lute =>
    refine fire_lands h ((State.withA_some ha _).trans ?_) rfl rfl
    simp only [hmd, Bool.false_eq_true, if_false]
    exact Fire.laneWise_rounded (b := none) (c := none) hw hl (fun r x => luteLane fr x r)
  case pairs =>
    refine fire_lands h ((State.withA_some ha _).trans ?_) rfl rfl
    simp only [hmd, if_true, Fire.widthOk_fits hw, heven, zero_ne_one, if_false]
  case rred => exact oneOp_lands h ha hw (if_neg (not_lt.2 hfits)) rfl rfl
  case rcomb => exact oneOp_lands h ha hw (if_neg (by omega)) rfl rfl

end Sys2Proof.Machine
end

section
/-! SUPPORT. The token instructions complete (spec 12 R267 to R276, R282): what each passes, keeps or counts. -/

namespace Sys2Proof.Machine

variable {s : State} {f : Slot} {fr : Fire} {a b : Opnd} {p m : Packet}

/-! Kinds of heads (spec 06 R120, R130). -/

theorem Packet.isData_of_eos (h : p.kind = kEos) : p.isData = false := by simp [Packet.isData, h, kEos, kData, kHdr]

theorem Packet.eos_ne_err (h : p.kind = kEos) : p.kind ≠ kErr := by rw [h]; decide

theorem Packet.kind_of_isData (h : p.isData = true) : p.kind ≠ kEos ∧ p.kind ≠ kErr := by
  simp only [Packet.isData, Bool.or_eq_true, decide_eq_true_eq] at h
  rcases h with h | h <;> rw [h] <;> decide

/-! Heads that are passed, levelled and steered (spec 12 R268 to R271, R282). -/

/-- A token whose selection is 1 goes to the highest output. -/
theorem Fire.steers_high (hmd : fr.md 1 = false) (p : Packet) :
    fr.steers p true = { fr.plain with out := some p, om := highOut fr.f.om } := by
  simp only [Fire.steers, hmd, Bool.false_and, Bool.false_eq_true, if_false, if_true]

/-- A token whose selection is 0 goes to the lowest of two outputs. -/
theorem Fire.steers_low (hmd : fr.md 1 = false) (hom : lowOut fr.f.om ≠ highOut fr.f.om) (p : Packet) :
    fr.steers p false = { fr.plain with out := some p, om := lowOut fr.f.om } := by
  simp only [Fire.steers, hmd, Bool.false_and, Bool.false_eq_true, if_false, if_pos hom]

/-- STEER and MARK read B beside an A of the slot's width, and complete with what they make of both. -/
theorem besideB_lands {g : Fire → Opnd → Opnd → Outc} {d : Done} (h : Fires f ownGuard always s fr) (ha : s.opA fr = some a)
    (hb : s.opB fr = some b) (hw : badWidth (fmtLw fr.fmt) [a] = none) (hd : g fr a b = .done d) (hp : d.pre = []) (he : d.errs = 0) :
    fire f (fun fr s => s.withAB fr (fun a b => fr.widthOk [a] (g fr a b))) s = .next (fr.landed d s) :=
  fire_lands h ((State.withAB_some ha hb _).trans ((Fire.widthOk_fits hw _).trans hd)) hp he

/-- STEER by an unpoisoned lane selects as the lane is not 0. -/
theorem execSteerData_steers {d : Done} (h : Fires f ownGuard always s fr) (ha : s.opA fr = some a) (hb : s.opB fr = some b)
    (hw : badWidth (fmtLw fr.fmt) [a] = none) (hp : (b.raw 0).2 = false) (hd : fr.steers a.pkt ((b.raw 0).1 ≠ 0) = d) (hpre : d.pre = [])
    (herrs : d.errs = 0) : exec (.steerData f) s = .next (fr.landed d s) := by
  refine besideB_lands h ha hb hw ?_ hpre herrs
  simp only [hp, Bool.false_eq_true, if_false, hd]

/-- Settles O13: each instruction by its cases, of which the operand's kind, the level and the selection tell one. -/
theorem tokensComplete : Obligations.TokensComplete := by
  intro s f fr h made pushes
  obtain ⟨rfl, -⟩ := State.fireOf_eq_some h.1
  refine ⟨fire_lands h rfl rfl rfl, fun a ha hw => ⟨?pass, ?emit, fun hk => ?token, fun hk hmd => ?raised, fun hk hmd hlevel => ?lowered,
    fun hk hmd hlevel => ?dropped, fun hmd hsel => ?high, fun hmd hsel hom => ?low,
    fun b hb => ⟨fun hmd hp hsel => ?dataHigh, fun hmd hp hsel hom => ?dataLow, fun hp => ?mark⟩⟩⟩
  case pass => exact oneOp_lands h ha hw rfl rfl rfl
  case emit => exact oneOp_lands h ha hw rfl rfl rfl
  case token => exact oneOp_lands h ha hw (if_neg hk) rfl rfl
  case raised => exact oneOp_lands h ha hw ((if_pos hk).trans (if_neg (ne_true_of_eq_false hmd))) rfl rfl
  case lowered => exact oneOp_lands h ha hw ((if_pos hk).trans ((if_pos hmd).trans (if_neg (not_lt.2 hlevel)))) rfl rfl
  case dropped => exact oneOp_lands h ha hw ((if_pos hk).trans ((if_pos hmd).trans (if_pos hlevel))) rfl rfl
  case high => exact oneOp_lands h ha hw (congrArg Outc.done (hsel ▸ Fire.steers_high hmd a.pkt)) rfl rfl
  case low => exact oneOp_lands h ha hw (congrArg Outc.done (hsel ▸ Fire.steers_low hmd hom a.pkt)) rfl rfl
  case dataHigh =>
    exact execSteerData_steers h ha hb hw hp (by rw [decide_eq_true hsel, Fire.steers_high hmd]) rfl rfl
  case dataLow =>
    exact execSteerData_steers h ha hb hw hp (by rw [decide_eq_false (not_not.2 hsel), Fire.steers_low hmd hom]) rfl rfl
  case mark => exact besideB_lands h ha hb hw (if_neg (ne_true_of_eq_false hp)) rfl rfl

/-! Packets kept, cut and counted (spec 12 R272 to R276). -/

/-- MERGE of DATA behind a kept packet that it joins: the joined packet is pushed when full, else kept (spec 12 R272). -/
theorem execMerge_joins (h : Fires f ownGuard always s fr) (ha : s.opA fr = some a) (hw : badWidth (fmtLw fr.fmt) [a] = none)
    (hk : a.pkt.kind = kData) (hm : fr.e.merge = some m) (htag : a.pkt.tag = m.tag) (hcrd : a.pkt.crd = m.crd)
    (hfits : m.lanes + a.pkt.lanes ≤ maxLanes fr.w) :
    exec (.merge f) s = .next (fr.landed (
      if (m.append a.pkt).lanes = maxLanes fr.w then
        { fr.plain with popA := true, out := some (m.append a.pkt), e := { fr.e with merge := none } }
      else { fr.plain with popA := true, e := { fr.e with merge := some (m.append a.pkt) } }) s) := by
  have joins : (a.pkt.tag = m.tag && a.pkt.crd = m.crd && decide (m.lanes + a.pkt.lanes ≤ maxLanes fr.w)) = true := by simp [htag, hcrd, hfits]
  split
  next hfull =>
    refine oneOp_lands h ha hw ((if_pos hk).trans ?_) rfl rfl
    simp only [hm, joins, hfull, if_true]
  next hroom =>
    refine oneOp_lands h ha hw ((if_pos hk).trans ?_) rfl rfl
    simp only [hm, joins, hroom, if_true, if_false]

/-- MERGE of DATA behind a kept packet that it does not join: the kept packet is pushed and the head kept (spec 12 R272). -/
theorem execMerge_replaces (h : Fires f ownGuard always s fr) (ha : s.opA fr = some a) (hw : badWidth (fmtLw fr.fmt) [a] = none)
    (hk : a.pkt.kind = kData) (hm : fr.e.merge = some m)
    (hapart : a.pkt.tag ≠ m.tag ∨ a.pkt.crd ≠ m.crd ∨ maxLanes fr.w < m.lanes + a.pkt.lanes) :
    exec (.merge f) s =
      .next (fr.landed { fr.plain with popA := true, out := some m, e := { fr.e with merge := some a.pkt } } s) := by
  have apart : (a.pkt.tag = m.tag && a.pkt.crd = m.crd && decide (m.lanes + a.pkt.lanes ≤ maxLanes fr.w)) = false := by
    simpa only [Bool.and_eq_false_iff, decide_eq_false_iff_not, not_le, or_assoc] using hapart
  refine oneOp_lands h ha hw ((if_pos hk).trans ?_) rfl rfl
  simp only [hm, apart, Bool.false_eq_true, if_false]

/-- SPLIT of DATA: the last piece pops the head, an earlier one leaves it (spec 12 R273). -/
theorem execSplit_cuts (h : Fires f ownGuard always s fr) (ha : s.opA fr = some a) (hw : badWidth (fmtLw fr.fmt) [a] = none)
    (hdata : a.pkt.isData = true) :
    let step := (fr.imm 0 3 + 1) * (if a.pkt.crd then 2 else 1)
    let piece := dataPacket a.pkt.lw a.pkt.tag a.pkt.crd ((a.pkt.laneList.drop fr.e.split).take step)
    exec (.split f) s = .next (fr.landed (
      if a.pkt.lanes ≤ fr.e.split + step then { fr.plain with popA := true, out := some piece, e := { fr.e with split := 0 } }
      else { fr.plain with popA := false, out := some piece, e := { fr.e with split := fr.e.split + step } }) s) := by
  intro step piece
  split
  next hlast => exact oneOp_lands h ha hw ((if_pos hdata).trans (if_pos hlast)) rfl rfl
  next hmore => exact oneOp_lands h ha hw ((if_pos hdata).trans (if_neg hmore)) rfl rfl

/-- Settles O14: each instruction by the kind of its head and what its element has kept. -/
theorem tokenStateComplete : Obligations.TokenStateComplete := by
  intro s f fr a h ha hw made head d cap
  obtain ⟨rfl, -⟩ := State.fireOf_eq_some h.1
  refine ⟨fun hk hm => ?kept, fun m hk hm htag hcrd hfits => execMerge_joins h ha hw hk hm htag hcrd hfits,
    fun m hk hm hapart => execMerge_replaces h ha hw hk hm hapart, fun m hk hm => ?flushed, fun hk hm => ?passed,
    fun hdata => execSplit_cuts h ha hw hdata, fun hdata => ?whole, fun hdata => ?counted, fun hk hlevel => ?emitted, fun hk hlevel => ?below,
    fun b hb hwab => ⟨fun hdata => ?delayed, fun hdata => ?token⟩⟩
  case kept => exact oneOp_lands h ha hw ((if_pos hk).trans (by rw [hm])) rfl rfl
  case flushed => exact oneOp_lands h ha hw ((if_neg hk).trans (by rw [hm])) rfl rfl
  case passed => exact oneOp_lands h ha hw ((if_neg hk).trans (by rw [hm])) rfl rfl
  case whole => exact oneOp_lands h ha hw (if_neg (ne_true_of_eq_false hdata)) rfl rfl
  case counted => exact oneOp_lands h ha hw (if_pos hdata) rfl rfl
  case emitted =>
    exact oneOp_lands h ha hw ((if_neg (ne_true_of_eq_false (Packet.isData_of_eos hk))).trans ((if_pos hk).trans (if_pos hlevel))) rfl rfl
  case below =>
    exact oneOp_lands h ha hw ((if_neg (ne_true_of_eq_false (Packet.isData_of_eos hk))).trans ((if_pos hk).trans (if_neg (not_le.2 hlevel)))) rfl rfl
  case delayed => exact fire_lands h ((State.withAB_some ha hb _).trans ((Fire.widthOk_fits hwab _).trans (if_pos hdata))) rfl rfl
  case token =>
    exact fire_lands h ((State.withAB_some ha hb _).trans ((Fire.widthOk_fits hwab _).trans (if_neg (ne_true_of_eq_false hdata)))) rfl rfl

end Sys2Proof.Machine
end

section
/-! SUPPORT. DROP, CARRY and SINK complete (spec 12 R269, R274, R278): what each pops, counts and reports. -/

namespace Sys2Proof.Machine

variable {s : State} {f : Slot} {fr : Fire} {a b : Opnd}

theorem State.withB_some (h : s.opB fr = some b) (k : Opnd → Outc) : s.withB fr k = k b := by simp only [State.withB, h]

theorem fireProg_lands {guard : Fire → Slot} {ready : Fire → State → Bool} {g : Fire → State → Outc} {d : Done} (h : Fires f guard ready s fr)
    (hd : g fr s = .done d) (hp : d.pre = []) (he : d.errs = 0) : complete (fireProg f guard ready g) s = .next (fr.landed d s) := by
  rw [fireProg_done h hd, Fire.finish_plain hp he]

/-- A slot under its own guard that makes changes beyond its element, and counts no error, lands on the state that those leave. -/
theorem fire_landsAfter {g : Fire → State → Outc} {d : Done} {l : List Effect} (h : Fires f ownGuard always s fr)
    (hd : g fr s = .done { d with pre := l }) (he : d.errs = 0) : fire f g s = .next (fr.landed d (s.apply l)) :=
  fireWhen_landsAfter h hd he

/-- DROP counts no error under MOD[0], else each ERR head that it names, one queue once. -/
theorem execDrop_completes : dropCompletes := by
  intro s f fr h
  obtain ⟨rfl, -⟩ := State.fireOf_eq_some h.1
  refine ⟨fun hmd => ?silent, ?counted⟩
  case silent =>
    refine fire_lands h ?_ rfl rfl
    simp only [hmd, if_true]
    rfl
  case counted =>
    intro hmd err
    refine fire_done h (congrArg (fun n => Outc.done { fr.plain with errs := n })
      ((if_neg (ne_true_of_eq_false hmd)).trans (congrArg₂ (· + ·) ?ofA ?ofB)))
    case ofA => cases hA : s.viewOf fr.key fr.f.qa.toNat false <;> simp [err, hA, ite_and]
    case ofB => cases hB : s.viewOf fr.key fr.f.qb.toNat true <;> simp [err, hB, ite_and]

/-- CARRY by its flag, which tells the queue that its guard tests. -/
theorem execCarry_completes : carryCompletes := by
  intro s f fr h
  refine ⟨fun hflag a ha hw => ?clear, fun hflag b hb hw => ?set⟩
  case clear =>
    exact fireProg_lands h ((if_neg (ne_true_of_eq_false hflag)).trans ((State.withA_some ha _).trans (Fire.widthOk_fits hw _))) rfl rfl
  case set => exact fireProg_lands h ((if_pos hflag).trans ((State.withB_some hb _).trans (Fire.widthOk_fits hw _))) rfl rfl

theorem State.reportSink_member {k : Nat} (h : s.regionOf fr.key = some k) :
    s.reportSink fr.key = [.region k { s.region k with snkd := (s.region k).snkd + 1 }] := by
  simp only [State.reportSink, h]

/-- SINK by the kind of its head, until it has reported. -/
theorem execSink_completes : sinkCompletes := by
  intro s f fr a h ha hreported head d c
  obtain ⟨rfl, -⟩ := State.fireOf_eq_some h.1
  have unreported : ¬ fr.e.reported = true := ne_true_of_eq_false hreported
  refine ⟨fun hdata => ?data, fun hk => ?error, fun hk hlevel hmore => ?counted, fun hk hlevel hlast b hb => ?last⟩
  case data =>
    obtain ⟨hnotEos, hnotErr⟩ := Packet.kind_of_isData hdata
    exact fire_lands h ((State.withA_some ha _).trans
      ((if_neg unreported).trans ((if_neg hnotErr).trans (if_neg (fun hends => hnotEos hends.1))))) rfl rfl
  case error => exact fire_done h ((State.withA_some ha _).trans ((if_neg unreported).trans (if_pos hk)))
  case counted =>
    exact fire_lands h ((State.withA_some ha _).trans ((if_neg unreported).trans ((if_neg (Packet.eos_ne_err hk)).trans
      ((if_pos ⟨hk, hlevel⟩).trans (if_neg (not_le.2 hmore)))))) rfl rfl
  case last =>
    have lands : exec (.sink fr.f) s =
        .next (fr.landed { d with e := { fr.e with sinkc := c, reported := true } } (s.apply (s.reportSink fr.key))) :=
      fire_landsAfter h ((State.withA_some ha _).trans ((if_neg unreported).trans ((if_neg (Packet.eos_ne_err hk)).trans
        ((if_pos ⟨hk, hlevel⟩).trans (if_pos hlast))))) rfl
    rw [State.reportSink_member hb] at lands
    exact lands

/-- Settles O21: DROP by what it counts, CARRY by its flag, SINK by its head. -/
theorem tokenEndsComplete : Obligations.TokenEndsComplete := ⟨execDrop_completes, execCarry_completes, execSink_completes⟩

end Sys2Proof.Machine
end

section
/-! SUPPORT. TIME, WHO, TAGOF, and the instructions that send packets by the local port or make tokens (spec 12 R280 to R284, R286, R287). -/

namespace Sys2Proof.Machine

variable {s : State} {f : Slot} {fr : Fire} {a b : Opnd} {c : Nat}

theorem bit01_mul (x : Bool) (n : Nat) : bit01 x * n = if x then n else 0 := by cases x <;> simp [bit01]

/-- Settles O15: each instruction by the lanes that it reads. -/
theorem systemReadsComplete : Obligations.SystemReadsComplete := by
  intro s f fr h lanes
  obtain ⟨rfl, -⟩ := State.fireOf_eq_some h.1
  refine ⟨fun hw => ?wide, fun hw => ?halves, fire_lands h rfl rfl rfl, fun a ha => ?tagof⟩
  case wide => exact fire_lands h (congrArg (fun l => Outc.done (fr.lanesOut l)) (if_pos hw)) rfl rfl
  case halves => exact fire_lands h (congrArg (fun l => Outc.done (fr.lanesOut l)) (if_neg hw)) rfl rfl
  case tagof =>
    refine fire_lands h ((State.withA_some ha _).trans ?_) rfl rfl
    simp only [bit01_mul]

/-! Packets for other elements and cores (spec 12 R280, R281). -/

/-- A packet of at most 128 bits is sent. -/
theorem Fire.sends_fits (h : a.pkt.lanes * a.pkt.width ≤ 128) (x : PortDest) :
    fr.sends a x = .done { fr.plain with out := some a.pkt, dest := x } := if_neg (not_lt.2 h)

/-- An unpoisoned lane 0 of at most 383 names a core. -/
theorem Fire.farCore_named (hc : b.raw 0 = (c, false)) (hlast : c ≤ 383) (k : Nat → Outc) : fr.farCore b k = k c := by
  simp only [Fire.farCore, hc, Bool.false_eq_true, if_false, gt_iff_lt, if_neg (not_lt.2 hlast)]

/-- A destination for an ERR token matters to no firing that completes (spec 06 R127). -/
theorem Fire.errTo_done {x : Option PortDest} {o : Outc} {d : Done} (h : o = .done d) : fr.errTo x o = .done d := by rw [h]; rfl

/-- An instruction that sends what it makes of A by the local port completes so. -/
theorem portOp_lands {x : Fire → Option PortDest} {g : Fire → Opnd → Outc} {d : Done} (h : Fires f ownGuard always s fr) (ha : s.opA fr = some a)
    (hw : badWidth (fmtLw fr.fmt) [a] = none) (hd : g fr a = .done d) (hp : d.pre = []) (he : d.errs = 0) :
    fire f (fun fr s => fr.errTo (x fr) (s.withA fr (fun a => fr.widthOk [a] (g fr a)))) s = .next (fr.landed d s) :=
  fire_lands h (Fire.errTo_done ((State.withA_some ha _).trans ((Fire.widthOk_fits hw _).trans hd))) hp he

/-- So does one that sends it to the core that lane 0 of B names. -/
theorem farOp_lands {x : Fire → Opnd → Option PortDest} {g : Fire → Opnd → Nat → Outc} {d : Done} (h : Fires f ownGuard always s fr)
    (ha : s.opA fr = some a) (hb : s.opB fr = some b) (hw : badWidth (fmtLw fr.fmt) [a] = none) (hc : b.raw 0 = (c, false)) (hlast : c ≤ 383)
    (hd : g fr a c = .done d) (hp : d.pre = []) (he : d.errs = 0) :
    fire f (fun fr s => s.withAB fr (fun a b => fr.errTo (x fr b) (fr.widthOk [a] (fr.farCore b (g fr a))))) s = .next (fr.landed d s) :=
  fire_lands h ((State.withAB_some ha hb _).trans
    (Fire.errTo_done ((Fire.widthOk_fits hw _).trans ((Fire.farCore_named hc hlast _).trans hd)))) hp he

theorem tasks_complete : tasksComplete := by
  intro s f fr a h ha hw sent
  refine ⟨fun hbits => ?tsend, ?cfgk, fun b c hb hc hlast => ⟨fun hbits => ?tsendFar, ?cfgkFar⟩⟩
  case tsend => exact portOp_lands h ha hw (Fire.sends_fits hbits _) rfl rfl
  case cfgk => exact portOp_lands h ha hw rfl rfl rfl
  case tsendFar => exact farOp_lands h ha hb hw hc hlast (Fire.sends_fits hbits _) rfl rfl
  case cfgkFar => exact farOp_lands h ha hb hw hc hlast rfl rfl rfl

/-! Tokens made and repaired (spec 12 R283, R284, R287). -/

/-- REPAIR reinjects B at the element that its ERR token names, where the core is its own and its region covers the element. -/
theorem execRepairBack_reinjects {blk : Nat} (h : Fires f ownGuard always s fr) (ha : s.opA fr = some a) (hb : s.opB fr = some b)
    (hw : badWidth (fmtLw fr.fmt) [b] = none) (hregion : s.regionOf fr.key = some blk) (hcore : bits a.pkt.pay.toNat 23 9 = fr.core)
    (hcovers : (s.region blk).covers (bits a.pkt.pay.toNat 16 7) = true) :
    exec (.repairBack f) s = .next (fr.landed { fr.plain with
      out := some (b.pkt.asData fr.f.ot), dest := .elem (bits a.pkt.pay.toNat 16 7) } s) := by
  refine fire_lands h ((State.withAB_some ha hb _).trans ?_) rfl rfl
  simp only [hregion, hcovers, hcore, ne_eq, not_true, decide_false, Bool.not_true, Bool.or_self, Bool.false_eq_true, if_false,
    Fire.widthOk_fits hw]
  rfl

theorem repairs_complete : repairsComplete := by
  intro s f fr h made
  obtain ⟨rfl, -⟩ := State.fireOf_eq_some h.1
  refine ⟨fun a ha => ⟨?errt, fun hw => ?errtMake, fun hlanes => ?hdr⟩, fun b hb hw => ⟨?repair, ?repairBack⟩⟩
  case errt => exact fire_lands h (State.withA_some ha _) rfl rfl
  case errtMake => exact oneOp_lands h ha hw rfl rfl rfl
  case hdr =>
    refine fire_lands h ((State.withA_some ha _).trans (if_neg fun hbad => ?_)) rfl rfl
    simp only [Bool.and_eq_true, Bool.not_eq_true', decide_eq_true_eq] at hbad
    exact hbad.2 (hlanes hbad.1.1 hbad.1.2)
  case repair => exact fire_lands h ((State.withB_some hb _).trans (Fire.widthOk_fits hw _)) rfl rfl
  case repairBack => exact fun a blk ha hregion hcore hcovers => execRepairBack_reinjects h ha hb hw hregion hcore hcovers

/-- Settles O22: the packets sent, and the tokens made and repaired. -/
theorem tasksAndRepairsComplete : Obligations.TasksAndRepairsComplete := ⟨tasks_complete, repairs_complete⟩

end Sys2Proof.Machine
end

section
/-! SUPPORT. TRAP (spec 12 R285, 17 R394 to R396): what taking a precise trap leaves of its element, its region and the rest of the part. -/

namespace Sys2Proof.Machine

variable {s t u : State} {f : Slot} {fr : Fire} {key b : Nat} {i : TrapInfo}

/-! Changes that spare an element: of engines, of the free counter and of other elements. -/
section Spared

/-- From s to t nothing changed but engines, the free counter and elements other than that of key. -/
def Spared (key : Nat) (s t : State) : Prop :=
  t = { s with engines := t.engines, elems := t.elems, free := t.free } ∧ t.elem key = s.elem key

/-- A change that spares the element of key. -/
def Effect.spares (key : Nat) : Effect → Prop
  | .engine _ _ => True
  | .free _ => True
  | .elem k _ => key ≠ k
  | _ => False

theorem Spared.refl (key : Nat) (s : State) : Spared key s s := ⟨rfl, rfl⟩

theorem Spared.trans (h : Spared key s t) (k : Spared key t u) : Spared key s u := by
  obtain ⟨ht, hown⟩ := h
  obtain ⟨hu, hown'⟩ := k
  refine ⟨?_, hown'.trans hown⟩
  rw [hu, ht]

theorem Spared.perform {e : Effect} (h : e.spares key) : Spared key s (s.perform e) := by
  cases e with
  | engine k g => exact ⟨rfl, rfl⟩
  | free n => exact ⟨rfl, rfl⟩
  | elem k e => exact ⟨rfl, Map.get_set_other _ _ h⟩
  | _ => exact h.elim

theorem Spared.apply {l : List Effect} (h : ∀ e ∈ l, e.spares key) : Spared key s (s.apply l) := by
  induction l generalizing s with
  | nil => exact Spared.refl key s
  | cons e l ih =>
    obtain ⟨he, hl⟩ := List.forall_mem_cons.1 h
    exact (Spared.perform he).trans (ih hl)

/-- Offers are dropped at engines. -/
theorem State.dropOffers_spares (s : State) (k key : Nat) : ∀ e ∈ s.dropOffers k, e.spares key := by
  simp only [State.dropOffers, List.forall_mem_flatMap]
  intro n _
  split
  · simp [Effect.spares]
  · simp

/-- Commands are paused at engines. -/
theorem State.pauseCmds_spares (s : State) (blk : Nat) (on : Bool) (key : Nat) : ∀ e ∈ s.pauseCmds blk on, e.spares key := by
  simp only [State.pauseCmds, List.forall_mem_flatMap]
  intro n _
  split
  · simp
  · simp [Effect.spares]

/-- No stop is sent to the element that traps (spec 17 R394). -/
theorem State.sendStops_spares (s : State) (blk key : Nat) : ∀ e ∈ s.sendStops blk (some key), e.spares key := by
  simp only [State.sendStops, List.forall_mem_append, List.forall_mem_map, List.forall_mem_singleton]
  refine ⟨⟨fun x hx => ?_, s.pauseCmds_spares blk true key⟩, trivial⟩
  have hk : x.1 ∈ (s.regionElems blk).filter (fun k => some k ≠ some key) := List.fst_mem_of_mem_zipIdx hx
  simp only [List.mem_filter, decide_eq_true_eq] at hk
  exact fun heq => hk.2 (congrArg some heq.symm)

end Spared

/-! Taking a precise trap (spec 17 R394 to R396). -/
section Taken

/-- The element that takes a precise trap: its firing undone, stopped, the trap kept (spec 17 R394). -/
def State.trappedElem (s : State) (key : Nat) (i : TrapInfo) : Elem :=
  { s.cancelled key (s.elem key) with trap := some i, stopped := true, stopIn := 0, busy := none }

/-- A cancelled firing is no longer in progress and no longer asks for binds; the element keeps everything else (spec 09 R207). -/
theorem State.cancelled_eq (s : State) (key : Nat) (e : Elem) :
    s.cancelled key e = { e with busy := (s.cancelled key e).busy, binds := (s.cancelled key e).binds } := by
  unfold State.cancelled
  split
  · rfl
  · split
    · split <;> rfl
    · rfl

theorem State.trappedElem_eq (s : State) (key : Nat) (i : TrapInfo) :
    s.trappedElem key i = { s.elem key with
      trap := some i, stopped := true, stopIn := 0, busy := none, binds := (s.trappedElem key i).binds } := by
  rw [State.trappedElem, State.cancelled_eq]

/-- Only the causes of translation faults read page tables (spec 02 R51). -/
theorem State.failedWalk_eq_nil {core cause : Nat} {detail : BitVec 128} (h : 0x16 < cause) : s.failedWalk core cause detail = [] := by
  have hpage : cause ≠ 0x14 := by omega
  have hwalk : ¬ (cause = 0x13 ∨ cause = 0x15 ∨ cause = 0x16) := by omega
  simp only [State.failedWalk, if_neg hpage, if_neg hwalk]

/-- Outside every region a precise trap changes its element alone. -/
theorem State.trapEffects_alone (hregion : s.regionOf key = none) (horig : i.orig = 0) :
    s.trapEffects key i = [.elem key (s.trappedElem key i)] := by
  simp only [State.trapEffects, hregion, horig, if_true]
  rfl

/-- In a region it also drops the element's offers, stops the other elements, if it is the first, and enters the region's record. -/
theorem State.trapEffects_member (hregion : s.regionOf key = some b) (horig : i.orig = 0) (hcause : 0x16 < i.cause) :
    ∃ (l : List Effect) (r : Region), (∀ e ∈ l, e.spares key)
      ∧ r = { (s.region b).record i (elemIx key) s.cycle with iter := r.iter }
      ∧ s.trapEffects key i = s.dropOffers key ++ [.elem key (s.trappedElem key i)] ++ (l ++ [.region b r]) := by
  simp only [State.trapEffects, hregion, horig, if_true, State.failedWalk_eq_nil hcause, List.nil_append]
  cases (s.region b).tv with
  | true => exact ⟨[], _, by simp, rfl, rfl⟩
  | false => exact ⟨s.sendStops b (some key), _, s.sendStops_spares b key, rfl, rfl⟩

/-- Region maps are canonical in a canonical state. -/
theorem State.regions_wf (h : s.canonical = true) : Map.wf Region.reset s.regions = true := by
  obtain ⟨-, hcores, -⟩ := s.canonical_iff.1 h
  simp only [State.coresWf, Bool.and_eq_true] at hcores
  tauto

/-- The first trap of a region is its record (spec 17 R396). -/
theorem Region.record_first {r : Region} (htv : r.tv = false) (horig : i.orig = 0) (elem : Nat) (now : BitVec 64) :
    r.record i elem now = { r with
      state := .trapped, fromIdle := r.fromIdle || (r.state == RState.idle), tv := true, cause := i.cause, orig := 0, elem := elem,
      slot := i.slot, tctx := i.ctx, cyc := now, detail := i.detail, more := 0 } := by
  simp only [Region.record, htv, horig, if_true, Bool.false_eq_true, if_false]

/-- A precise trap of another cause than a translation fault's: the element stops with its firing undone, its region takes the record, and beyond
elements, engines and regions nothing changes. -/
theorem State.apply_trapEffects (hs : s.canonical = true) (horig : i.orig = 0) (hcause : 0x16 < i.cause) :
    let t := s.apply (s.trapEffects key i)
    t.elem key = s.trappedElem key i
      ∧ t = { s with engines := t.engines, elems := t.elems, regions := t.regions, free := t.free }
      ∧ ∀ b, s.regionOf key = some b →
          t.region b = { (s.region b).record i (elemIx key) s.cycle with iter := (t.region b).iter } := by
  intro t
  have taken (u : State) (hu : u.canonical = true) : (u.perform (.elem key (s.trappedElem key i))).elem key = s.trappedElem key i :=
    Map.get_set_same _ _ (State.elems_wf hu)
  cases hregion : s.regionOf key with
  | none =>
    have ht : t = s.perform (.elem key (s.trappedElem key i)) := by
      simp only [t, State.trapEffects_alone hregion horig, State.apply_cons, State.apply_nil]
    exact ⟨ht ▸ taken s hs, by rw [ht]; rfl, by simp⟩
  | some c =>
    obtain ⟨l, r, hl, hr, heffects⟩ := State.trapEffects_member hregion horig hcause
    obtain ⟨hdropped, -⟩ : Spared key s (s.apply (s.dropOffers key)) := Spared.apply (s.dropOffers_spares key key)
    have hcanonical : (s.apply (s.dropOffers key)).canonical = true := State.apply_keeps State.perform_canonical s _ hs
    have ht : t = (((s.apply (s.dropOffers key)).perform (.elem key (s.trappedElem key i))).apply l).perform (.region c r) := by
      simp only [t, heffects, State.apply_append, State.apply_cons, State.apply_nil]
    generalize s.apply (s.dropOffers key) = u at hdropped hcanonical ht
    obtain ⟨hstopped, hown⟩ : Spared key (u.perform (.elem key (s.trappedElem key i))) _ := Spared.apply hl
    have hstops : (((u.perform (.elem key (s.trappedElem key i))).apply l)).canonical = true :=
      State.apply_keeps State.perform_canonical _ _ (State.perform_canonical u _ hcanonical)
    generalize (u.perform (.elem key (s.trappedElem key i))).apply l = v at hstopped hown hstops ht
    refine ⟨?elem, ?frame, ?region⟩
    case elem =>
      rw [ht]
      exact hown.trans (taken u hcanonical)
    case frame => rw [ht, hstopped, hdropped]; rfl
    case region =>
      rintro b ⟨⟩
      have hrecord : t.region c = r := by rw [ht]; exact Map.get_set_same _ _ (State.regions_wf hstops)
      rw [hrecord]
      exact hr

end Taken

/-- TRAP takes its trap, whatever EPOL says. -/
theorem execTrap_traps {a : Opnd} (h : Fires f ownGuard always s fr) (ha : fr.md 0 = true → s.opA fr = some a) :
    exec (.trap f) s = .next (s.apply (s.trapEffects fr.key
      (fr.trapInfo (0x58 + fr.imm 4 3) (if fr.md 0 then detailOf [(64, (a.raw 0).1)] else 0)))) := by
  refine fire_trap h ?_
  cases hmd : fr.md 0
  case false => rfl
  case true => exact State.withA_some (ha hmd) _

/-- Settles O16: a slot that cannot fire does nothing, and one that fires takes its trap. -/
theorem trapTakesTrap : Obligations.TrapTakesTrap := by
  intro s f fr hs hfire
  refine ⟨fireProg_idle hfire, ?_⟩
  intro a hfires ha detail info
  obtain ⟨-, he⟩ := State.fireOf_eq_some hfire
  have hcause : 0x16 < info.cause := by
    show 0x16 < 0x58 + fr.imm 4 3
    omega
  obtain ⟨helem, hframe, hregion⟩ := State.apply_trapEffects (key := fr.key) hs (rfl : info.orig = 0) hcause
  refine ⟨_, execTrap_traps ⟨hfire, hfires⟩ ha, ?elem, ?mem, ?am, ?sems, ?bars, ?cycle, fun b hb htv => ?record⟩
  case elem => exact helem ▸ State.trappedElem_eq s fr.key info
  case record =>
    have hrecord := hregion b hb
    rw [Region.record_first htv rfl] at hrecord
    exact hrecord ▸ ⟨rfl, rfl, rfl, rfl, rfl, rfl, rfl, rfl, rfl, rfl⟩
  all_goals exact hframe ▸ rfl

end Sys2Proof.Machine
end

section
/-! SUPPORT. The matrix instructions (spec 13 R301 to R310): those that load matrix state and read it back, and the pass over rows, its correction
and its columns' way south. -/

namespace Sys2Proof.Machine

variable {s : State} {f : Slot} {fr : Fire} {a : Opnd}

/-! Matrix state (spec 13 R301 to R304, R309, R310). -/

/-- MSCL describes the columns that its 32-bit lanes name, where the bank has them all (spec 13 R303). -/
theorem execMscl_describes (h : Fires f ownGuard always s fr) (ha : s.opA fr = some a) (hlw : a.pkt.lw = 2)
    (hcols : fr.imm 8 7 + a.pkt.lanes ≤ fr.e.me.cols (fr.imm 0 2)) :
    exec (.mscl f) s = .next (fr.landed (fr.matrix
      ((a.raws.zipIdx).foldl (fun m x => m.describe (fr.imm 0 2) (fr.imm 8 7 + x.2) (fr.imm 2 2) x.1.1 x.1.2) fr.e.me)) s) := by
  have hlength : ¬ fr.e.me.cols (fr.imm 0 2) < fr.imm 8 7 + a.raws.length := by simpa [Opnd.raws] using hcols
  exact fire_lands h ((State.withA_some ha _).trans ((if_neg (not_not.2 hlw)).trans (if_neg hlength))) rfl rfl

/-- MWLD writes its cells where A and, with a float format, B agree, no cell is out of range, and every exponent fits (spec 13 R301). -/
theorem execMwld_loads {o : Option Opnd} {cells : List CellWrite} {isInt : Bool} (h : Fires f ownGuard always s fr) (ha : s.opA fr = some a)
    (hint : decide (fr.f.md.toNat < 3) = isInt) (ho : (if isInt then none else s.opB fr) = o) (hread : isInt = true ∨ o.isSome = true)
    (hw : badWidth (lwCode (weightBits fr.f.md.toNat)) [{ a with fixed := false }] = none)
    (hlens : ∀ b ∈ o, a.count = b.count ∨ a.count = 1 ∨ b.count = 1) (hcells : fr.weightCells a o = cells.map some)
    (hlast : fr.imm 8 7 + cells.length - 1 < modeCols (BitVec.ofNat 2 (weightMode fr.f.md.toNat)))
    (hexp : ∀ c ∈ cells, -128 ≤ c.xb ∧ c.xb ≤ 127) :
    exec (.mwld f) s = .next (fr.landed (fr.matrix (fr.loadWeights a isInt cells s.free)) s) := by
  have hgiven : (!isInt && o.isNone) = false := by
    rcases hread with hint' | hsome
    · simp [hint']
    · simp [Option.isNone_eq_false_iff.2 hsome]
  have hin : (cells.map some).any (fun c => c.isNone) = false := by simp
  have hfit : cells.all (fun c => decide (-128 ≤ c.xb) && decide (c.xb ≤ 127)) = true := by simpa [List.all_eq_true] using hexp
  refine fire_lands h ((State.withA_some ha _).trans ?_) rfl rfl
  simp only [hint, ho, hw, hcells, hin, hgiven, List.length_map, filterMap_id_map_some, hfit, Bool.false_eq_true, if_false, if_true,
    if_neg (not_le.2 hlast)]
  refine if_neg ?_
  cases o with
  | none => simp
  | some b => simpa only [Bool.not_eq_true', Bool.not_eq_false, Bool.or_eq_true, decide_eq_true_eq, or_assoc] using hlens b rfl

/-- Weights of integer and pair formats are a byte each. -/
theorem weightBits_int {md : Nat} (h : md < 3) : weightBits md = 8 := if_neg (by omega)

/-- Settles O28: each instruction by the matrix state that it leaves; MWLD by whether its format reads B. -/
theorem matrixStateComplete : Obligations.MatrixStateComplete := by
  intro s f fr h m b made left
  obtain ⟨rfl, -⟩ := State.fireOf_eq_some h.1
  refine ⟨fire_lands h rfl rfl rfl, fire_lands h rfl rfl rfl, fire_lands h rfl rfl rfl, fire_lands h rfl rfl rfl,
    fun a ha => ⟨fun hlw hcols => ?mscl, fun cells hmd hw hcells hlast hexp => ?mwldInt, fun o cells hmd ho hw hlens hcells hlast hexp => ?mwldFloat⟩⟩
  case mscl => exact execMscl_describes h ha hlw hcols
  case mwldInt =>
    exact execMwld_loads h ha (decide_eq_true hmd) rfl (.inl rfl) (by rw [weightBits_int hmd]; exact hw) (by simp) hcells hlast hexp
  case mwldFloat =>
    exact execMwld_loads h ha (decide_eq_false (not_lt.2 hmd)) ho (.inr rfl) hw (by simpa using hlens) hcells hlast hexp

/-! Rows (spec 13 R305 to R308). -/

/-- A pass whose halves each hold one zero point, none of them without its column sums, makes no error (spec 13 R305). -/
theorem Fire.pass_adds {i : Nat} (hi : fr.e.me.older = some i) (hmixed : mixedZero (fr.e.me.buf i).rows = none)
    (hzero : (∀ r ∈ (fr.e.me.buf i).rows, r.zero = 0) ∨ fr.e.me.svOf fr.e.me.ab.toNat = true) :
    fr.pass =
      (let m := fr.e.me
       let rows := (m.buf i).rows
       let vals := rows.map (fun r => r.val fr.fmt)
       .done (fr.matrix { (m.setBuf i RowBuf.none).addColumns ((List.range (m.cols m.ab.toNat)).map (fun j =>
            ((m.columnSum m.ab.toNat j vals rows).1, poisBit (m.columnSum m.ab.toNat j vals rows).2))) with
          lb := m.ab, ra0 := rowSum vals rows 0, ra1 := rowSum vals rows 1, rv := true, ab := if fr.md 1 then m.ab + 1 else m.ab })) := by
  have hsums : ((fr.e.me.buf i).rows.any (fun r => decide (r.zero ≠ 0)) && !fr.e.me.svOf fr.e.me.ab.toNat) = false := by
    rcases hzero with hrows | hsv
    · have hnone : (fr.e.me.buf i).rows.any (fun r => decide (r.zero ≠ 0)) = false := by simpa using hrows
      rw [hnone, Bool.false_and]
    · rw [hsv, Bool.not_true, Bool.and_false]
  simp only [Fire.pass, hi, hmixed, hsums, Bool.false_eq_true, if_false]

/-- A firing that counts no error lands on the state that its own changes leave. -/
theorem fireWhen_landsOnPre {ready : Fire → State → Bool} {g : Fire → State → Outc} {d : Done} (h : Fires f ownGuard ready s fr)
    (hd : g fr s = .done d) (he : d.errs = 0) : fireWhen f ready g s = .next (fr.landed d (s.apply d.pre)) := by
  rw [fireWhen_done h hd, Fire.finish_pre he]

/-- Settles O29: a pass that makes no error, rows that find a place, the correction of a valid pass, and the row that leaves. -/
theorem matrixRowsComplete : Obligations.MatrixRowsComplete := by
  intro s f fr m made left
  refine ⟨fun h i hi => ?pass, fun h a m' i ha hw htake => ?feed, fun h hrv => ?correct, fun h => ⟨fun hmd => ?sends, fun p hmd hp hn => ?joins⟩⟩
  case pass =>
    intro rows hmixed hzero
    exact ⟨fireWhen_lands h (Fire.pass_adds hi hmixed hzero) rfl rfl, fireWhen_lands h (Fire.pass_adds hi hmixed hzero) rfl rfl⟩
  case feed =>
    obtain ⟨rfl, -⟩ := State.fireOf_eq_some h.1
    refine fireWhen_lands h ((State.withA_some ha _).trans ((Fire.widthOk_fits hw _).trans ?_)) rfl rfl
    simp only [show fr.e.me.take _ = some (m', i) from htake]
    rfl
  case correct =>
    have hvalid : ¬ (!fr.e.me.rv) = true := by simp [show fr.e.me.rv = true from hrv]
    exact fire_lands h (if_neg hvalid) rfl rfl
  case sends =>
    refine fireWhen_landsOnPre h ?_ rfl
    simp only [hmd, Bool.false_eq_true, if_false]
    rfl
  case joins =>
    refine fireWhen_landsOnPre h ?_ rfl
    simp only [hmd, hp, if_true, show p.n = fr.e.me.cols fr.e.me.ab.toNat from hn, ne_eq, not_true, if_false]
    rfl

end Sys2Proof.Machine
end

section
/-! SUPPORT. The canonical form along steps (log 2), and the state that reset leaves. -/

namespace Sys2Proof.Machine

variable {s t u v : State}

/-- Every instruction's meaning makes the changes of a part: none faults, none is refused. -/
theorem exec_completes (i : Instr) (s : State) : ∃ p : Prog, exec i s = complete p s := by
  cases i <;> exact ⟨_, rfl⟩

theorem exec_canonical {i : Instr} (hs : s.canonical = true) (h : exec i s = .next t) : t.canonical = true := by
  obtain ⟨p, hp⟩ := exec_completes i s
  obtain rfl : s.run p = t := Host.Outcome.next.inj (hp.symm.trans h)
  exact State.run_canonical s p hs

/-- The end of a turn makes the changes of a part, on the state that the meaning left or on the one before it. -/
theorem afterTurn_canonical (hu : u.canonical = true) (hv : v.canonical = true) (i : Instr) (x : Turn) : (afterTurn u v i x).canonical = true := by
  cases x with
  | element key =>
    cases h : u.longFiring v i key with
    | none => exact (afterTurn_whole (t := .element key) (fun k hk => by cases hk; exact h)) ▸ State.run_canonical v _ hv
    | some d => exact afterTurn_long h ▸ State.run_canonical u _ hu
  | command | thread | management | event => exact State.run_canonical v _ hv

theorem runTurn_canonical {x : Turn} (hu : u.canonical = true) (h : runTurn x u = .next t) : t.canonical = true := by
  cases hfetch : u.fetch x with
  | none =>
    obtain rfl := Host.Outcome.next.inj ((runTurn_idle hfetch).symm.trans h)
    exact State.run_canonical u _ hu
  | some y =>
    obtain ⟨i, f⟩ := y
    have hfocus : (u.perform (.focus f)).canonical = true := State.perform_canonical u _ hu
    obtain ⟨p, hp⟩ := exec_completes i (u.perform (.focus f))
    obtain rfl := Host.Outcome.next.inj ((runTurn_runs hfetch hp).symm.trans h)
    exact State.perform_canonical _ _ (afterTurn_canonical hu (exec_canonical hfocus hp) i x)

/-- Settles O55: a step without a turn begins a cycle, and one with a turn runs it; each makes changes, and every change keeps the form. -/
theorem stepKeepsCanonical : Obligations.StepKeepsCanonical := by
  intro s t hs h
  cases hpow : s.powered with
  | false => simp [step, hpow] at h
  | true =>
    cases hagenda : s.agenda with
    | nil =>
      obtain rfl : s.run newCycle = t := by simpa [step, hpow, hagenda] using h
      exact State.run_canonical s newCycle hs
    | cons x rest =>
      exact runTurn_canonical (State.run_canonical _ _ (State.perform_canonical s _ hs)) ((step_turn hpow hagenda).symm.trans h)

/-- Settles O56: the maps of the reset state list nothing (log 2, with the values that log 1 gives), so each entry reads as its own reset. -/
theorem resetCanonical : Obligations.ResetCanonical :=
  ⟨by decide, rfl, rfl, rfl, rfl, rfl, rfl, fun _ => rfl, fun _ => ⟨rfl, rfl, fun _ => rfl, fun _ => ⟨rfl, rfl, rfl⟩⟩, fun _ => rfl⟩

end Sys2Proof.Machine
end

section
/-! SUPPORT. The accumulate elements (spec 14 R325 to R336): descriptors, items and entries within their limits, and what each instruction makes of
them. -/

namespace Sys2Proof.Machine

variable {s : State} {f : Slot} {fr : Fire} {a b : Opnd} {ready : Fire → State → Bool} {g : Fire → State → Outc}

/-! What the steps of a firing run on with (spec 14 R325, R326). -/

theorem State.withDesc_ok {need : Nat} {l : List Nat} (h : s.descLanes fr need = .ok l) (k : List Nat → Outc) : s.withDesc fr need k = k l := by
  simp only [State.withDesc, h]

theorem limited_within {l : List (Bool × Nat)} (h : ∀ x ∈ l, x.1 = true) (k : Outc) : limited l k = k := by
  have hnone : l.find? (fun x => !x.1) = none := List.find?_eq_none.2 (fun x hx => by simp [h x hx])
  simp only [limited, hnone]

theorem ranged_of_le {limit : Nat} {l : List (Nat × Bool)} (h : ∀ x ∈ l, x.2 = false → x.1 ≤ limit) (k : Outc) : ranged limit l k = k := by
  refine ranged_within (List.any_eq_false.2 (fun x hx => ?_)) k
  cases hp : x.2
  · simpa using h x hx hp
  · simp

theorem Fire.withItems_ok {its : List Item} {bLen : Nat} (hw : badWidth (fmtLw fr.fmt) [a] = none) (hits : fr.items a = some its)
    (k : List Item → Outc) : fr.withItems a bLen k = k its := by
  simp only [Fire.withItems, Fire.widthOk_fits hw, hits]

/-- Where a live range of the core holds each entry that is read or added to (spec 14 R326). -/
theorem Fire.inRanges_held {l : List (Nat × Bool)} (hin : ∀ x ∈ l, x.2 = false → x.1 ≤ 32767)
    (hheld : ∀ x ∈ l, x.2 = false → (s.rangeAt fr.core x.1).isSome = true) (k : List (Option Nat) → Outc) :
    fr.inRanges s l k = k (l.map (fun x => if x.2 then none else s.rangeAt fr.core x.1)) := by
  refine (ranged_of_le hin _).trans (if_neg ?_)
  rw [← List.map_prod_left_eq_zip, List.any_map, Bool.not_eq_true]
  refine List.any_eq_false.2 (fun x hx => ?_)
  cases hp : x.2
  · have hsome := hheld x hx hp
    simp [hp, Option.isSome_iff_ne_none.1 hsome]
  · simp [hp]

/-- The contributions of items to the entries that their lanes name: those unpoisoned, each aligned to the range of its entry (spec 14 R331). -/
def Fire.joins (fr : Fire) (s : State) (its : List (Item × (Nat × Bool))) : List (Nat × Nat × BitVec 128) :=
  its.filterMap (fun x => if x.2.2 then none else
    (s.rangeAt fr.core x.2.1).map (fun d => (d, x.2.1, x.1.join (s.range fr.core d).x.toInt)))

/-- Items are added to the entries of their lanes where live ranges hold these (spec 14 R331). -/
theorem Fire.adds_held {its : List (Item × (Nat × Bool))} {pin : Option PartialRow} (hin : ∀ x ∈ its, x.2.2 = false → x.2.1 ≤ 32767)
    (hheld : ∀ x ∈ its, x.2.2 = false → (s.rangeAt fr.core x.2.1).isSome = true) :
    fr.adds s its pin = .done { fr.plain with
      e := { fr.e with pin := pin }, errs := poisonedCount (its.map (fun x => x.2)), pre := s.addAll fr.core (fr.joins s its) } := by
  have hgo : (its.zip ((its.map (fun x => x.2)).map (fun x => if x.2 then none else s.rangeAt fr.core x.1))).filterMap (fun x => match x.2 with
      | some d => some (d, x.1.2.1, x.1.1.join (s.range fr.core d).x.toInt)
      | none => none) = fr.joins s its := by
    rw [List.map_map, ← List.map_prod_left_eq_zip, List.filterMap_map, Fire.joins]
    refine List.filterMap_congr (fun x _ => ?_)
    cases hp : x.2.2
    · cases hd : s.rangeAt fr.core x.2.1 <;> simp [hp, hd]
    · simp [hp]
  refine (Fire.inRanges_held (List.forall_mem_map.2 hin) (List.forall_mem_map.2 hheld) _).trans ?_
  exact congrArg (fun go => Outc.done { fr.plain with
    e := { fr.e with pin := pin }, errs := poisonedCount (its.map (fun x => x.2)), pre := s.addAll fr.core go }) hgo

/-! Ranges and entries (spec 14 R328, R331, R333, R335). -/

theorem execArsv_reserves {l : List Nat} {d : Nat} (h : Fires f ownGuard always s fr) (hl : s.descLanes fr 3 = .ok l)
    (hx : firstXOk (l.getD 0 0) = true) (hcount : 1 ≤ l.getD 1 0) (hend : firstOf (l.getD 0 0) + l.getD 1 0 ≤ 32768) (hexp : 1 ≤ l.getD 2 0)
    (hmeets : s.rangeMeets fr.core (firstOf (l.getD 0 0)) (l.getD 1 0) = none) (hfree : s.freeRange fr.core = some d) :
    exec (.arsv f) s = .next (fr.landed
      { fr.plain with pre := [s.reserve fr.core d (firstOf (l.getD 0 0)) (l.getD 1 0) (l.getD 2 0) (xOf (l.getD 0 0)) (s.ridOf fr.key) (s.tcidOf fr.key)] }
      (s.apply [s.reserve fr.core d (firstOf (l.getD 0 0)) (l.getD 1 0) (l.getD 2 0) (xOf (l.getD 0 0)) (s.ridOf fr.key) (s.tcidOf fr.key)])) := by
  refine fire_landsAfter h ((State.withDesc_ok hl _).trans ((limited_within ?_ _).trans ?_)) rfl
  · simp only [List.forall_mem_cons, List.not_mem_nil, false_implies, implies_true, and_true]
    exact ⟨hx, by simp only [hcount, hend, decide_true, Bool.and_true], decide_eq_true hexp⟩
  · simp only [hmeets, hfree]

theorem execArel_frees {l : List Nat} {d : Nat} (h : Fires f ownGuard always s fr) (hl : s.descLanes fr 1 = .ok l) (hlast : l.getD 0 0 ≤ 32767)
    (hrange : s.rangeFrom fr.core (l.getD 0 0) = some d) :
    exec (.arel f) s = .next (fr.landed { fr.plain with pre := [s.releaseRange fr.core d] } (s.apply [s.releaseRange fr.core d])) := by
  refine fire_landsAfter h ((State.withDesc_ok hl _).trans ((limited_within (by simpa using hlast) _).trans ?_)) rfl
  simp only [hrange]

theorem execAclr_zeroes {l : List Nat} (h : Fires f ownGuard always s fr) (hl : s.descLanes fr 2 = .ok l) (hcount : 1 ≤ l.getD 1 0)
    (hmost : l.getD 1 0 ≤ 2048) (hend : l.getD 0 0 + l.getD 1 0 ≤ 32768) :
    let w : List Effect := [.amClear (32768 * fr.core + l.getD 0 0) (32768 * fr.core + l.getD 0 0 + l.getD 1 0)]
    exec (.aclr f) s = .next (fr.landed { fr.plain with pre := w } (s.apply w)) := by
  have hspan : ∀ x ∈ spanOk (l.getD 0 0) (l.getD 1 0) 2048, x.1 = true := by
    simp only [spanOk, List.forall_mem_cons, List.not_mem_nil, false_implies, implies_true, and_true, Bool.and_eq_true, decide_eq_true_eq]
    omega
  exact fire_landsAfter h ((State.withDesc_ok hl _).trans ((limited_within hspan _).trans (limited_within (by simpa using hend) _))) rfl

section Lanes

variable {its : List Item} {k : Nat}

/-- AWR writes the entries of the unpoisoned lanes; of a word that data lanes carry bits [127:109] are dropped (log 50). -/
theorem execAwr_writes (h : Fires f ownGuard always s fr) (ha : s.opA fr = some a) (hb : s.opB fr = some b)
    (hw : badWidth (fmtLw fr.fmt) [a] = none) (hits : fr.items a = some its) (hk : itemLength a its.length b = some k)
    (hin : ∀ x ∈ (List.range k).map (fun i => (b.bl i, b.bp i)), x.2 = false → x.1 ≤ 32767) :
    let l := (List.range k).map (fun i => (b.bl i, b.bp i))
    exec (.awr f) s = .next (s.apply (fr.finish { fr.plain with
      errs := poisonedCount l
      pre := l.zipIdx.flatMap (fun x => if x.1.2 then [] else [.am (32768 * fr.core + x.1.1) ((itemAt its x.2).join (signExt 9 (fr.imm 4 9)))]) } s)) := by
  refine fire_done h ((State.withAB_some ha hb _).trans ((Fire.withItems_ok hw hits _).trans ?_))
  simp only [hk]
  exact ranged_of_le hin _

/-- AADD adds to the entries of the unpoisoned lanes (spec 14 R331). -/
theorem execAadd_adds (h : Fires f ownGuard always s fr) (ha : s.opA fr = some a) (hb : s.opB fr = some b)
    (hw : badWidth (fmtLw fr.fmt) [a] = none) (hits : fr.items a = some its) (hk : itemLength a its.length b = some k)
    (hin : ∀ x ∈ (List.range k).map (fun i => (b.bl i, b.bp i)), x.2 = false → x.1 ≤ 32767)
    (hheld : ∀ x ∈ (List.range k).map (fun i => (b.bl i, b.bp i)), x.2 = false → (s.rangeAt fr.core x.1).isSome = true) :
    exec (.aadd f) s = .next (s.apply (fr.finish { fr.plain with
      errs := poisonedCount ((List.range k).map (fun i => (b.bl i, b.bp i)))
      pre := s.addAll fr.core ((List.range k).filterMap (fun i => if b.bp i then none else
        (s.rangeAt fr.core (b.bl i)).map (fun d => (d, b.bl i, (itemAt its i).join (s.range fr.core d).x.toInt)))) } s)) := by
  refine fire_done h ((State.withAB_some ha hb _).trans ((Fire.withItems_ok hw hits _).trans ?_))
  simp only [hk]
  refine (Fire.adds_held (by simpa using hin) (by simpa using hheld)).trans ?_
  rw [Fire.joins, List.filterMap_map, List.map_map]
  rfl

end Lanes

/-- Settles O30: the descriptors of each instruction are within their limits and its entries where it may reach them. -/
theorem rangesComplete : Obligations.RangesComplete := by
  intro s f fr h made
  refine ⟨fun l d hl => ?arsv, fun l d => execArel_frees h, fun l => execAclr_zeroes h, fun a b its k ha hb hw hits hk => ?lanes⟩
  case arsv => exact fun hx hcount hend hexp hmeets hfree => execArsv_reserves h hl hx hcount hend hexp hmeets hfree
  case lanes => exact fun hin => ⟨execAwr_writes h ha hb hw hits hk hin, execAadd_adds h ha hb hw hits hk hin⟩

/-! The partial row, and entries read (spec 14 R331, R334, R336). Every read corrects the errors that it finds and counts them (04 R83, log 52). -/

theorem mem_zipIdx_snd_lt {α : Type} {l : List α} {x : α × Nat} (h : x ∈ l.zipIdx) : x.2 < l.length := by
  simpa using (List.mem_zipIdx h).2.1

theorem PartialRow.items_length (p : PartialRow) : p.items.length = p.n := by simp [PartialRow.items]

/-- AADD of the partial row adds its columns to consecutive entries and empties it (spec 14 R331). -/
theorem execAaddPin_adds {p : PartialRow} (h : Fires f ownGuard Fire.readyAaddPin s fr) (hb : s.opB fr = some b) (hp : b.bp 0 = false)
    (hpin : s.pinOf fr.key = some p) (hheld : ∀ j < p.n, b.nat 0 + j ≤ 32767 ∧ (s.rangeAt fr.core (b.nat 0 + j)).isSome = true) :
    let l := s.addAll fr.core (p.items.zipIdx.filterMap (fun x =>
      (s.rangeAt fr.core (b.nat 0 + x.2)).map (fun d => (d, b.nat 0 + x.2, x.1.join (s.range fr.core d).x.toInt))))
    exec (.aaddPin f) s = .next (fr.landed { fr.plain with e := { fr.e with pin := none }, pre := l } (s.apply l)) := by
  intro l
  have hrow : ∀ x ∈ p.items.zipIdx, x.2 < p.n := fun x hx => p.items_length ▸ mem_zipIdx_snd_lt hx
  refine fireWhen_landsAfter (d := { fr.plain with e := { fr.e with pin := none } }) h ((State.withB_some hb _).trans ?_) rfl
  simp only [hpin, hp, Bool.false_eq_true, if_false]
  refine (Fire.adds_held (List.forall_mem_map.2 (fun x hx _ => (hheld x.2 (hrow x hx)).1))
    (List.forall_mem_map.2 (fun x hx _ => (hheld x.2 (hrow x hx)).2))).trans ?_
  have hnone : poisonedCount ((p.items.zipIdx.map (fun x => (x.1, (b.nat 0 + x.2, false)))).map (fun x => x.2)) = 0 := by
    simp [poisonedCount]
  rw [hnone, Fire.joins, List.filterMap_map]
  rfl

/-- A raw read needs no range (spec 14 R334). -/
theorem Fire.readRanges_raw {l : List (Nat × Bool)} (hfmt : fr.fmt = 16) (hin : ∀ x ∈ l, x.2 = false → x.1 ≤ 32767)
    (k : List (Option Nat) → Outc) : fr.readRanges s l k = k (l.map (fun _ => none)) :=
  (if_pos hfmt).trans (ranged_of_le hin _)

theorem Fire.readRanges_held {l : List (Nat × Bool)} (hfmt : fr.fmt ≠ 16) (hin : ∀ x ∈ l, x.2 = false → x.1 ≤ 32767)
    (hheld : ∀ x ∈ l, x.2 = false → (s.rangeAt fr.core x.1).isSome = true) (k : List (Option Nat) → Outc) :
    fr.readRanges s l k = k (l.map (fun x => if x.2 then none else s.rangeAt fr.core x.1)) :=
  (if_neg hfmt).trans (Fire.inRanges_held hin hheld k)

/-- ARD reads the entries of its lanes, as many as a packet has, under the ranges that it may (spec 14 R334). -/
theorem execArd_reads {ds : List (Option Nat)} (h : Fires f ownGuard always s fr) (ha : s.opA fr = some a) (hcap : a.pkt.lanes ≤ fr.readCap)
    (hranges : ∀ k, fr.readRanges s a.raws k = k ds) :
    let q := fr.readout s (a.raws.zip ds)
    exec (.ard f) s = .next (fr.landed { fr.lanesRng q.1 q.2 with pre := s.amRead fr.core a.raws } (s.apply (s.amRead fr.core a.raws))) := by
  have hfits : ¬ fr.readCap < a.raws.length := by simpa [Opnd.raws] using hcap
  exact fire_landsAfter h ((State.withA_some ha _).trans ((if_neg hfits).trans (hranges _))) rfl

/-- AFLSH reads the next entries of its span, as many as a packet has, and clears them under MOD[0] (spec 14 R334). -/
theorem execAflsh_reads {d : List Nat} (h : Fires f ownGuard always s fr) (hd : s.descLanes fr 2 = .ok d) (hc : 1 ≤ d.getD 1 0)
    (hend : d.getD 0 0 + d.getD 1 0 ≤ 32768) :
    let first := d.getD 0 0
    let c := d.getD 1 0
    let fc := if c ≤ fr.e.fc then 0 else fr.e.fc
    let n := Nat.min fr.readCap (c - fc)
    (fr.fmt ≠ 16 → ∀ i < n, (s.rangeAt fr.core (first + fc + i)).isSome = true) →
    let es := (List.range n).map (fun i => (first + fc + i, false))
    let q := fr.readout s ((List.range n).map (fun i => ((first + fc + i, false), if fr.fmt = 16 then none else s.rangeAt fr.core (first + fc + i))))
    let l : List Effect := s.amRead fr.core es ++ (if fr.md 0 then [.amClear (32768 * fr.core + first + fc) (32768 * fr.core + first + fc + n)] else [])
    exec (.aflsh f) s = .next (fr.landed { fr.lanesRng q.1 q.2 with
      e := { fr.e with rng := q.2, fc := if fc + n = c then 0 else fc + n }
      stBit := if fr.md 2 then some (fr.imm 10 3, decide (fc + n = c)) else none, pre := l } (s.apply l)) := by
  intro first c fc n hheld es q l
  have hfc : fc < c := by
    by_cases hfull : c ≤ fr.e.fc
    · simp only [fc, if_pos hfull]
      exact hc
    · simp only [fc, if_neg hfull]
      exact not_le.1 hfull
  have hn : n ≤ c - fc := Nat.min_le_right _ _
  have hspan : ∀ x ∈ spanOk first c 32768 ++ [(decide (first + c ≤ 32768), c)], x.1 = true := by
    simp only [spanOk, List.cons_append, List.nil_append, List.forall_mem_cons, List.not_mem_nil, false_implies, implies_true, and_true,
      Bool.and_eq_true, decide_eq_true_eq]
    omega
  have hin : ∀ x ∈ es, x.2 = false → x.1 ≤ 32767 :=
    List.forall_mem_map.2 (fun i hi _ => by have := List.mem_range.1 hi; show first + fc + i ≤ 32767; omega)
  have hranges : ∀ k, fr.readRanges s es k = k (es.map (fun x => if fr.fmt = 16 then none else s.rangeAt fr.core x.1)) := by
    intro k
    by_cases hfmt : fr.fmt = 16
    · simp only [Fire.readRanges_raw hfmt hin, hfmt, if_true]
    · refine (Fire.readRanges_held hfmt hin (List.forall_mem_map.2 (fun i hi _ => hheld hfmt i (List.mem_range.1 hi))) k).trans ?_
      simp only [es, hfmt, if_false, List.map_map, Function.comp_def, Bool.false_eq_true]
  have hq : q = fr.readout s (es.zip (es.map (fun x => if fr.fmt = 16 then none else s.rangeAt fr.core x.1))) := by
    rw [← List.map_prod_left_eq_zip, List.map_map]
    rfl
  rw [hq]
  exact fire_landsAfter h ((State.withDesc_ok hd _).trans ((limited_within hspan _).trans (hranges _))) rfl

/-- AWAIT gives the arrivals and the error of its range (spec 14 R336). -/
theorem execAwait_gives {l : List Nat} {d : Nat} (h : Fires f ownGuard Fire.readyAwait s fr) (hl : s.descLanes fr 1 = .ok l)
    (hlast : l.getD 0 0 ≤ 32767) (hrange : s.rangeFrom fr.core (l.getD 0 0) = some d) :
    let r := s.range fr.core d
    exec (.await f) s = .next (fr.landed { fr.result (dataPacket 2 fr.f.ot false [(r.arr, false), (bit01 r.err + 2 * r.cause, false)]) with
      stBit := if fr.md 2 then some (fr.imm 10 3, r.err) else none } s) := by
  refine fireWhen_lands h ((State.withDesc_ok hl _).trans ((limited_within (by simpa using hlast) _).trans ?_)) rfl rfl
  simp only [hrange]

/-- Settles O31: the partial row where live ranges hold its entries, ARD and AFLSH by their format, AWAIT by its range. -/
theorem readoutComplete : Obligations.ReadoutComplete := by
  intro s f fr
  refine ⟨fun h b p hb hp hpin hheld => execAaddPin_adds h hb hp hpin hheld, fun h a ha hcap => ?ard, fun h d hd => ?aflsh, fun h l d hl hlast hrange => ?await⟩
  case ard =>
    intro l hin
    refine ⟨fun hfmt => execArd_reads h ha hcap (Fire.readRanges_raw hfmt hin), fun hfmt hheld =>
      execArd_reads h ha hcap (Fire.readRanges_held hfmt hin hheld)⟩
  case aflsh => exact fun hc hend => execAflsh_reads h hd hc hend
  case await =>
    obtain ⟨rfl, -⟩ := State.fireOf_eq_some h.1
    exact execAwait_gives h hl hlast hrange

end Sys2Proof.Machine
end

section
/-! SUPPORT. Chains (spec 14 R318, R329, R330, R332): the cycle in which a send ends, and the request that binds a chain. -/

namespace Sys2Proof.Machine

variable {s : State} {f : Slot} {fr : Fire} {a b : Opnd} {its : List (Item × (Int × Bool))}

/-! The end of a send (spec 14 R330). -/

/-- The items of a send leave at offsets below COUNT and within NSEND, and this cycle takes the last of them (spec 14 R318, R330). -/
def Fire.endsSend (fr : Fire) (s : State) (its : List (Item × (Int × Bool))) : Prop :=
  (fr.e.feed = none → (∀ x ∈ its, x.2.2 = false → x.2.1 < (fr.chain.count : Int)) ∧ fr.chain.sent + its.length ≤ fr.chain.nsend)
  ∧ ((fr.e.feed = none ∧ chainLeft fr s its = []) ∨ (∃ w, chainLeft fr s its = [w]) ∧ fr.e.inj.length < 8)

/-- What a send leaves of its element, with n contributions sent and others skipped. -/
def Fire.sent (fr : Fire) (cur n skipped : Nat) (pin : Option PartialRow) (inj : List AccWord) (feed : Option (List AccWord)) (pre : List Effect) : Done :=
  { fr.plain with
    e := { fr.e.setChain fr.chainNo { fr.chain with cur := cur, sent := fr.chain.sent + n } with inj := inj, pin := pin, feed := feed }
    errs := skipped, pre := pre }

/-- The end of a send, whose state `chainSent` is. -/
def Fire.sendDone (fr : Fire) (s : State) (its : List (Item × (Int × Bool))) (cur : Nat) (pin : Option PartialRow) (clear : List Effect) : Done :=
  let n := (its.filter (fun x => !x.2.2)).length
  fr.sent cur n (its.length - n) pin (fr.e.inj ++ chainLeft fr s its) none
    (if fr.e.feed.isSome ∨ n = 0 then [] else .nextId (s.nextId + n) :: clear)

theorem chainSent_eq (cur : Nat) (pin : Option PartialRow) (clear : List Effect) :
    chainSent fr s its cur pin clear = s.apply (fr.finish (fr.sendDone s its cur pin clear) s) := rfl

theorem State.length_chainWords (key ci : Nat) (c : Chain) (l : List (Nat × BitVec 128)) : (s.chainWords key ci c l).length = l.length := by
  simp [State.chainWords]

/-- With nothing left to put into the buffer the firing ends as it stands; the last word ends it where the buffer has room (spec 14 R318). -/
theorem Fire.feeds_nil {words : List AccWord} {pre : List Effect} {d : Done} (h : fr.e.feed.getD words = []) : fr.feeds words pre d = .done d := by
  simp only [Fire.feeds, h]

theorem Fire.feeds_last {words : List AccWord} {pre : List Effect} {d : Done} {w : AccWord} (h : fr.e.feed.getD words = [w])
    (hroom : fr.e.inj.length < 8) :
    fr.feeds words pre d = .done { d with
      e := { d.e with inj := fr.e.inj ++ [w], feed := none }, pre := if fr.e.feed.isSome then [] else pre } := by
  simp only [Fire.feeds, h, if_neg (not_le.2 hroom), if_true]

theorem Fire.sendsOn_ends (g : Chain → Nat) {detail : Nat → Nat} {pin : Option PartialRow} {clear : List Effect} (h : fr.endsSend s its) :
    fr.sendsOn s its detail (fun c => { c with cur := g c }) pin clear = .done (fr.sendDone s its (g fr.chain) pin clear) := by
  obtain ⟨hlimits, hlast⟩ := h
  have hin : ¬ (fr.e.feed.isNone && its.any (fun x => !x.2.2 && decide ((fr.chain.count : Int) ≤ x.2.1))) = true := by
    intro hout
    obtain ⟨hfeed, x, hx, hp, hle⟩ := by simpa only [Bool.and_eq_true, Option.isNone_iff_eq_none, List.any_eq_true, Bool.not_eq_true',
      decide_eq_true_eq] using hout
    exact absurd ((hlimits hfeed).1 x hx hp) (not_lt.2 hle)
  have hsend : ¬ (fr.e.feed.isNone && decide (fr.chain.nsend < fr.chain.sent + its.length)) = true := by
    intro hout
    obtain ⟨hfeed, hlt⟩ := by simpa only [Bool.and_eq_true, Option.isNone_iff_eq_none, decide_eq_true_eq] using hout
    exact absurd (hlimits hfeed).2 (not_le.2 hlt)
  refine (if_neg hin).trans ((if_neg hsend).trans ?_)
  rcases hlast with ⟨hfeed, hnil⟩ | ⟨⟨w, hw⟩, hroom⟩
  case inl =>
    have hnone : (its.filter (fun x => !x.2.2)).length = 0 := by simpa [chainLeft, hfeed, State.chainWords] using hnil
    refine (Fire.feeds_nil hnil).trans ?_
    rw [Fire.sendDone, hnil, List.append_nil, if_pos (.inr hnone), ← hfeed]
    rfl
  case inr =>
    have hpre : (if fr.e.feed.isSome then [] else Effect.nextId (s.nextId + (s.chainWords fr.key fr.chainNo fr.chain
          ((its.filter (fun x => !x.2.2)).map (fun x => (x.2.1.toNat, x.1.join fr.chain.x.toInt)))).length) :: clear)
        = if fr.e.feed.isSome ∨ (its.filter (fun x => !x.2.2)).length = 0 then [] else
            .nextId (s.nextId + (its.filter (fun x => !x.2.2)).length) :: clear := by
      cases hfeed : fr.e.feed with
      | some l => simp
      | none =>
        have hone := congrArg List.length hw
        simp only [chainLeft, hfeed, Option.getD_none, State.length_chainWords, List.length_map, List.length_singleton] at hone
        simp [State.length_chainWords, hone]
    refine (Fire.feeds_last hw hroom).trans ?_
    rw [Fire.sendDone, hw, ← hpre]
    rfl

theorem Fire.bound_on (h : fr.chain.bound = true) (k : Outc) : fr.bound k = k := if_pos h

section Sends

variable {is : List Item} {k : Nat}

/-- Items that follow CUR, one after another (spec 14 R330). -/
def Fire.inOrder (fr : Fire) (is : List Item) : List (Item × (Int × Bool)) :=
  is.zipIdx.map (fun x => (x.1, (((fr.chain.base + fr.chain.cur + x.2 : Nat) : Int), false)))

theorem execAsend_ends (h : Fires f ownGuard always s fr) (hbound : fr.chain.bound = true) (ha : s.opA fr = some a)
    (hw : badWidth (fmtLw fr.fmt) [a] = none) (his : fr.items a = some is) (hends : fr.endsSend s (fr.inOrder is)) :
    exec (.asend f) s = .next (chainSent fr s (fr.inOrder is) (fr.chain.cur + is.length) fr.e.pin []) :=
  fire_done h ((Fire.bound_on hbound _).trans ((State.withA_some ha _).trans ((Fire.withItems_ok hw his _).trans
    (Fire.sendsOn_ends (fun c => c.cur + is.length) hends))))

theorem execAsendIdx_ends (h : Fires f ownGuard always s fr) (hbound : fr.chain.bound = true) (ha : s.opA fr = some a) (hb : s.opB fr = some b)
    (hw : badWidth (fmtLw fr.fmt) [a] = none) (his : fr.items a = some is) (hk : itemLength a is.length b = some k) :
    let l := (List.range k).map (fun i => (itemAt is i, (((fr.chain.base + b.bl i : Nat) : Int), b.bp i)))
    fr.endsSend s l → exec (.asendIdx f) s = .next (chainSent fr s l fr.chain.cur fr.e.pin []) := by
  intro l hends
  refine fire_done h ((Fire.bound_on hbound _).trans ((State.withAB_some ha hb _).trans ((Fire.withItems_ok hw his _).trans ?_)))
  simp only [hk]
  exact Fire.sendsOn_ends (fun c => c.cur) hends

theorem execAsendPin_ends {p : PartialRow} (h : Fires f ownGuard Fire.readyAsendPin s fr) (hbound : fr.chain.bound = true)
    (hpin : s.pinOf fr.key = some p) (hends : fr.endsSend s (fr.inOrder p.items)) :
    exec (.asendPin f) s = .next (chainSent fr s (fr.inOrder p.items) (fr.chain.cur + fr.chain.rstr) none []) := by
  refine fireWhen_done h ((Fire.bound_on hbound _).trans ?_)
  simp only [hpin]
  exact Fire.sendsOn_ends (fun c => c.cur + c.rstr) hends

/-- AXS sends the words of entries as they read; reading corrects them (log 52), and MOD[0] clears them (spec 14 R332). -/
theorem execAxs_ends {l : List Nat} {d : Nat} (h : Fires f ownGuard always s fr) (hbound : fr.chain.bound = true) (hl : s.descLanes fr 2 = .ok l) :
    let first := l.getD 0 0
    let k := l.getD 1 0
    let words := (List.range k).map (fun i =>
      (Item.word (waMask (s.amEntry fr.core (first + i)).toNat), (((fr.chain.base + fr.chain.cur + i : Nat) : Int), false)))
    1 ≤ k → k ≤ 256 → first ≤ 32767 → s.rangeAt fr.core first = some d → (s.range fr.core d).holds (first + k - 1) = true →
    (s.range fr.core d).x = fr.chain.x → fr.endsSend s words →
    exec (.axs f) s = .next (chainSent fr s words (fr.chain.cur + k) fr.e.pin
      (s.amFix fr.core ((List.range k).map (fun i => first + i))
        ++ (if fr.md 0 then [.amClear (32768 * fr.core + first) (32768 * fr.core + first + k)] else []))) := by
  intro first k words hk hmost hfirst hrange hholds hx hends
  have hspan : ∀ x ∈ spanOk first k 256, x.1 = true := by
    simp only [spanOk, List.forall_mem_cons, List.not_mem_nil, false_implies, implies_true, and_true, Bool.and_eq_true, decide_eq_true_eq]
    omega
  refine fire_done h ((Fire.bound_on hbound _).trans ((State.withDesc_ok hl _).trans ((limited_within hspan _).trans ?_)))
  by_cases hfeed : fr.e.feed.isSome = true
  · exact (if_pos hfeed).trans (Fire.sendsOn_ends (fun c => c.cur + k) hends)
  · refine (if_neg hfeed).trans ?_
    have hheld : ¬ (!(s.range fr.core d).holds (first + k - 1)) = true := by simp [hholds]
    simp only [show s.rangeAt fr.core (l.getD 0 0) = some d from hrange]
    exact (if_neg hheld).trans ((if_neg (not_not.2 hx)).trans (Fire.sendsOn_ends (fun c => c.cur + k) hends))

end Sends

/-! Binding (spec 14 R329). -/

/-- A firing that goes on: its element stays busy with it. -/
theorem fire_waits {g : Fire → State → Outc} {e : Elem} {l : List Effect} (h : Fires f ownGuard always s fr) (hw : g fr s = .wait e l) :
    fire f g s = .next (s.apply (l ++ [.elem fr.key { e with busy := some fr.n, left := 0, cons := s.consOf fr.key fr.e }])) := by
  rw [fire, fireProg_fires h, hw]
  rfl

theorem execAchain_asks {l : List Nat} {pkg core : Nat} (h : Fires f ownGuard always s fr) (hidle : fr.e.bindOf fr.chainNo = .idle)
    (hl : s.descLanes fr 5 = .ok l) (hok : ∀ x ∈ chainOk l, x.1 = true)
    (hsite : s.resolve fr.key (bits (l.getD 0 0) 9 6) (l.getD 0 0 % 512) = some (pkg, core)) (hdomain : s.inDomain pkg = true)
    (hcut : s.cutOff pkg = false) :
    let e := if fr.chain.bound then
        { fr.e.setChain fr.chainNo { fr.chain with bound := false } with inj := fr.e.inj ++ [s.unbindWord fr.key fr.chain] } else fr.e
    exec (.achain f) s = .next (s.apply [.accNet (s.accNet ++ [s.bindWord fr l (pkg, core)]),
      .elem fr.key { e.setBind fr.chainNo .asked with busy := some fr.n, left := 0, cons := s.consOf fr.key fr.e }]) := by
  intro e
  refine fire_waits (e := e.setBind fr.chainNo .asked) (l := [.accNet (s.accNet ++ [s.bindWord fr l (pkg, core)])]) h
    ((State.withDesc_ok hl _).trans ((limited_within hok _).trans ((if_neg (not_not.2 hidle)).trans ?_)))
  simp only [hsite, Option.filter_some, hdomain, if_true, hcut, Bool.false_eq_true, if_false]
  rfl

/-- Settles O32: each send by what ends it, ACHAIN by the core that its launch gives the logical one (log 48). -/
theorem chainsComplete : Obligations.ChainsComplete := by
  intro s f fr c fits
  refine ⟨fun h hbound a is ha hw his => ⟨execAsend_ends h hbound ha hw his, fun b k hb hk => execAsendIdx_ends h hbound ha hb hw his hk⟩,
    fun h hbound p hpin => execAsendPin_ends h hbound hpin, fun h hbound l d hl => execAxs_ends h hbound hl, fun h hidle l pkg core hl => ?achain⟩
  case achain =>
    intro h0 h1 h2 h3 h4 hsite hdomain hcut
    have hok : ∀ x ∈ chainOk l, x.1 = true := by
      simp only [chainOk, List.forall_mem_cons, List.not_mem_nil, false_implies, implies_true, and_true, decide_eq_true_eq]
      exact ⟨h0, h1, h2, h3, h4⟩
    exact execAchain_asks h hidle hl hok hsite hdomain hcut

end Sys2Proof.Machine
end

section
/-! SUPPORT. The words of the accumulate network (spec 14 R316, R320, R329, R337, R339). -/

namespace Sys2Proof.Machine

variable {s : State} {n : Nat} {w : AccWord} {g : AccWord → Option Prog} {p : Prog}

/-- The state once the word at place n has left the network. -/
def State.wordTaken (s : State) (n : Nat) : State := { s with accNet := listDrop s.accNet n }

/-- A word that leaves at a powered core of this package acts there (spec 14 R320, 01 R32). -/
theorem run_arrival_here (hw : s.wordAt n = some w) (hg : g w = some p) (hpkg : (w.path s.pkgNum).toPkg = s.pkgNum)
    (hon : s.powerOf (w.path s.pkgNum).toCore = .on) : s.run (arrival n g) = (s.wordTaken n).run p := by
  simp only [State.run, arrival, hw, hg, hpkg, hon, ne_eq, not_true, if_false, State.apply_cons, State.perform_accNet, State.wordTaken]

/-- A word for another package that can be reached leaves by its port (spec 14 R339). -/
theorem run_arrival_away (hw : s.wordAt n = some w) (hg : (g w).isSome = true) (hpkg : (w.path s.pkgNum).toPkg ≠ s.pkgNum)
    (hcut : s.cutOff (w.path s.pkgNum).toPkg = false) : s.run (arrival n g) = (s.wordTaken n).run (sendWord w) := by
  obtain ⟨p, hp⟩ := Option.isSome_iff_exists.1 hg
  simp only [State.run, arrival, hw, hp, if_pos hpkg, hcut, Bool.false_eq_true, if_false, State.apply_cons, State.perform_accNet, State.wordTaken]

/-! A range that a word reaches (spec 14 R320, R329). -/

section Ranges

variable {core ent dix first : Nat} {gen : BitVec 13} {x : BitVec 128}

/-- A contribution that exceeds neither the expected count nor the counter (spec 14 R320). -/
theorem State.addTo_counted (hexp : (s.range core dix).arr + 1 ≤ (s.range core dix).exp) (hcount : (s.range core dix).arr + 1 < 2 ^ 32) :
    s.addTo core dix ent x = s.amFix core [ent] ++ [.am (32768 * core + ent) (waAdd (s.amEntry core ent) x),
      .range (64 * core + dix) { s.range core dix with arr := (s.range core dix).arr + 1 }] := by
  have harr : Nat.min ((s.range core dix).arr + 1) (2 ^ 32 - 1) = (s.range core dix).arr + 1 := Nat.min_eq_left (by omega)
  simp only [State.addTo, harr, if_neg (not_lt.2 hexp)]

theorem State.apply_am_range (t : State) (k i : Nat) (w : BitVec 128) (r : RangeDesc) : t.apply [.am k w, .range i r] =
    { t with am := Map.set 0 t.am k w, amErr := Map.erase t.amErr k, ranges := Map.set RangeDesc.reset t.ranges i r } := rfl

/-- The entry is corrected as it is read (log 52), the contribution is added and counted. -/
theorem State.apply_addTo (hexp : (s.range core dix).arr + 1 ≤ (s.range core dix).exp) (hcount : (s.range core dix).arr + 1 < 2 ^ 32) :
    let t := s.apply (s.amFix core [ent])
    s.apply (s.addTo core dix ent x) = { t with
      am := Map.set 0 t.am (32768 * core + ent) (waAdd (s.amEntry core ent) x)
      amErr := Map.erase t.amErr (32768 * core + ent)
      ranges := Map.set RangeDesc.reset t.ranges (64 * core + dix) { s.range core dix with arr := (s.range core dix).arr + 1 } } := by
  rw [State.addTo_counted hexp hcount, State.apply_append]
  exact State.apply_am_range _ _ _ _ _

end Ranges

section Words

variable {core ent dix first id pkg src chain : Nat} {gen : BitVec 13} {x : BitVec 128}

theorem execContributionArrival_added (hw : s.wordAt n = some (.contrib id s.pkgNum core ent x dix gen src chain)) (hon : s.powerOf core = .on)
    (htag : (s.range core dix).tagged gen = true) (hholds : (s.range core dix).holds ent = true) :
    exec (.contributionArrival n) s = .next ((s.wordTaken n).apply ((s.wordTaken n).addTo core dix ent x)) := by
  refine congrArg Host.Outcome.next ((run_arrival_here hw rfl rfl hon).trans (congrArg _ (if_pos ?_)))
  show ((s.range core dix).tagged gen && (s.range core dix).holds ent) = true
  rw [htag, hholds, Bool.and_self]

/-- A contribution under the tag of no live range, or outside its range, is answered by a refusal (spec 14 R320, R337). -/
theorem execContributionArrival_refused (hw : s.wordAt n = some (.contrib id s.pkgNum core ent x dix gen src chain)) (hon : s.powerOf core = .on)
    (hout : (s.range core dix).live = false ∨ (s.range core dix).gen ≠ gen ∨ (s.range core dix).holds ent = false) :
    exec (.contributionArrival n) s = .next { s.wordTaken n with
      accNet := listDrop s.accNet n ++ [.refusal s.pkgNum core ent dix gen 0x44 src chain] } := by
  refine congrArg Host.Outcome.next ((run_arrival_here hw rfl rfl hon).trans (congrArg _ (if_neg ?_)))
  show ¬ ((s.range core dix).tagged gen && (s.range core dix).holds ent) = true
  rcases hout with hlive | hgen | hholds
  · simp [RangeDesc.tagged, hlive]
  · simp [RangeDesc.tagged, hgen]
  · simp [hholds]

theorem execMarkerArrival_counts (hw : s.wordAt n = some (.marker s.pkgNum core first dix gen src)) (hon : s.powerOf core = .on)
    (htag : (s.range core dix).tagged gen = true) :
    exec (.markerArrival n) s = .next { s.wordTaken n with
      ranges := Map.set RangeDesc.reset s.ranges (64 * core + dix) { s.range core dix with mrk := Nat.min ((s.range core dix).mrk + 1) 65535 } } :=
  congrArg Host.Outcome.next ((run_arrival_here hw rfl rfl hon).trans (congrArg _ (if_pos htag)))

theorem execUnbindArrival_counts (hw : s.wordAt n = some (.unbind s.pkgNum core first dix gen src)) (hon : s.powerOf core = .on)
    (htag : (s.range core dix).tagged gen = true) :
    exec (.unbindArrival n) s = .next { s.wordTaken n with
      ranges := Map.set RangeDesc.reset s.ranges (64 * core + dix) { s.range core dix with bnds := (s.range core dix).bnds - 1 } } :=
  congrArg Host.Outcome.next ((run_arrival_here hw rfl rfl hon).trans (congrArg _ (if_pos htag)))

/-! Binding (spec 14 R329). -/

theorem State.bindAnswerTo_bound {d tcid : Nat} {e : BitVec 9} (hd : s.rangeFrom core first = some d) (htcid : (s.range core d).tcid = tcid)
    (hx : (s.range core d).x = e) (hroom : (s.range core d).bnds ≠ 65535) :
    let r := s.range core d
    s.bindAnswerTo core first e tcid src chain = [.accNet (s.accNet ++ [.bindAns s.pkgNum core 4 r.count d r.gen r.x src chain]),
      .range (64 * core + d) { r with bnds := r.bnds + 1 }] := by
  simp only [State.bindAnswerTo, hd, htcid, hx, hroom, ne_eq, not_true, if_false]

theorem execBindRequest_binds {d tcid : Nat} {e : BitVec 9} (hw : s.wordAt n = some (.bindReq s.pkgNum core first e tcid src chain))
    (hon : s.powerOf core = .on) (hd : s.rangeFrom core first = some d) (htcid : (s.range core d).tcid = tcid) (hx : (s.range core d).x = e)
    (hroom : (s.range core d).bnds ≠ 65535) :
    let r := s.range core d
    exec (.bindRequest n) s = .next { s.wordTaken n with
      accNet := listDrop s.accNet n ++ [.bindAns s.pkgNum core 4 r.count d r.gen r.x src chain]
      ranges := Map.set RangeDesc.reset s.ranges (64 * core + d) { r with bnds := r.bnds + 1 } } := by
  refine congrArg Host.Outcome.next ((run_arrival_here hw rfl rfl hon).trans ?_)
  exact congrArg (s.wordTaken n).apply (State.bindAnswerTo_bound (s := s.wordTaken n) hd htcid hx hroom)

/-- The chain register that an answer of 4 loads, from the descriptor of its ACHAIN. -/
def boundChain (l : List Nat) (core count dix : Nat) (gen : BitVec 13) : Chain :=
  { bound := true, pkg := bits (l.getD 0 0) 9 6, lcore := l.getD 0 0 % 512, core := core, first := firstOf (l.getD 1 0), count := count
    x := xOf (l.getD 1 0), base := l.getD 2 0, rstr := l.getD 3 0, nsend := l.getD 4 0, cur := 0, sent := 0, dix := dix, gen := gen }

theorem State.apply_answered_bound {count : Nat} {e : BitVec 9} {fr : Fire} {l : List Nat} (hfr : s.bindFiring src chain = some fr)
    (hl : s.descLanes fr 5 = .ok l) :
    let idle : Fire := { fr with e := fr.e.setBind chain .idle }
    s.apply (s.answered pkg core 4 count dix gen e src chain) =
      idle.landed { idle.plain with e := idle.e.setChain chain (boundChain l core count dix gen) } s := by
  intro idle
  simp only [State.answered, hfr, hl]
  exact Fire.finish_plain rfl rfl

theorem execBindAnswer_binds {count : Nat} {e : BitVec 9} {fr : Fire} {l : List Nat}
    (hw : s.wordAt n = some (.bindAns pkg core 4 count dix gen e src chain)) (hon : s.powerOf (coreOf src) = .on)
    (hfr : (s.wordTaken n).bindFiring src chain = some fr) (hl : (s.wordTaken n).descLanes fr 5 = .ok l) :
    let idle : Fire := { fr with e := fr.e.setBind chain .idle }
    exec (.bindAnswer n) s =
      .next (idle.landed { idle.plain with e := idle.e.setChain chain (boundChain l core count dix gen) } (s.wordTaken n)) := by
  refine congrArg Host.Outcome.next ((run_arrival_here hw rfl rfl hon).trans ?_)
  exact State.apply_answered_bound hfr hl

/-- 64 cycles after a "not yet" the request goes again. -/
theorem execBindRetry_asks {key c : Nat} {fr : Fire} {l : List Nat} {q : Nat × Nat} (hfr : s.bindFiring key chain = some fr)
    (hagain : fr.e.bindOf chain = .again c) (hl : s.descLanes fr 5 = .ok l) (hdue : c ≤ s.cycle.toNat)
    (hsite : s.resolve key (bits (l.getD 0 0) 9 6) (l.getD 0 0 % 512) = some q) :
    exec (.bindRetry key chain) s = .next { s with
      elems := Map.set Elem.reset s.elems key (fr.e.setBind chain .reasked), accNet := s.accNet ++ [s.bindWord fr l q] } := by
  refine congrArg Host.Outcome.next ?_
  simp only [State.run, hfr, hagain, hl, if_pos hdue, hsite, State.apply_cons, State.apply_nil, State.perform_elem, State.perform_accNet]

/-! Refusals (spec 14 R337). -/

theorem execRefusalArrival_recorded {cause : Nat} (hw : s.wordAt n = some (.refusal pkg core ent dix gen cause src chain))
    (hon : s.powerOf (coreOf src) = .on) (hactive : (s.elem src).active = true) (hnone : (s.elem src).refRec = none) :
    exec (.refusalArrival n) s = .next { s.wordTaken n with
      elems := Map.set Elem.reset s.elems src { s.elem src with
        refRec := some { dix := dix, gen := gen, ent := ent, cause := cause, core := core, pkg := pkg, chain := chain }
        refCount := Nat.min ((s.elem src).refCount + 1) 65535 } } := by
  have hmember : ¬ (!(s.wordTaken n).isMember src) = true := by simp [State.isMember, show ((s.wordTaken n).elem src).active = true from hactive]
  refine congrArg Host.Outcome.next ((run_arrival_here hw rfl rfl hon).trans ?_)
  simp only [State.run, if_neg hmember, show ((s.wordTaken n).elem src).refRec = none from hnone]
  rfl

theorem execRefusalTrap_traps {key : Nat} {r : RefRecord} (hr : (s.elem key).refRec = some r) (hfree : s.isFree key = true) (hcause : r.cause = 0x44) :
    let t : State := { s with elems := Map.set Elem.reset s.elems key { s.elem key with refRec := none, refCount := 0 } }
    exec (.refusalTrap key) s = .next (t.apply (t.trapEffects key
      { cause := 0x44, orig := 4, slot := 0, ctx := (s.elem key).ctx.toNat, detail := detailOf [(9, r.core), (6, r.pkg), (15, r.ent), (1, r.chain)] })) := by
  refine congrArg Host.Outcome.next ?_
  simp only [State.run, hr, hfree, hcause, if_true, State.apply_cons, State.perform_elem]

end Words

/-- Settles O39: each word by the core or the port that it leaves at (log 34), and by what it finds there. -/
theorem accumulateNetworkComplete : Obligations.AccumulateNetworkComplete := by
  intro s n out
  refine ⟨fun id core ent w dix gen src chain hw hon => ⟨fun hlive hgen hholds hexp hcount => ?added, execContributionArrival_refused hw hon⟩,
    fun core first dix gen src => execMarkerArrival_counts, fun core first dix gen src => execUnbindArrival_counts,
    fun core first x tcid src chain d hw hon hd => execBindRequest_binds hw hon hd, fun w pkg core hw hpkg hcut => ?away,
    fun pkg core count dix gen x src chain fr l => execBindAnswer_binds,
    fun key chain fr c l q hfr hagain hl => execBindRetry_asks hfr hagain hl,
    fun pkg core ent dix gen cause src chain hw hon => execRefusalArrival_recorded hw hon, fun key r => execRefusalTrap_traps⟩
  case added =>
    have htag : (s.range core dix).tagged gen = true := by simp [RangeDesc.tagged, show (s.range core dix).live = true from hlive, hgen]
    exact (execContributionArrival_added hw hon htag hholds).trans
      (congrArg Host.Outcome.next (State.apply_addTo (s := s.wordTaken n) hexp hcount))
  case away =>
    refine ⟨?_, ?_, ?_, ?_⟩
    · rintro id ent x dix gen src chain rfl
      exact congrArg Host.Outcome.next (run_arrival_away hw rfl hpkg hcut)
    · rintro first dix gen src rfl
      exact congrArg Host.Outcome.next (run_arrival_away hw rfl hpkg hcut)
    · rintro first dix gen src rfl
      exact congrArg Host.Outcome.next (run_arrival_away hw rfl hpkg hcut)
    · rintro first x tcid src chain rfl
      exact congrArg Host.Outcome.next (run_arrival_away hw rfl hpkg hcut)

end Sys2Proof.Machine
end

section
/-! SUPPORT. Queue threads, their packets and what evaluates them (spec 16 R365 to R372, R380, R383). -/

namespace Sys2Proof.Machine

variable {s u : State} {t type : Nat} {p : QPacket}

/-! A packet that its thread may start (spec 16 R368, R369). -/

theorem startPacket_eq (s : State) (t n : Nat) : startPacket t n s = Prog.seq
    [fun u => [.thread t { u.thread t with started := (s.thread t).started + n, opened := (s.thread t).opened ++ [(s.thread t).started] }],
     foreWrite (s.thread t).tcid ((s.thread t).ringVa + 8) (leBytes 8 ((s.thread t).started + n))] s := rfl

theorem run_startPacket (s : State) (t : Nat) (p : QPacket) : s.run (startPacket t (packetSlots p)) = packetStarted s t p := by
  rw [State.run, startPacket_eq, State.apply_seq_cons, State.apply_seq_cons, State.apply_seq_nil]
  rfl

theorem run_packetTurn_starts {body : Nat → Nat → Prog} (hf : s.focus = .thread t) (hm : s.mayStart t p = true) (hok : queuePacketOk type p = true) :
    s.run (packetTurn type p body) = (packetStarted s t p).run (body t (s.thread t).started) := by
  have hturn : packetTurn type p body s = Prog.seq [startPacket t (packetSlots p), body t (s.thread t).started] s := by
    simp only [packetTurn, hf, hm, hok, Bool.not_true, Bool.false_eq_true, if_false, if_true]
  calc s.run (packetTurn type p body) = s.run (Prog.seq [startPacket t (packetSlots p), body t (s.thread t).started]) := congrArg s.apply hturn
    _ = (packetStarted s t p).run (body t (s.thread t).started) := by
      rw [State.run_seq_cons, State.run_seq_cons, State.run_seq_nil, run_startPacket]

/-- A packet that waits for the wake of no core takes its turn (spec 01 R32). -/
theorem gatedTurn_open {gate : Nat → Option Nat} {turn : Prog} (hf : s.focus = .thread t) (hg : gate t = none) : gatedTurn p gate turn s = turn s := by
  simp only [gatedTurn, hf, hg]

theorem State.unblocked_of_mayStart (h : s.mayStart t p = true) : (s.thread t).block = .none := by
  simp only [State.mayStart, Bool.and_eq_true, decide_eq_true_eq] at h
  exact h.1.2

/-- A thread with what blocks it. -/
def State.blockThread (s : State) (t : Nat) (b : Block) : State :=
  { s with threads := Map.set Thread.reset s.threads t { s.thread t with block := b } }

/-! NOPQ, COPYH, WAITQ, SIGQ and FENCEQ (spec 16 R368 to R370, R380). -/

section Packets

variable (hf : s.focus = .thread t) (hm : s.mayStart t p = true)
include hf hm

theorem execNopq_completes (hok : queuePacketOk 0 p = true) :
    exec (.nopq p) s = .next ((packetStarted s t p).run (completePacket t (s.thread t).started)) :=
  congrArg Host.Outcome.next (run_packetTurn_starts hf hm hok)

theorem execCopyh_offers (hok : queuePacketOk 3 p = true) :
    let u := packetStarted s t p
    let core := p.first.w1.toNat % 512
    exec (.copyh p) s = .next { u with
      gated := if u.powerOf core = .on then u.gated else Map.set .on u.gated core .waking
      engines := Map.set Engine.reset u.engines (4 * core) { u.engine core 0 with offers := (u.engine core 0).offers
        ++ [{ c := p.second, src := .thread t (s.thread t).started, tcid := (u.thread t).tcid, slot := (s.thread t).started }] } } := by
  intro u core
  refine congrArg Host.Outcome.next ((run_packetTurn_starts hf hm hok).trans ?_)
  have hcore : bits p.first.w1.toNat 0 9 = core := bits_low _ 9
  by_cases hon : u.powerOf core = .on
  · simp only [State.run, hcore, show (packetStarted s t p).powerOf core = .on from hon, if_true, List.nil_append, State.apply_cons,
      State.apply_nil, State.perform_engine, hon]
    rfl
  · simp only [State.run, hcore, show ¬ (packetStarted s t p).powerOf core = .on from hon, if_false, List.cons_append, List.nil_append,
      State.apply_cons, State.apply_nil, State.perform_engine, State.perform_gate, hon]
    rfl

theorem execWaitq_blocks (hok : queuePacketOk 4 p = true) :
    exec (.waitq p) s = .next (((packetStarted s t p).blockThread t (.waitq (p.first.w1.toNat % 2 ^ 48) p.first.w2 (p.first.w3.toNat % 4)
      (p.first.w3.getLsbD 8))).run (evaluateWait t)) := by
  refine congrArg Host.Outcome.next ((run_packetTurn_starts hf hm hok).trans ?_)
  rw [State.run_seq_cons, State.run_seq_cons, State.run_seq_nil, bits_low, bits_low]
  rfl

theorem execFenceq_blocks (hok : queuePacketOk 6 p = true) :
    exec (.fenceq p) s = .next (((packetStarted s t p).blockThread t (.fenceq p)).run (evaluateFence t)) := by
  refine congrArg Host.Outcome.next (Eq.trans ?_ ((run_packetTurn_starts (body := fun t _ => Prog.seq
    [fun s => [.thread t { s.thread t with block := .fenceq p }], evaluateFence t]) hf hm hok).trans ?_))
  · simp only [State.run, hf, State.unblocked_of_mayStart hm]
  · rw [State.run_seq_cons, State.run_seq_cons, State.run_seq_nil]
    rfl

theorem execSigq_signals {ps : List Piece} (hok : queuePacketOk 5 p = true) (hps : s.checkSigq (s.thread t).tcid p = .ok ps)
    (hgate : s.gateOf ps = none) :
    exec (.sigq p) s = .next ((packetStarted s t p).run (signalPacket t (s.thread t).started p ps)) := by
  refine congrArg Host.Outcome.next (Eq.trans ?_ (run_packetTurn_starts (body := fun t idx => signalPacket t idx p ps) hf hm hok))
  simp only [State.run, hf, hps, hgate]

theorem execSigq_stops {c : Nat} (hok : queuePacketOk 5 p = true) (hc : s.checkSigq (s.thread t).tcid p = .error c) :
    exec (.sigq p) s = .next ((packetStarted s t p).run (stopQueue t (s.thread t).started c)) := by
  refine congrArg Host.Outcome.next (Eq.trans ?_ (run_packetTurn_starts (body := fun t idx => stopQueue t idx c) hf hm hok))
  simp only [State.run, hf, hc]

end Packets

/-! LAUNCH (spec 16 R365, R372). -/

section Launches

variable {id : Nat} {plan : Plan} {cont : Container} {l m : List Effect} {b : List (Byte × Bool)}

/-- A launch that has entered the list: it waits, and its packet blocks the thread. -/
def State.launchEntered (s : State) (t : Nat) (x : Launch) (l : List Effect) : State :=
  { s.apply l with
    nextId := s.nextId + 1, launches := s.launches ++ [x], threads := Map.set Thread.reset (s.apply l).threads t { s.thread t with block := .launch x.id } }

/-- A launch that waits is placed where Foreveder chooses (spec 16 R363, R365, log 9). -/
def placeChosen (x : Launch) (plan : Plan) (cont : Container) : Prog := fun s =>
  match s.choose x.tcid plan cont with
  | some place => launchAt x plan cont place s
  | none => []

theorem run_launchPacket_enters {idx : Nat}
    (hrec : s.readChecked (s.foreWho (s.thread t).tcid) ((bits p.first.w1.toNat 0 48 : Nat) : Int) 32 = .ok (b, l))
    (hcpl : s.cplFail (s.thread t).tcid (recordCpl (leNat (b.map (fun y => y.1)))) = none)
    (hplan : s.readPlan (s.thread t).tcid (bits p.first.w1.toNat 0 48) (leNat (b.map (fun y => y.1))) = .ok (plan, cont, m))
    (hcould : s.couldPlace plan = true) :
    let x := plan.launch s.nextId (s.thread t).tcid t idx
    s.run (launchPacket t idx p) = (s.launchEntered t x (l ++ m)).run (placeChosen x plan cont) := by
  intro x
  calc s.run (launchPacket t idx p)
    _ = s.run (Prog.seq
        [fun s => l ++ m ++ [.nextId (s.nextId + 1), .launches (s.launches ++ [x]), .thread t { s.thread t with block := .launch x.id }],
         placeChosen x plan cont]) := by
      simp only [State.run, launchPacket, hrec, hcpl, hplan, hcould, Bool.not_true, Bool.false_eq_true, if_false]
      rfl
    _ = (s.launchEntered t x (l ++ m)).run (placeChosen x plan cont) := by
      rw [State.run_seq_cons, State.run_seq_cons, State.run_seq_nil]
      refine congrArg (fun u => State.run u (placeChosen x plan cont)) ?_
      exact State.apply_append s (l ++ m) _

/-- A LAUNCH packet whose record and container lie in no gated core starts. -/
theorem execLaunch_starts (hf : s.focus = .thread t) (hm : s.mayStart t p = true) (hok : queuePacketOk 1 p = true)
    (hgate : s.launchGate (s.thread t).tcid (bits p.first.w1.toNat 0 48) = none) :
    exec (.launch p) s = .next ((packetStarted s t p).run (launchPacket t (s.thread t).started p)) :=
  (congrArg (fun l => Host.Outcome.next (s.apply l)) (gatedTurn_open hf hgate)).trans
    (congrArg Host.Outcome.next (run_packetTurn_starts (body := fun t idx => launchPacket t idx p) hf hm hok))

theorem run_placeChosen_none {x : Launch} (h : s.choose x.tcid plan cont = none) : s.run (placeChosen x plan cont) = s := by
  simp only [State.run, placeChosen, h, State.apply_nil]

theorem run_placeChosen_some {x : Launch} {place : List Nat} (h : s.choose x.tcid plan cont = some place) :
    s.run (placeChosen x plan cont) = s.run (launchAt x plan cont place) := by
  simp only [State.run, placeChosen, h]

end Launches

/-! DELTA (spec 16 R382, R383). -/

section Deltas

variable {q : Launch} {ds : List DeltaRec} {e : List Effect}

/-- A DELTA packet whose container lies in no gated core starts, where no delta of its launch is in progress. -/
theorem execQueueDelta_starts (hf : s.focus = .thread t) (hm : s.mayStart t p = true) (hok : queuePacketOk 2 p = true)
    (hgate : s.deltaGate (s.thread t).tcid p = none) (hq : s.launchNamed (s.thread t).tcid (BitVec.ofNat 16 p.first.w1.toNat) = some q)
    (hidle : q.delta = none) :
    exec (.queueDelta p) s = .next ((packetStarted s t p).run (deltaPacket t (s.thread t).started p)) := by
  have hfree : s.inDelta (s.thread t).tcid p = false := by simp only [State.inDelta, hq, hidle, Option.isSome_none]
  refine (congrArg (fun l => Host.Outcome.next (s.apply l)) ((gatedTurn_open hf hgate).trans ?_)).trans
    (congrArg Host.Outcome.next (run_packetTurn_starts (body := fun t idx => deltaPacket t idx p) hf hm hok))
  simp only [hf, hfree, Bool.false_eq_true, if_false]

theorem deltaPacket_holds {idx : Nat} (hq : s.launchNamed (s.thread t).tcid (BitVec.ofNat 16 p.first.w1.toNat) = some q) (hplaced : q.waiting = false)
    (hruns : s.launchStopped q = false)
    (hread : s.readDelta (s.foreWho (s.thread t).tcid) (bits p.first.w2.toNat 0 48) q.ncores = .ok (ds, e)) (hinside : s.deltaInside q ds = true) :
    deltaPacket t idx p s =
      e ++ (s.deltaHolds q ds).flatMap (fun k => s.dropOffers k ++ [.elem k { s.cancelled k (s.elem k) with held := true }])
        ++ [s.setLaunch q.id (fun l => { l with delta := some ds, deltaThread := t, deltaPacket := idx })] := by
  have hname : BitVec.ofNat 16 (bits p.first.w1.toNat 0 16) = BitVec.ofNat 16 p.first.w1.toNat := by
    rw [bits_low]
    exact BitVec.eq_of_toNat_eq (by simp)
  simp only [deltaPacket, hname, hq, hplaced, hruns, hread, hinside, Bool.or_self, Bool.not_true, Bool.false_eq_true, if_false]

end Deltas

/-- Settles O42: each packet that its thread may start starts, then does its work; placements by log 9, refused signals by logs 54 and 57. -/
theorem queuePacketsComplete : Obligations.QueuePacketsComplete := by
  intro s t p hf hm x u word thread
  refine ⟨execNopq_completes hf hm, execCopyh_offers hf hm, execWaitq_blocks hf hm,
    fun hok => ⟨fun ps => execSigq_signals hf hm hok, fun c => execSigq_stops hf hm hok⟩, execFenceq_blocks hf hm, ?launch, ?delta⟩
  case launch =>
    intro hok hgate b l plan cont m tcid hrec h hcpl hplan hcould q v entered
    have hva : bits p.first.w1.toNat 0 48 = word 1 % 2 ^ 48 := bits_low _ 48
    have hstart := execLaunch_starts hf hm hok (hva ▸ hgate)
    have henter := run_launchPacket_enters (idx := x.started) (hva ▸ hrec) hcpl (hva ▸ hplan) hcould
    refine ⟨fun hnone => ?_, fun place hsome => ?_⟩
    · rw [hstart, henter]
      exact congrArg Host.Outcome.next (run_placeChosen_none hnone)
    · rw [hstart, henter]
      exact congrArg Host.Outcome.next (run_placeChosen_some hsome)
  case delta =>
    intro hok hgate q ds e tcid hq hidle hqu hplaced hruns hread hinside
    have hva : bits p.first.w2.toNat 0 48 = word 2 % 2 ^ 48 := bits_low _ 48
    exact (execQueueDelta_starts hf hm hok hgate hq hidle).trans (congrArg (fun w => Host.Outcome.next (u.apply w))
      (deltaPacket_holds hqu hplaced hruns (hva ▸ hread) hinside))

end Sys2Proof.Machine
end

section
/-! SUPPORT. Doorbells, waits that are evaluated, placements, deltas that are applied, and the run list (spec 16 R363 to R371, R383). -/

namespace Sys2Proof.Machine

variable {s : State} {t id : Nat}

theorem execQueueDoorbell_wakes (hbound : (s.thread t).bound = true) (hmapped : (s.thread t).mapped = true) :
    exec (.queueDoorbell t) s = .next { s with threads := Map.set Thread.reset s.threads t { s.thread t with awake := true } } :=
  congrArg (fun l => Host.Outcome.next (s.apply l)) (if_pos (by rw [hbound, hmapped, Bool.and_self]))

theorem Prog.when_true {c : State → Bool} {p : Prog} (h : c s = true) : Prog.when c p s = p s := if_pos h

/-! Evaluations (spec 16 R370, R371, R380). -/

theorem execWaitqEvaluate_evaluates (hbound : (s.thread t).bound = true) (hmapped : (s.thread t).mapped = true)
    (hstopped : (s.thread t).stopped = false) : exec (.waitqEvaluate t) s = .next (s.run (evaluateWait t)) :=
  congrArg (fun l => Host.Outcome.next (s.apply l)) (Prog.when_true (by rw [hbound, hmapped, hstopped]; rfl))

/-- The value of a WAITQ is read; a semaphore's is its count, where its ERR is clear (spec 16 R370). -/
theorem run_evaluateWait {va cond : Nat} {v : BitVec 64} {sem : Bool} {ps : List Piece} (hblock : (s.thread t).block = .waitq va v cond sem)
    (hps : s.checkBehalf (s.thread t).tcid .read va 8 = .ok ps) (hgate : s.gateOf ps = none) :
    let w := leNat ((s.fetchFrom [] s.free ps).map (fun b => b.1))
    let u := s.apply (s.fetchEffects (s.behalf (s.thread t).tcid).role (s.thread t).tcid ps)
    (sem = false ∨ bits w 31 1 = 0) →
    s.run (evaluateWait t) = if waitHolds cond (if sem then bits w 0 24 else w) v.toNat then u.run (endWait t) else u := by
  intro w u hclear
  have hok : ¬ (sem = true ∧ bits w 31 1 = 1) := by
    rintro ⟨hsem, herr⟩
    rcases hclear with h | h
    · simp [hsem] at h
    · omega
  have heval : evaluateWait t s = if waitHolds cond (if sem then bits w 0 24 else w) v.toNat then
      Prog.seq [fun _ => s.fetchEffects (s.behalf (s.thread t).tcid).role (s.thread t).tcid ps, endWait t] s
      else s.fetchEffects (s.behalf (s.thread t).tcid).role (s.thread t).tcid ps := by
    simp only [evaluateWait, hblock, hps, hgate]
    exact if_neg hok
  rw [State.run, heval, apply_ite s.apply, State.apply_seq_cons, State.apply_seq_cons, State.apply_seq_nil]
  rfl

theorem execFenceq_evaluates {p q : QPacket} (hf : s.focus = .thread t) (hblock : (s.thread t).block = .fenceq q)
    (hmapped : (s.thread t).mapped = true) (hstopped : (s.thread t).stopped = false) :
    exec (.fenceq p) s = .next (s.run (evaluateFence t)) := by
  refine congrArg (fun l => Host.Outcome.next (s.apply l)) ?_
  simp only [hf, hblock]
  exact Prog.when_true (by rw [hmapped, hstopped]; rfl)

/-! Launches that wait (spec 16 R363, R365): the container is read again (log 56). -/

theorem execLaunchPlacement_places {l : Launch} {place : List Nat} {c : Container} {m : List Effect} (hl : s.launch? id = some l)
    (hwaits : l.waiting = true) (hread : s.readContainer (s.foreWho l.tcid) l.img = .ok (c, m)) (himages : l.plan.imagesIn c = true)
    (hplace : s.placementOk l.tcid l.plan c place = true) :
    exec (.launchPlacement id place) s = .next ((s.apply m).run (launchAt l l.plan c place)) := by
  have heffects : exec (.launchPlacement id place) s = .next (s.apply (m ++ launchAt l l.plan c place (s.apply m))) := by
    refine congrArg (fun l => Host.Outcome.next (s.apply l)) ?_
    simp only [hl, hwaits, hread, himages, hplace, Bool.not_true, Bool.false_eq_true, if_false, if_true]
  rw [heffects, State.apply_append]
  rfl

/-! Deltas whose elements have all stopped (spec 16 R383, R384). -/

section Deltas

variable {l : Launch} {ds : List DeltaRec}

/-- The delta of a launch is over. -/
def State.deltaEnded (s : State) (id : Nat) : State :=
  { s with launches := s.launches.map (fun l => if l.id = id then { l with delta := none } else l) }

/-- Nothing holds a delta back: its launch runs on, its held elements have stopped and none of its regions is completing. -/
def State.deltaReady (s : State) (l : Launch) : Prop :=
  s.launchStopped l = false ∧ (∀ k ∈ s.heldBy l, (s.elem k).busy = none) ∧ ∀ b ∈ l.regions, (s.region b).state ≠ .completing

theorem State.deltaReady_goes (h : s.deltaReady l) :
    ¬ ((s.heldBy l).any (fun k => (s.elem k).busy.isSome) || l.regions.any (fun b => (s.region b).state = .completing)) = true := by
  obtain ⟨-, hheld, hregions⟩ := h
  simp only [Bool.or_eq_true, List.any_eq_true, decide_eq_true_eq, not_or, not_exists, not_and]
  exact ⟨fun k hk => by simp [hheld k hk], hregions⟩

theorem execDeltaApply_writes (hl : s.launch? id = some l) (hds : l.delta = some ds) (hready : s.deltaReady l)
    (hpass : (s.apply (deltaContexts l ds s)).deltaFail (deltaChanged l ds) = none) :
    exec (.deltaApply id) s = .next (((s.deltaEnded id).apply (deltaContexts l ds s)).run
      (Prog.seq [deltaConstants l ds, releaseHolds l true, completePacket l.deltaThread l.deltaPacket])) := by
  have heffects : exec (.deltaApply id) s = .next (s.apply (Prog.seq
      [fun _ => s.setLaunch id (fun l => { l with delta := none }) :: deltaContexts l ds s, deltaConstants l ds, releaseHolds l true,
       completePacket l.deltaThread l.deltaPacket] s)) := by
    refine congrArg (fun l => Host.Outcome.next (s.apply l)) ?_
    simp only [hl, hds, hready.1, Bool.false_eq_true, if_false, hpass]
    exact if_neg (State.deltaReady_goes hready)
  rw [heffects, State.apply_seq_cons]
  rfl

theorem execDeltaApply_refuses {f : LoadFail} (hl : s.launch? id = some l) (hds : l.delta = some ds) (hready : s.deltaReady l)
    (hfail : (s.apply (deltaContexts l ds s)).deltaFail (deltaChanged l ds) = some f) :
    exec (.deltaApply id) s = .next ((s.deltaEnded id).run
      (Prog.seq [releaseHolds l false, refuseDelta l.deltaThread l.deltaPacket f.cause (failingRecord l ds f)])) := by
  have heffects : exec (.deltaApply id) s = .next (s.apply (Prog.seq
      [fun _ => [s.setLaunch id (fun l => { l with delta := none })], releaseHolds l false,
       refuseDelta l.deltaThread l.deltaPacket f.cause (failingRecord l ds f)] s)) := by
    refine congrArg (fun l => Host.Outcome.next (s.apply l)) ?_
    simp only [hl, hds, hready.1, Bool.false_eq_true, if_false, hfail]
    exact if_neg (State.deltaReady_goes hready)
  rw [heffects, State.apply_seq_cons]
  rfl

end Deltas

/-! The run list (spec 16 R371). -/

theorem execRunListTurn_turns {p : Nat} (hp : s.nextProc s.runPos = some p) :
    let turned : State := State.apply { s with runPos := p, turnAt := s.cycle.toNat + (s.proc p).quantum * s.clock }
      (s.threads.map (fun x => .thread x.1 { x.2 with mapped := x.2.bound && decide (x.2.tcid = p), awake := x.2.bound && decide (x.2.tcid = p) }))
    exec .runListTurn s = .next (turned.run (Prog.forEach (turned.launches.filter (fun l => l.waiting && l.tcid = p)) (yieldCores p s.runPos))) := by
  intro turned
  have heffects : runListTurn s = Prog.seq
      [fun s => [.runPos p (s.cycle.toNat + (s.proc p).quantum * s.clock)],
       fun s => s.threads.map (fun x => .thread x.1 { x.2 with mapped := x.2.bound && x.2.tcid = p, awake := x.2.bound && x.2.tcid = p }),
       fun u => Prog.forEach (u.launches.filter (fun l => l.waiting && l.tcid = p)) (yieldCores p s.runPos) u] s := by
    simp only [runListTurn, hp]
  refine (congrArg (fun l => Host.Outcome.next (s.apply l)) heffects).trans ?_
  rw [State.apply_seq_cons, State.apply_seq_cons, State.apply_seq_cons, State.apply_seq_nil]
  rfl

/-- Settles O43: each event once its condition holds; the container is read again (log 56), a refused delta goes to the operator too (log 49). -/
theorem queueEventsComplete : Obligations.QueueEventsComplete := by
  intro s t x
  refine ⟨fun hbound hmapped => ⟨execQueueDoorbell_wakes hbound hmapped, fun hstopped va v cond sem ps hblock hps hgate => ?wait⟩,
    fun p q hf => execFenceq_evaluates hf, fun id l place c m => execLaunchPlacement_places,
    fun id l ds hl hds hruns hheld hregions => ?delta, fun p => execRunListTurn_turns⟩
  case wait =>
    intro w u hclear
    have hrun := run_evaluateWait hblock hps hgate hclear
    rw [bits_low] at hrun
    have hexec := execWaitqEvaluate_evaluates hbound hmapped hstopped
    exact ⟨fun hholds => hexec.trans (congrArg Host.Outcome.next (hrun.trans (if_pos hholds))),
      fun hfails => hexec.trans (congrArg Host.Outcome.next (hrun.trans (if_neg (ne_true_of_eq_false hfails))))⟩
  case delta => exact ⟨execDeltaApply_writes hl hds ⟨hruns, hheld, hregions⟩, fun f => execDeltaApply_refuses hl hds ⟨hruns, hheld, hregions⟩⟩

end Sys2Proof.Machine
end

section
/-! SUPPORT. Invocations of regions, from their children to their ends, and the operations on regions (spec 16 R377, R386, 17 R399 to R408). -/

namespace Sys2Proof.Machine

variable {s : State} {core block blk : Nat}

/-! An invocation whose sinks have all reported ends once nothing of it is under way (spec 16 R377). -/

theorem execInvocationCompletion_begins
    (hstate : (s.region (16 * core + block)).state = .running ∨ (s.region (16 * core + block)).state = .preempting)
    (hsinks : (s.region (16 * core + block)).snkx ≠ 0)
    (hall : (s.region (16 * core + block)).snkx ≤ (s.region (16 * core + block)).snkd) :
    exec (.invocationCompletion core block) s = .next (s.run (beginCompletion (16 * core + block))) :=
  congrArg (fun l => Host.Outcome.next (s.apply l)) (if_pos ⟨hstate, hsinks, hall⟩)

theorem State.run_beginCompletion (s : State) (blk : Nat) :
    let t := s.apply (s.pauseCmds blk false ++ (s.regionElems blk).flatMap (fun k => s.dropOffers k ++
      [.elem k { s.cancelled k (s.elem k) with active := false, opening := none, held := false, inject := [] }]))
    s.run (beginCompletion blk) = { t with regions := Map.set Region.reset t.regions blk { s.region blk with state := .completing, cutAt := 0 } } :=
  State.apply_append s _ [.region blk { s.region blk with state := .completing, cutAt := 0 }]

theorem execInvocationCompletion_finishes (hstate : (s.region (16 * core + block)).state = .completing)
    (hidle : ∀ k ∈ s.regionElems (16 * core + block), (s.elem k).busy = none)
    (hover : s.outstanding core (s.regionElems (16 * core + block)) = false) :
    exec (.invocationCompletion core block) s = .next (s.run (finishCompletion (16 * core + block))) := by
  have hbusy : (s.regionElems (16 * core + block)).any (fun k => (s.elem k).busy.isSome) = false :=
    List.any_eq_false.mpr (fun k hk => by simp [hidle k hk])
  refine congrArg (fun l => Host.Outcome.next (s.apply l)) ?_
  exact (if_neg (by simp [hstate])).trans (if_pos (by simp [hstate, hbusy, hover]))

/-! The first child of an idle region (spec 16 R386). -/

/-- The region takes its next child. -/
def State.childTaking (s : State) (blk : Nat) (c : Child) (rest : List Child) : Effect :=
  .region blk { s.region blk with children := rest, succ := c.succ, succScope := c.scope, inChild := true, cpl := 0 }

theorem execChildStart_starts {l : Launch} {c : Child} {rest : List Child} (hidle : (s.region (16 * core + block)).state = .idle)
    (hl : s.launch? (s.region (16 * core + block)).launch = some l) (hdelta : l.delta = none)
    (hchildren : (s.region (16 * core + block)).children = c :: rest)
    (hsinks : (s.perform (s.childTaking (16 * core + block) c rest)).sinks (16 * core + block) c.ctx ≠ 0) :
    let u := (s.perform (s.childTaking (16 * core + block) c rest)).run (startInvocation (16 * core + block) c.ctx)
    exec (.childStart core block) s = .next { u with
      taskNet := u.taskNet ++ (payloadPackets c.payload).map (fun p => Task.data core c.label ((u.regionElems (16 * core + block)).headD 0) p) } := by
  intro u
  have heffects : exec (.childStart core block) s = .next (s.apply (Prog.seq
      [fun s => [s.childTaking (16 * core + block) c rest],
       fun s =>
         if s.sinks (16 * core + block) c.ctx = 0 then
           Prog.seq [signalSuccessors (16 * core + block) (some 0x0A),
             fun s => [.region (16 * core + block) { s.region (16 * core + block) with inChild := false, succ := [] }]] s
         else
           Prog.seq
             [startInvocation (16 * core + block) c.ctx,
              fun s => [.taskNet (s.taskNet ++ (payloadPackets c.payload).map
                (fun p => Task.data core c.label ((s.regionElems (16 * core + block)).headD 0) p))]] s] s)) := by
    refine congrArg (fun l => Host.Outcome.next (s.apply l)) ?_
    simp only [hchildren, hl, hdelta]
    exact if_neg (by simp [hidle])
  have hgoes : ¬ (s.apply [s.childTaking (16 * core + block) c rest]).sinks (16 * core + block) c.ctx = 0 := hsinks
  rw [heffects, State.apply_seq_cons, State.apply_seq_cons, State.apply_seq_nil, if_neg hgoes, State.apply_seq_cons, State.apply_seq_cons,
    State.apply_seq_nil]
  rfl

/-! Pre-emption (spec 17 R405, R407). -/

theorem execPreEmpt_begins (hstate : (s.region (16 * core + block)).state = .idle ∨ (s.region (16 * core + block)).state = .running) :
    exec (.preEmpt core block) s = .next (s.run (Prog.forEach (s.closure (s.regions.length + 1) [16 * core + block]) beginCut)) :=
  congrArg (fun l => Host.Outcome.next (s.apply l)) (if_pos hstate)

theorem State.cutDone_of (hstate : (s.region blk).state = .preempting) (hsinks : (s.region blk).snkd < (s.region blk).snkx)
    (hacted : ∀ k ∈ s.regionElems blk, (s.elem k).acted = true) (hport : s.portHolds blk = false)
    (hmarks : ∀ i ∈ s.rangesOf blk, (s.range (blk / 16) i).mrk = (s.range (blk / 16) i).bnds) : s.cutDone blk = true := by
  simp only [State.cutDone, hstate, hsinks, hport, decide_true, Bool.not_false, Bool.and_true, Bool.true_and, Bool.and_eq_true, List.all_eq_true,
    decide_eq_true_eq]
  exact ⟨hacted, hmarks⟩

theorem execCutComplete_saves (hdone : s.cutDone (16 * core + block) = true) :
    exec (.cutComplete core block) s = .next { s with
      regions := Map.set Region.reset s.regions (16 * core + block) { s.region (16 * core + block) with state := .saved, cutAt := 0 } } :=
  congrArg (fun l => Host.Outcome.next (s.apply l)) (if_pos hdone)

theorem execCutOverdue_stops (hstate : (s.region (16 * core + block)).state = .preempting) (hcut : s.cutDone (16 * core + block) = false)
    (hlate : (s.region (16 * core + block)).cutAt.toNat + 65536 ≤ s.cycle.toNat) :
    let late := (s.regionElems (16 * core + block)).filter (fun k => !(s.elem k).acted)
    exec (.cutOverdue core block) s = .next (s.apply (s.asyncStop (16 * core + block) 0x53 6 (elemIx (late.headD 0)) (elemMask late))) :=
  congrArg (fun l => Host.Outcome.next (s.apply l)) (if_pos ⟨hstate, by rw [hcut, Bool.not_false], hlate⟩)

/-! A region in which nothing moved for a window (spec 17 R402). -/

theorem execDeadlock_stops {w : Nat} (hw : s.windowOf core = some w) (hstate : (s.region (16 * core + block)).state = .running)
    (hquiet : w ≤ (s.region (16 * core + block)).quiet) :
    exec (.deadlock core block) s = .next (s.apply (s.asyncStop (16 * core + block) 0x50 3 (s.stuckElem (16 * core + block))
      (elemMask ((s.regionElems (16 * core + block)).filter (fun k => (s.elem k).residue ≠ 0))))) := by
  refine congrArg (fun l => Host.Outcome.next (s.apply l)) ?_
  simp only [hw]
  exact if_pos ⟨hstate, hquiet⟩

/-! Regions that resume after a trap (spec 17 R399); what STATE says then is log 31. -/

theorem State.resumable_of (hstate : (s.region blk).state = .trapped) (hquota : (s.region blk).cause ≠ 0x55) (hstop : (s.region blk).cause ≠ 0x56) :
    s.resumable blk = true := by
  simp only [State.resumable, hstate, ne_eq, hquota, hstop, not_false_eq_true, decide_true, Bool.and_self]

theorem execResume_resumes (hres : s.resumable (16 * core + block) = true) :
    exec (.resume core block) s = .next (s.apply (s.resumeEffects (16 * core + block))) :=
  congrArg (fun l => Host.Outcome.next (s.apply l)) (if_pos hres)

/-- The trapping firings of a region pop their heads and move their state. -/
def State.skipTraps (s : State) (ks : List Nat) : List Effect :=
  ks.filterMap (fun k => (s.elem k).trap.map (fun i =>
    .elem k { (s.firingOf k i.slot).pops (s.firingOf k i.slot).f.dqa (s.firingOf k i.slot).f.dqb (s.firingOf k i.slot).e with
      st := (s.firingOf k i.slot).nextSt none }))

theorem resumeSkipping_skips (hres : s.resumable blk = true)
    (htraps : ∀ k ∈ s.regionElems blk, ∀ i, (s.elem k).trap = some i → s.trappedInTrap k i = true) :
    resumeSkipping blk s = Prog.seq [fun s => s.skipTraps (s.regionElems blk), fun s => s.resumeEffects blk] s := by
  have hall : (s.regionElems blk).all (fun k => match (s.elem k).trap with | some t => s.trappedInTrap k t | none => true) = true :=
    List.all_eq_true.mpr (fun k hk => by
      cases htrap : (s.elem k).trap with
      | none => rfl
      | some i => exact htraps k hk i htrap)
  refine (if_pos (Bool.and_eq_true_iff.mpr ⟨hres, hall⟩)).trans ?_
  refine congrArg (fun l => l ++ Prog.seq [fun s => s.resumeEffects blk] (s.apply l)) (List.filterMap_congr (fun k _ => ?_))
  cases (s.elem k).trap <;> rfl

theorem execResumeSkipping_resumes (hres : s.resumable (16 * core + block) = true)
    (htraps : ∀ k ∈ s.regionElems (16 * core + block), ∀ i, (s.elem k).trap = some i → s.trappedInTrap k i = true) :
    let t := s.apply (s.skipTraps (s.regionElems (16 * core + block)))
    exec (.resumeSkipping core block) s = .next (t.apply (t.resumeEffects (16 * core + block))) := by
  refine (congrArg (fun l => Host.Outcome.next (s.apply l)) (resumeSkipping_skips hres htraps)).trans ?_
  rw [State.apply_seq_cons, State.apply_seq_cons, State.apply_seq_nil]

/-- Settles O44: each event under the condition that its guard reads; the region goes on as the state it trapped in says (log 31). -/
theorem invocationsComplete : Obligations.InvocationsComplete := by
  intro s core block blk r ks
  refine ⟨fun hstate hsinks hall => ?begins, execInvocationCompletion_finishes, fun l c rest => execChildStart_starts,
    execPreEmpt_begins, fun hstate hsinks hacted hport hmarks => ?cut, execCutOverdue_stops, fun w => execDeadlock_stops,
    fun hstate hquota hstop => ?resumes⟩
  case begins =>
    exact (execInvocationCompletion_begins hstate hsinks hall).trans (congrArg Host.Outcome.next (State.run_beginCompletion s blk))
  case cut => exact execCutComplete_saves (State.cutDone_of hstate hsinks hacted hport hmarks)
  case resumes =>
    have hres := State.resumable_of hstate hquota hstop
    exact ⟨execResume_resumes hres, execResumeSkipping_resumes hres⟩

end Sys2Proof.Machine
end

section
/-! SUPPORT. Child launches that reach their core, discarded regions and restored ones (spec 16 R385, R386, 17 R400, R412 to R414). -/

namespace Sys2Proof.Machine

variable {s : State}

/-! A child task at a place of the task network, the first from its core to its target (spec 16 R386). -/

/-- The launch that a child's packet names: resident, placed, of its process (spec 16 R385). -/
def Launch.calledBy (l : Launch) (w tcid : Nat) : Bool := l.hnd.toNat = bits w 48 16 && l.tcid = tcid && l.res && !l.waiting

/-- Whether a child's command asks for any core (spec 16 R386). -/
def Engine.asksAny (g : Engine) (id : Nat) : Bool := match g.running.find? (fun c => c.id = id) with | some c => c.c.fld 3 9 1 = 1 | none => false

section Children

variable {n at_ tcid src id : Nat} {words succ : List Word} {peer : Option PeerReq}

/-- The task has left the network, and its issuer has learnt the outcome. -/
def State.childAnswered (s : State) (n src id : Nat) (peer : Option PeerReq) (status : Nat) : State :=
  (s.perform (.taskNet (listDrop s.taskNet n))).run (childAnswer src id peer status)

theorem State.childAnswered_regions (s : State) (n src id : Nat) (peer : Option PeerReq) (status : Nat) :
    (s.childAnswered n src id peer status).regions = s.regions := by cases peer <;> rfl

theorem State.apply_childAnswer_gone (s : State) (n src id : Nat) (peer : Option PeerReq) (status : Nat) (l : List Prog) :
    s.apply (Prog.seq ((fun s => [.taskNet (listDrop s.taskNet n)]) :: childAnswer src id peer status :: l) s)
      = (s.childAnswered n src id peer status).run (Prog.seq l) := by
  rw [State.apply_seq_cons, State.apply_seq_cons]
  rfl

variable (hn : s.taskNet[n]? = some (.child at_ words succ tcid src id peer)) (hbefore : s.childBefore n src (words.headD 0).toNat = false)
include hn hbefore

theorem execChildLaunchReceive_unnamed (hl : s.launches.find? (fun l => l.calledBy (words.headD 0).toNat tcid) = none) :
    exec (.childLaunchReceive n) s = .next (s.childAnswered n src id peer 9) := by
  have heffects : exec (.childLaunchReceive n) s = .next (s.apply (Prog.seq
      [fun s => [.taskNet (listDrop s.taskNet n)], childAnswer src id peer 9] s)) := by
    refine congrArg (fun l => Host.Outcome.next (s.apply l)) ?_
    simp only [hn, hbefore, Bool.false_eq_true, if_false]
    simp only [Launch.calledBy] at hl
    simp only [hl]
    rfl
  rw [heffects, State.apply_childAnswer_gone]
  rfl

section Placed

variable {l : Launch} {core : Nat} (hl : s.launches.find? (fun l => l.calledBy (words.headD 0).toNat tcid) = some l)
  (hcore : (if peer.isSome then some at_ else s.childCore l ((s.engine src 3).asksAny id) (bits (words.headD 0).toNat 42 6)
    (bits (words.headD 0).toNat 33 9)) = some core)
include hl hcore

theorem execChildLaunchReceive_here (hhere : core < 512) (hpower : s.powerOf core = .on) :
    exec (.childLaunchReceive n) s = .next (s.run (childAtCore l core n words succ src id peer)) := by
  refine congrArg (fun l => Host.Outcome.next (s.apply l)) ?_
  simp only [Launch.calledBy] at hl
  simp only [hn, hbefore, Bool.false_eq_true, if_false, hl]
  split
  case h_1 hnone => exact absurd (hnone.symm.trans hcore) nofun
  case h_2 at_core hsome =>
    cases (hsome.symm.trans hcore : some at_core = some core)
    simp only [hhere, hpower, if_true, ne_eq, not_true, if_false]

/-- A child for a place in another package goes there, and its command waits for the answer (log 48). -/
theorem execChildLaunchReceive_away (haway : 512 ≤ core) (hup : s.cutOff (core / 512 - 1) = false) :
    exec (.childLaunchReceive n) s = .next (s.apply
      [.taskNet (listDrop s.taskNet n), .nextId (s.nextId + 1),
       .engine (4 * src + 3) ((s.engine src 3).update id (fun c => { c with
         owes := [s.nextId], landing := some { prog := 0, last := true, stop := none, pois := false, arrive := [] } })),
       .send (.peer (s.peerReq (s.engineRole src 3) (core / 512 - 1) (winBase (core % 512)) tcid s.nextId words.length .task 0
         (clean ((words ++ succ).flatMap (fun w => leBytes 8 w.toNat)))))]) := by
  refine congrArg (fun l => Host.Outcome.next (s.apply l)) ?_
  simp only [Launch.calledBy] at hl
  simp only [hn, hbefore, Bool.false_eq_true, if_false, hl]
  split
  case h_1 hnone => exact absurd (hnone.symm.trans hcore) nofun
  case h_2 at_core hsome =>
    cases (hsome.symm.trans hcore : some at_core = some core)
    simp only [Nat.not_lt.mpr haway, hup, Bool.false_eq_true, if_false]

end Placed

omit hn hbefore

/-- A child that no region takes is refused. -/
theorem State.run_childAtCore_refused {l : Launch} {core : Nat}
    (hb : s.childRegion l core (words.headD 0).toNat (words.length - 1) = none) :
    s.run (childAtCore l core n words succ src id peer) = s.childAnswered n src id peer 9 := by
  have heffects : childAtCore l core n words succ src id peer s = Prog.seq
      [fun s => [.taskNet (listDrop s.taskNet n)], childAnswer src id peer 9] s := by simp only [childAtCore, hb]
  rw [State.run, heffects, State.apply_childAnswer_gone]
  rfl

/-- A child waits behind the region's earlier ones. -/
theorem State.run_childAtCore_waits {l : Launch} {core b : Nat}
    (hb : s.childRegion l core (words.headD 0).toNat (words.length - 1) = some b) (hroom : (s.region b).children.length < 8) :
    let w := (words.headD 0).toNat
    let child : Child := { ctx := bits w 30 3, label := bits w 16 7, payload := (words.drop 1).take (bits w 8 5), succ := succ, scope := l.outerScope }
    s.run (childAtCore l core n words succ src id peer) = { s.childAnswered n src id peer 0 with
      regions := Map.set Region.reset s.regions b { s.region b with children := (s.region b).children ++ [child] } } := by
  intro w child
  have heffects : childAtCore l core n words succ src id peer s = Prog.seq
      [fun s => [.taskNet (listDrop s.taskNet n)], childAnswer src id peer 0,
       fun _ => [.region b { s.region b with children := (s.region b).children ++ [child] }]] s := by
    simp only [childAtCore, hb]
    exact if_neg (Nat.not_le.mpr hroom)
  rw [State.run, heffects, State.apply_childAnswer_gone, State.run_seq_cons, State.run_seq_nil,
    ← State.childAnswered_regions s n src id peer 0]
  rfl

end Children

/-! A discarded region (spec 17 R400); its report names cause 0x38 where it has no trap (log 55), and commands that have started run on (log 32). -/

theorem execRegionDiscard_discards {core block : Nat}
    (hstate : (s.region (16 * core + block)).state = .running ∨ (s.region (16 * core + block)).state = .trapped
      ∨ (s.region (16 * core + block)).state = .preempting ∨ (s.region (16 * core + block)).state = .saved) :
    let blk := 16 * core + block
    let r := s.region blk
    let cause := if r.tv then r.cause else 0x38
    exec (.regionDiscard core block) s = .next (s.run (Prog.seq
      [fun s => s.stopRegion blk, removeResidue blk, discardCommands blk, fun s => (s.rangesOf blk).map (fun i => s.releaseRange (blk / 16) i),
       (if r.inChild || r.fromIdle then Prog.skip else completionMerge blk (if r.tv then 1 else 3) cause),
       faultEntry r.tcid cause 5 0 r.hnd.toNat [] none, errorAll (blk / 16),
       Prog.when (fun s => (s.region blk).state ≠ .free) (releaseRegion blk)])) :=
  congrArg (fun l => Host.Outcome.next (s.apply l)) (if_pos hstate)

/-! Restores (spec 17 R412 to R414), from the record that is kept (logs 18, 58). -/

theorem execRestore_inPlace {n core row col b : Nat} (hn : s.saves[n]? = none)
    (hb : (blocksOf core).find? (fun b => (s.region b).state = .saved && (s.region b).rw0 = row && (s.region b).cl0 = col) = some b)
    (hpass : s.restoreFail b = none) : exec (.restore n core row col) s = .next (s.run (wakeRegion b)) := by
  have hsaved : (s.region b).state = .saved := by
    have hfound := List.find?_some hb
    simp only [Bool.and_eq_true, decide_eq_true_eq] at hfound
    exact hfound.1.1
  refine congrArg (fun l => Host.Outcome.next (s.apply l)) ?_
  simp only [hn, hb, restoreInPlace, hsaved, if_true, hpass]

/-- The place on a core where a restore writes a region. -/
def State.newPlace (s : State) (core row col : Nat) : NewPlace := { blk := (s.freeBlocks core).headD 0, core := core, row := row, col := col }

/-- The parts that write a save record at its new place. -/
def placingSave (served : Nat) (v : Save) (p : NewPlace) : List Prog :=
  [if served = v.region.tcid then Prog.skip else claimCore v.region.tcid p.core [], writeCoreArea v p.core, writeSave v p]

/-- The save record has left the list and stands at its new place. -/
def State.savePlaced (s : State) (n : Nat) (v : Save) (p : NewPlace) : State :=
  State.run { s with saves := listDrop s.saves n } (Prog.seq (placingSave (Map.get 0 s.served p.core) v p))

theorem State.apply_placingSave (s : State) (n : Nat) (v : Save) (p : NewPlace) :
    s.apply (Prog.seq ((fun s => [.saves (listDrop s.saves n)]) :: placingSave (Map.get 0 s.served p.core) v p) s) = s.savePlaced n v p :=
  State.apply_seq_cons _ _ s

theorem execRestore_elsewhere {n core row col : Nat} {v : Save} (hn : s.saves[n]? = some v)
    (hplace : s.placeFail v (s.newPlace core row col) = none)
    (hpass : (s.savePlaced n v (s.newPlace core row col)).restoreFail (s.newPlace core row col).blk = none) :
    exec (.restore n core row col) s
      = .next ((s.savePlaced n v (s.newPlace core row col)).run (wakeRegion (s.newPlace core row col).blk)) := by
  have hplaced := State.apply_placingSave s n v (s.newPlace core row col)
  let placing := Prog.seq ((fun s => [.saves (listDrop s.saves n)]) :: placingSave (Map.get 0 s.served core) v (s.newPlace core row col)) s
  have heffects : exec (.restore n core row col) s
      = .next (s.apply (placing ++ wakeRegion (s.newPlace core row col).blk (s.apply placing))) := by
    refine congrArg (fun l => Host.Outcome.next (s.apply l)) ?_
    simp only [hn]
    split
    case h_1 f hfails => exact absurd (hplace.symm.trans hfails) nofun
    case h_2 =>
      split
      case h_1 e hfails => exact absurd (hpass.symm.trans ((congrArg (State.restoreFail · _) hplaced.symm).trans hfails)) nofun
      case h_2 => rfl
  rw [heffects, State.apply_append]
  exact congrArg (fun t => Host.Outcome.next (State.run t (wakeRegion _))) hplaced

/-- Settles O45: a discarded region reports cause 0x38 where it has no trap (log 55) and its started commands run on (log 32); a child for another
package leaves as a request (log 48); restores read the record that is kept (logs 18, 58). -/
theorem regionsComplete : Obligations.RegionsComplete := by
  intro s
  refine ⟨fun n at_ words succ tcid src id peer hn => ?child, fun core block => execRegionDiscard_discards, fun n core row col =>
    ⟨fun hn b hb hpass => execRestore_inPlace hn hb hpass, fun v hn => execRestore_elsewhere hn⟩⟩
  case child =>
    intro g w hbefore called any out issuer answered
    have hanswered : ∀ status, s.childAnswered n src id peer status = answered status := by
      intro status
      cases peer <;> rfl
    refine ⟨fun hl => ?unnamed, fun l core hl hcore => ⟨fun hhere hpower => ⟨fun hb => ?refused, fun b hb hroom => ?waits⟩, fun haway hup => ?away⟩⟩
    case unnamed => exact hanswered 9 ▸ execChildLaunchReceive_unnamed hn hbefore hl
    case refused =>
      exact (execChildLaunchReceive_here hn hbefore hl hcore hhere hpower).trans
        (congrArg Host.Outcome.next ((State.run_childAtCore_refused hb).trans (hanswered 9)))
    case waits =>
      intro child
      rw [← hanswered 0]
      exact (execChildLaunchReceive_here hn hbefore hl hcore hhere hpower).trans
        (congrArg Host.Outcome.next (State.run_childAtCore_waits hb hroom))
    case away => exact execChildLaunchReceive_away hn hbefore hl hcore haway hup

end Sys2Proof.Machine
end

section
/-! SUPPORT. The host port: requests of queue pairs, congestion, pause, key agreement and frames that are dropped (spec 18 R415 to R419). -/

namespace Sys2Proof.Machine

variable {s : State} {qp port : Nat}

/-! A frame that a port discards (spec 18 R415). -/

/-- The port has discarded a frame and counted it. -/
def State.frameDropped (s : State) (port : Nat) : State :=
  let t : State := { s with ports := Map.set Port.reset s.ports port { s.port port with drops := (s.port port).drops + 1 } }
  t.perform (t.countEvent (portRecord port) 3)

theorem State.run_dropFrame (s : State) (port : Nat) : s.run (dropFrame port) = s.frameDropped port := by
  rw [dropFrame, State.run_seq_cons, State.run_seq_cons, State.run_seq_nil]
  rfl

theorem execMacsecDrop_drops (hport : port ≤ 12) : exec (.macsecDrop port) s = .next (s.frameDropped port) :=
  (congrArg (fun l => Host.Outcome.next (s.apply l)) (Prog.when_true (decide_eq_true hport))).trans
    (congrArg Host.Outcome.next (State.run_dropFrame s port))

/-! Frames of a queue pair, with the firmware running (spec 18 R415, R416). -/

section Frames

variable (hphase : s.root.phase = .normal) (hqp : qp < 1024)
include hphase hqp

theorem State.takesFrames : ¬ (!s.running || decide (1024 ≤ qp)) = true := by
  simp [State.running, hphase, hqp]

theorem execRdmaInvalidRequest_drops (hkeys : (s.port 12).keyed = false) : exec (.rdmaInvalidRequest qp) s = .next (s.frameDropped 12) :=
  (congrArg (fun l => Host.Outcome.next (s.apply l)) ((if_neg (State.takesFrames hphase hqp)).trans (if_pos (by rw [hkeys, Bool.not_false])))).trans
    (congrArg Host.Outcome.next (State.run_dropFrame s 12))

theorem execCnpReceive_drops (hkeys : (s.port 12).keyed = false) : exec (.cnpReceive qp) s = .next (s.frameDropped 12) :=
  (congrArg (fun l => Host.Outcome.next (s.apply l)) ((if_neg (State.takesFrames hphase hqp)).trans (if_pos (by rw [hkeys, Bool.not_false])))).trans
    (congrArg Host.Outcome.next (State.run_dropFrame s 12))

variable (hkeys : (s.port 12).keyed = true)
include hkeys

theorem execRdmaInvalidRequest_answers (hready : s.qpOf qp = .ready) :
    exec (.rdmaInvalidRequest qp) s = .next { s with replies := s.replies ++ [.nak qp 0] } := by
  have heffects : exec (.rdmaInvalidRequest qp) s = .next (s.apply [.reply (.nak qp 0)]) := by
    refine congrArg (fun l => Host.Outcome.next (s.apply l)) ((if_neg (State.takesFrames hphase hqp)).trans ?_)
    simp only [hkeys, hready, Bool.not_true, Bool.false_eq_true, if_false]
  exact heffects

theorem execCnpReceive_limits (hready : s.qpOf qp = .ready) :
    exec (.cnpReceive qp) s = .next { s with qps := Map.set .ready s.qps qp .limited } := by
  have heffects : exec (.cnpReceive qp) s = .next (s.apply [.qp qp .limited]) := by
    refine congrArg (fun l => Host.Outcome.next (s.apply l)) ((if_neg (State.takesFrames hphase hqp)).trans ?_)
    simp only [hkeys, hready, Bool.not_true, Bool.false_eq_true, if_false]
  exact heffects

theorem hostArrives_serves (r : HostReq) (hready : s.qpOf qp = .ready ∨ s.qpOf qp = .limited) : hostArrives qp r s = hostRequest qp r s := by
  refine (if_neg (State.takesFrames hphase hqp)).trans ?_
  rcases hready with h | h <;> simp only [hkeys, h, Bool.not_true, Bool.false_eq_true, if_false]

end Frames

/-! Requests of a queue pair that answers (spec 18 R417 to R419). -/

section Requests

variable {r : HostReq} {tcid : Nat}

/-- No entry covers the request, or a page does not permit it. -/
def State.hostFails (s : State) (qp : Nat) (r : HostReq) : Prop :=
  s.hostEntry qp r = none ∨ ∃ tcid, s.hostEntry qp r = some tcid ∧ s.hostTranslates tcid r = false

theorem hostRequest_refuses (hfails : s.hostFails qp r) : hostRequest qp r s = nak qp 1 := by
  rcases hfails with hnone | ⟨tcid, hentry, hpages⟩
  · simp only [hostRequest, hnone]
  · simp only [hostRequest, hentry, hpages, Bool.not_false, if_true]

variable {ps : List Piece} (hentry : s.hostEntry qp r = some tcid) (hpages : s.hostTranslates tcid r = true)
include hentry hpages

theorem hostRequest_writes {l : List Effect} (hwrite : r.write = true)
    (hcheck : s.checkAccess (s.hostWho qp tcid) .write (r.va : Int) r.len = .ok ps)
    (hl : s.writeChecked (s.hostWho qp tcid) (r.va : Int) r.data = .ok l) : hostRequest qp r s = l := by
  simp only [hostRequest, hentry, hpages, hwrite, hcheck, hl, Bool.not_true, Bool.false_eq_true, if_false, if_true]

theorem hostRequest_reads (hread : r.write = false) (hcheck : s.checkAccess (s.hostWho qp tcid) .read (r.va : Int) r.len = .ok ps) :
    hostRequest qp r s = readSectors qp tcid (sectorsIn r.va r.len r.len) s := by
  simp only [hostRequest, hentry, hpages, hread, hcheck, Bool.not_true, Bool.false_eq_true, if_false]

end Requests

/-! Key agreement (spec 18 R415). -/

theorem execMkaExchange_keys {frame : List Byte} (hphase : s.root.phase = .normal) (hport : port ≤ 12) (hframe : Config.mkaAccepts port frame = true)
    (hlink : port = 12 ∨ (s.port port).attested = true) :
    exec (.mkaExchange port frame) s = .next { s with ports := Map.set Port.reset s.ports port { s.port port with keyed := true } } :=
  congrArg (fun l => Host.Outcome.next (s.apply l)) (if_pos (by simp [State.running, hphase, hport, hframe, hlink]))

/-- Settles O46: what reaches the host port is answered, performed or dropped as its queue pair and its key table say. -/
theorem hostPortComplete : Obligations.HostPortComplete := by
  intro s qp dropped
  refine ⟨fun hphase hqp => ⟨fun hkeys => ?unkeyed, fun hkeys => ⟨fun hready => ?answers, fun hready rkey va tcid => ⟨?writes, ?reads⟩,
    fun hready rkey va => ⟨fun data hfails => ?refusesWrite, fun len hfails => ?refusesRead⟩⟩⟩,
    fun port frame => execMkaExchange_keys, fun b => rfl, fun port => execMacsecDrop_drops⟩
  case unkeyed => exact ⟨execRdmaInvalidRequest_drops hphase hqp hkeys, execCnpReceive_drops hphase hqp hkeys⟩
  case answers => exact ⟨execRdmaInvalidRequest_answers hphase hqp hkeys hready, execCnpReceive_limits hphase hqp hkeys hready⟩
  case writes =>
    intro data ps l hentry hpages hcheck hl
    exact congrArg (fun l => Host.Outcome.next (s.apply l))
      ((hostArrives_serves hphase hqp hkeys _ hready).trans (hostRequest_writes hentry hpages rfl hcheck hl))
  case reads =>
    intro len ps hentry hpages hcheck
    exact congrArg (fun l => Host.Outcome.next (s.apply l))
      ((hostArrives_serves hphase hqp hkeys _ hready).trans (hostRequest_reads hentry hpages rfl hcheck))
  case refusesWrite =>
    exact congrArg (fun l => Host.Outcome.next (s.apply l)) ((hostArrives_serves hphase hqp hkeys _ hready).trans (hostRequest_refuses hfails))
  case refusesRead =>
    exact congrArg (fun l => Host.Outcome.next (s.apply l)) ((hostArrives_serves hphase hqp hkeys _ hready).trans (hostRequest_refuses hfails))

end Sys2Proof.Machine
end

section
/-! SUPPORT. Management (spec 18 R421 to R423, R434 to R441): a packet whose turn it is, and each operation that is done. -/

namespace Sys2Proof.Machine

variable {s : State} {m : MgmtPacket} {signed : Bool} {body : MgmtBody} {words : List Nat} {extra : List Byte} {L : State → List Effect}

/-! A packet's turn (spec 18 R421, R422). -/

/-- Nothing keeps the management queue from the packet: a signed one verifies, and its number rises. -/
def State.mgmtTakes (s : State) (signed : Bool) (m : MgmtPacket) : Prop :=
  s.focus = .management ∧ s.root.phase = .normal ∧ (signed = true → s.ownerSigned m = true ∧ s.mgmtSeq < mgmtSeqOf m)

/-- The sequence number of a signed packet is taken. -/
def State.numberTaken (s : State) (signed : Bool) (m : MgmtPacket) : State := if signed then { s with mgmtSeq := mgmtSeqOf m } else s

/-- The change that takes the number. -/
def State.takeNumber (s : State) (signed : Bool) (m : MgmtPacket) : List Effect := if signed then [.mgmt (mgmtSeqOf m) s.mgmtRix] else []

theorem State.apply_takeNumber (s : State) (signed : Bool) (m : MgmtPacket) : s.apply (s.takeNumber signed m) = s.numberTaken signed m := by
  cases signed <;> rfl

theorem State.queueServed (hf : s.focus = .management) (hphase : s.root.phase = .normal) :
    ¬ (s.focus ≠ .management ∨ (!(s.running || (!signed && decide (s.root.phase = .recovery)))) = true) := by
  simp [hf, State.running, hphase]

theorem mgmtTurn_takes (h : s.mgmtTakes signed m) (hbody : body (s.numberTaken signed m) = (Reply.done words extra, L (s.numberTaken signed m))) :
    mgmtTurn signed m body s = (s.takeNumber signed m ++ L (s.numberTaken signed m))
      ++ writeReply m (Reply.done words extra) (s.apply (s.takeNumber signed m ++ L (s.numberTaken signed m))) := by
  obtain ⟨hf, hphase, hsigned⟩ := h
  rw [← State.apply_takeNumber] at hbody ⊢
  have hsig : ¬ (signed && !s.ownerSigned m) = true := by
    simp only [Bool.and_eq_true, Bool.not_eq_true']
    rintro ⟨h, hbad⟩
    exact absurd ((hsigned h).1.symm.trans hbad) nofun
  have hseq : ¬ (signed && decide (mgmtSeqOf m ≤ s.mgmtSeq)) = true := by
    simp only [Bool.and_eq_true, decide_eq_true_eq]
    rintro ⟨h, hbad⟩
    exact absurd (hsigned h).2 (Nat.not_lt.mpr hbad)
  refine (if_neg (State.queueServed hf hphase)).trans ((if_neg hsig).trans ((if_neg hseq).trans ?_))
  exact congrArg (fun x : Reply × List Effect => (s.takeNumber signed m ++ x.2) ++ writeReply m x.1 (s.apply (s.takeNumber signed m ++ x.2))) hbody

/-- An operation that is done has its changes, then its reply. -/
theorem run_mgmtTurn_done (h : s.mgmtTakes signed m)
    (hbody : body (s.numberTaken signed m) = (Reply.done words extra, L (s.numberTaken signed m))) :
    s.run (mgmtTurn signed m body) = managed s signed m words extra L := by
  rw [State.run, mgmtTurn_takes h hbody, State.apply_append, State.apply_append, State.apply_takeNumber]
  rfl

/-- One that is not performed is counted and answered (spec 18 R421). -/
theorem run_rejectMgmt (s : State) (m : MgmtPacket) (status : Nat) :
    s.run (rejectMgmt m status) = State.run { s with root := { s.root with rejected := s.root.rejected + 1 } }
      (writeReply m { status := status, cause := 0, words := [], extra := [] }) := by
  rw [rejectMgmt, State.run_seq_cons, State.run_seq_cons, State.run_seq_nil]
  rfl

theorem run_mgmtTurn_unsigned (hf : s.focus = .management) (hphase : s.root.phase = .normal) (hsig : s.ownerSigned m = false) :
    s.run (mgmtTurn true m body) = s.run (rejectMgmt m 1) :=
  congrArg s.apply ((if_neg (State.queueServed hf hphase)).trans (if_pos (by rw [hsig]; rfl)))

theorem run_mgmtTurn_stale (hf : s.focus = .management) (hphase : s.root.phase = .normal) (hsig : s.ownerSigned m = true)
    (hseq : mgmtSeqOf m ≤ s.mgmtSeq) : s.run (mgmtTurn true m body) = s.run (rejectMgmt m 2) :=
  congrArg s.apply ((if_neg (State.queueServed hf hphase)).trans ((if_neg (by simp [hsig])).trans (if_pos (by simp [hseq]))))

end Sys2Proof.Machine
end

section
/-! SUPPORT. The management operations, each under the operands that it accepts (spec 18 R421, R422, R434 to R438). -/

namespace Sys2Proof.Machine

variable {s : State} {m : MgmtPacket}

/-! What a read gives does not depend on the management sequence number. -/

section Number

variable {n : Nat}

theorem State.walk_mgmtSeq (tcid va : Nat) (levels : List Nat) (table : Nat) :
    State.walk { s with mgmtSeq := n } tcid va levels table = s.walk tcid va levels table := by
  induction levels generalizing table with
  | nil => rfl
  | cons level rest ih =>
    simp only [State.walk, ih]
    rfl

theorem State.translate_mgmtSeq (core tcid : Nat) (va : Int) (k : Kind) :
    State.translate { s with mgmtSeq := n } core tcid va k = s.translate core tcid va k := by
  have hleaf : State.leafOf { s with mgmtSeq := n } core tcid va = s.leafOf core tcid va := by
    simp only [State.leafOf, State.walk_mgmtSeq]
    rfl
  simp only [State.translate, hleaf]

theorem State.checkAccess_mgmtSeq (w : Who) (k : Kind) (va : Int) (size : Nat) :
    State.checkAccess { s with mgmtSeq := n } w k va size = s.checkAccess w k va size := by
  have hpart (a : Int) (b : Nat) : State.checkPart { s with mgmtSeq := n } w k a b = s.checkPart w k a b := by
    simp only [State.checkPart, State.translate_mgmtSeq]
    rfl
  simp only [State.checkAccess, hpart]

theorem State.fetchFrom_mgmtSeq (asks : List Ask) (free : Nat) (ps : List Piece) :
    State.fetchFrom { s with mgmtSeq := n } asks free ps = s.fetchFrom asks free ps := by
  induction ps generalizing free with
  | nil => rfl
  | cons p ps ih =>
    simp only [State.fetchFrom, ih]
    rfl

theorem State.readChecked_mgmtSeq {w : Who} {va : Int} {size : Nat} {x : List (Byte × Bool) × List Effect} (h : s.readChecked w va size = .ok x) :
    ∃ l, State.readChecked { s with mgmtSeq := n } w va size = .ok (x.1, l) := by
  cases hcheck : s.checkAccess w .read va size with
  | error f => simp only [State.readChecked, hcheck, reduceCtorEq] at h
  | ok ps =>
    cases hgate : s.gateOf ps with
    | some c => simp only [State.readChecked, hcheck, hgate, reduceCtorEq] at h
    | none =>
      have hgate' : State.gateOf { s with mgmtSeq := n } ps = none := hgate
      simp only [State.readChecked, hcheck, hgate, Except.ok.injEq] at h
      simp only [State.readChecked, State.checkAccess_mgmtSeq, hcheck, hgate', State.fetchFrom_mgmtSeq, ← h]
      exact ⟨_, rfl⟩

end Number

theorem not_dead {b : Bool} (hlive : b = true) : ¬ (!b) = true := by rw [hlive]; exact Bool.false_ne_true

theorem Prog.seq_head_congr {p q : Prog} {l : List Prog} (hpq : p s = q s) : Prog.seq (p :: l) s = Prog.seq (q :: l) s :=
  congrArg (fun e => e ++ Prog.seq l (s.apply e)) hpq

section Signed

variable (h : s.mgmtTakes true m)
include h

/-! Queues (spec 18 R421, 16 R367). -/

/-- The ring of a queue that is mapped is served from the read index that it holds (log 53). -/
theorem execMapq_maps {tcid : Nat} {x : List (Byte × Bool) × List Effect} (htcid : bits (operandOf m 0) 0 10 = tcid)
    (hlive : (s.proc tcid).live = true) (hfree : (s.thread (threadOf tcid (bits (operandOf m 0) 16 5))).bound = false)
    (halign : operandOf m 1 % 64 = 0) (hread : s.readChecked (s.foreWho tcid) ((operandOf m 1 + 8 : Nat) : Int) 8 = .ok x) :
    exec (.mapq m) s = .next (managed s true m [] [] (fun _ => [.thread (threadOf tcid (bits (operandOf m 0) 16 5)) { Thread.reset with
      bound := true, mapped := decide (s.runPos = tcid), tcid := tcid, queue := bits (operandOf m 0) 16 5, ringVa := operandOf m 1,
      started := leNat (x.1.map (fun b => b.1)) }])) := by
  have hring : ∃ l, (s.numberTaken true m).readChecked ((s.numberTaken true m).foreWho tcid) ((operandOf m 1 + 8 : Nat) : Int) 8 = .ok (x.1, l) :=
    State.readChecked_mgmtSeq hread
  obtain ⟨l, hring⟩ := hring
  subst htcid
  change execMapq m s = _
  simp only [execMapq, complete_eq, State.run, hread, ite_self]
  refine congrArg Host.Outcome.next (run_mgmtTurn_done h ((if_neg ?_).trans ?_))
  · exact not_or.mpr ⟨not_dead hlive, not_or.mpr ⟨ne_true_of_eq_false hfree, not_not_intro halign⟩⟩
  · rw [hring]
    rfl

theorem execUnmapq_unmaps {tcid : Nat} (htcid : bits (operandOf m 0) 0 10 = tcid)
    (hbound : (s.thread (threadOf tcid (bits (operandOf m 0) 16 5))).bound = true) :
    exec (.unmapq m) s = .next (managed s true m [] [] (fun _ => [.thread (threadOf tcid (bits (operandOf m 0) 16 5)) Thread.reset])) := by
  subst htcid
  exact congrArg Host.Outcome.next (run_mgmtTurn_done h (if_neg (not_dead hbound)))

/-! Host keys and image keys (spec 18 R417, R434). -/

theorem execKey_sets {tcid v : Nat} (htcid : bits (operandOf m 0) 0 10 = tcid)
    (hv : packFields ((List.range 4).map (fun i => (64, operandOf m (i + 1)))) = v) (hlive : (s.proc tcid).live = true)
    (hentry : bits (operandOf m 0) 16 12 ≠ 0) (howner : bits v 204 10 = tcid) :
    exec (.key m) s = .next (managed s true m [] [] (fun _ => [.hostKey (bits (operandOf m 0) 16 12) (BitVec.ofNat 256 v)])) := by
  subst htcid hv
  exact congrArg Host.Outcome.next (run_mgmtTurn_done h (if_neg (not_or.mpr ⟨not_dead hlive, not_or.mpr ⟨hentry, not_not_intro howner⟩⟩)))

/-- An image key takes a slot of the root. -/
def State.imageKeySet (s : State) (n : Nat) (k : KeySlot) : Effect := .rootState { s.root with images := Map.set KeySlot.empty s.root.images n k }

theorem execEnroll_installs {n : Nat} (hn : bits (operandOf m 0) 0 4 = n) (hinstall : bits (operandOf m 0) 8 1 = 1) :
    exec (.enroll m) s = .next (managed s true m [] [] (fun _ => [s.imageKeySet n
      { state := 1, ecdsa := ((operandBytes m).drop 8).take 96, hss := (((operandBytes m).drop 8).drop 96).take 60 }])) := by
  subst hn
  exact congrArg Host.Outcome.next (run_mgmtTurn_done h (congrArg (fun k => (Reply.done [] [], [s.imageKeySet _ k])) (if_pos hinstall)))

theorem execEnroll_revokes {n : Nat} (hn : bits (operandOf m 0) 0 4 = n) (hrevoke : bits (operandOf m 0) 8 1 ≠ 1) :
    exec (.enroll m) s = .next (managed s true m [] [] (fun _ => [s.imageKeySet n { s.imageKey n with state := 2 }])) := by
  subst hn
  exact congrArg Host.Outcome.next (run_mgmtTurn_done h (congrArg (fun k => (Reply.done [] [], [s.imageKeySet _ k])) (if_neg hrevoke)))

/-! Frozen masters (spec 18 R438, log 55). -/

variable {p : Prog × Prog} (hp : (s.numberTaken true m).frozenMaster (operandOf m 0) = some p)

include hp in
theorem execThaw_thaws : exec (.thaw m) s = .next (managed s true m [] [] p.1) :=
  congrArg Host.Outcome.next (run_mgmtTurn_done h (by simp only [hp]))

include hp in
theorem execDiscard_discards : exec (.discard m) s = .next (managed s true m [] [] p.2) :=
  congrArg Host.Outcome.next (run_mgmtTurn_done h (by simp only [hp]))

/-! The domain (spec 18 R427 to R429). -/

/-- A window and a digest of a DOMAIN packet (spec 18 R423). -/
def mgmtWindow (m : MgmtPacket) (i : Nat) : Nat := packFields ((List.range 4).map (fun j => (64, operandOf m (77 + 4 * i + j))))
def mgmtDigest (m : MgmtPacket) (i : Nat) : BitVec 384 := BitVec.ofNat 384 (packFields ((List.range 6).map (fun j => (64, operandOf m (i + j)))))

/-- The package number, the measurements, the routes and the windows of a domain. -/
def domainSet (m : MgmtPacket) : List Effect :=
  [Effect.pkgNum (bits (operandOf m 0) 0 6), Effect.measure 0 (mgmtDigest m 1), Effect.measure 1 (mgmtDigest m 7)]
    ++ (List.range 64).map (fun i => Effect.route i (BitVec.ofNat 64 (operandOf m (13 + i))))
    ++ (List.range 64).map (fun i => Effect.window i (BitVec.ofNat 256 (mgmtWindow m i)))

theorem execDomain_sets
    (hwindows : ∀ i < 64, bits (mgmtWindow m i) 96 1 = 1 →
      (s.numberTaken true m).meetsPool (bits (mgmtWindow m i) 0 48) (bits (mgmtWindow m i) 48 48) = false) :
    exec (.domain m) s = .next (managed s true m [] [] (fun _ => domainSet m)) := by
  have hclear : ¬ (List.range 64).any (fun i => decide (bits (mgmtWindow m i) 96 1 = 1)
      && (s.numberTaken true m).meetsPool (bits (mgmtWindow m i) 0 48) (bits (mgmtWindow m i) 48 48)) = true := by
    simp only [List.any_eq_true, List.mem_range, Bool.and_eq_true, decide_eq_true_eq, not_exists, not_and, Bool.not_eq_true]
    exact hwindows
  refine congrArg Host.Outcome.next (run_mgmtTurn_done h ?_)
  exact if_neg hclear

/-! Page tables (spec 02 R46 to R48, R52); tables are taken from the pool in order (log 10). -/

section Pages

variable {tcid size va leaf n : Nat} (htcid : bits (operandOf m 0) 0 10 = tcid) (hsize : bits (operandOf m 0) 16 2 = size)
  (hva : operandOf m 1 = va) (hleaf : operandOf m 2 = leaf) (hn : bits (operandOf m 3) 0 32 = n)
  (hlive : (s.proc tcid).live = true) (hcode : size ≠ 3) (halign : va % 2 ^ pageBits size = 0) (hpages : n ≠ 0)
  (hend : va + n * 2 ^ pageBits size ≤ 2 ^ 48)

include htcid hsize hva hn hlive hcode halign hpages hend

include hleaf in
theorem execMap_maps (hform : bits leaf 0 2 = 3)
    (hframes : ∀ i < n, (s.numberTaken true m).pteBad (leafLevel size) (leaf + i * 2 ^ pageBits size) = false
      ∧ (bits leaf 57 6 = s.pkgNum → (s.numberTaken true m).meetsPool (bits (leaf + i * 2 ^ pageBits size) 8 40 * 256) (2 ^ pageBits size) = false))
    (hvas : Map.get 0 s.roots tcid = 0 ∨ (s.numberTaken true m).leafIn va (va + n * 2 ^ pageBits size) (Map.get 0 s.roots tcid) = false) :
    let l := Prog.forEach (List.range n)
      (fun i => mapPage tcid (va + i * 2 ^ pageBits size) (leaf + i * 2 ^ pageBits size) (leafLevel size)) (s.numberTaken true m)
    ((s.numberTaken true m).apply l).poolNext ≤ poolEnd → exec (.map m) s = .next (managed s true m [] [] (fun _ => l)) := by
  subst htcid hsize hva hleaf hn
  intro l hpool
  refine congrArg Host.Outcome.next (run_mgmtTurn_done h ((if_neg ?_).trans ((if_neg ?_).trans ((if_neg ?_).trans (if_neg (Nat.not_lt.mpr hpool))))))
  · exact not_or.mpr ⟨not_dead hlive, not_or.mpr ⟨hcode, not_or.mpr ⟨not_not_intro halign, not_or.mpr ⟨hpages, not_or.mpr
      ⟨Nat.not_lt.mpr hend, not_not_intro hform⟩⟩⟩⟩⟩
  · simp only [List.any_eq_true, List.mem_range, Bool.or_eq_true, Bool.and_eq_true, decide_eq_true_eq, not_exists, not_and, not_or, Bool.not_eq_true]
    exact hframes
  · simp only [Bool.and_eq_true, decide_eq_true_eq, not_and, not_not]
    exact fun hmapped => hvas.resolve_right (fun hclear => absurd (hclear.symm.trans hmapped) nofun)

theorem execUnmap_unmaps (hidle : s.usesRange tcid va (va + n * 2 ^ pageBits size) = false) (hroot : Map.get 0 s.roots tcid ≠ 0) :
    exec (.unmap m) s = .next (managed s true m [] [] (Prog.seq
      [Prog.forEach (List.range n) (fun i => removeLeaf (va + i * 2 ^ pageBits size) (leafLevel size) [3, 2, 1, 0] (Map.get 0 s.roots tcid)),
       fun u => u.invalidated tcid va (va + n * 2 ^ pageBits size)])) := by
  subst htcid hsize hva hn
  change execUnmap m s = _
  simp only [execUnmap, complete_eq, State.run, hidle, Bool.false_eq_true, if_false]
  refine congrArg Host.Outcome.next (run_mgmtTurn_done h ((if_neg ?_).trans ?_))
  · exact not_or.mpr ⟨not_dead hlive, not_or.mpr ⟨hcode, not_or.mpr ⟨not_not_intro halign, not_or.mpr ⟨hpages, Nat.not_lt.mpr hend⟩⟩⟩⟩
  · exact congrArg (Prod.mk (Reply.done [] [])) (Prog.seq_head_congr (if_neg hroot))

end Pages

/-! Processes (spec 18 R421, R437, 02 R45, R48, R52). -/

/-- The operands of a CREATE that passes (spec 18 R423). -/
structure CreateFits (t : State) (m : MgmtPacket) : Prop where
  quantumLow : 100 ≤ bits (operandOf m 0) 0 32
  quantumHigh : bits (operandOf m 0) 0 32 ≤ 100000
  kids : (t.kidsFor m).length = bits (operandOf m 0) 32 2 + 1
  ring : bits (operandOf m 1) 48 4 + 4 ≤ 12
  ringAligned : bits (operandOf m 1) 0 48 % 64 = 0
  trapsAligned : operandOf m 2 % 512 = 0
  saveAligned : operandOf m 3 % 65536 = 0
  saveSize : operandOf m 4 % 65536 = 0
  saveEnd : operandOf m 3 + operandOf m 4 ≤ 0x6000000000
  pool : t.meetsPool (operandOf m 3) (operandOf m 4) = false
  frames : t.mapsFrames (operandOf m 3) (operandOf m 4) = false

theorem execCreate_creates {new : Nat} (hnew : (s.numberTaken true m).freeTcid = some new) (hfits : CreateFits (s.numberTaken true m) m)
    (hidle : ∀ k ∈ s.kidsFor m, s.usesKid k = false) :
    exec (.create m) s = .next (managed s true m [new, packFields ((s.kidsFor m).map (fun k => (6, k)))] [] (Prog.seq
      [purgeKids (s.kidsFor m),
       fun u => .proc new { live := true, quantum := bits (operandOf m 0) 0 32, kids := s.kidsFor m, ringVa := bits (operandOf m 1) 0 48,
                            ringLog := bits (operandOf m 1) 48 4 + 4, trapVa := operandOf m 2, saveBase := operandOf m 3, saveSize := operandOf m 4,
                            wix := 0, lost := 0, digests := [] }
         :: (s.kidsFor m).zipIdx.map (fun x => .keySlot x.1 (Config.randomKey (u.free + x.2))) ++ [.free (u.free + (s.kidsFor m).length)]])) := by
  obtain ⟨hlow, hhigh, hkids, hring, hringAligned, htraps, hsave, hsize, hend, hpool, hframes⟩ := hfits
  have hgo : (!(s.mgmtPasses m && (s.kidsFor m).any s.usesKid)) = true := by
    rw [List.any_eq_false.mpr (fun k hk => by simp [hidle k hk]), Bool.and_false, Bool.not_false]
  refine (congrArg (fun l => Host.Outcome.next (s.apply l)) (Prog.when_true hgo)).trans (congrArg Host.Outcome.next (run_mgmtTurn_done h ?_))
  simp only [hnew]
  refine (if_neg ?_).trans rfl
  exact not_or.mpr ⟨Nat.not_lt.mpr hlow, not_or.mpr ⟨Nat.not_lt.mpr hhigh, not_or.mpr ⟨not_not_intro hkids, not_or.mpr ⟨Nat.not_lt.mpr hring,
    not_or.mpr ⟨not_not_intro hringAligned, not_or.mpr ⟨not_not_intro htraps, not_or.mpr ⟨not_not_intro hsave, not_or.mpr ⟨not_not_intro hsize,
    not_or.mpr ⟨Nat.not_lt.mpr hend, not_or.mpr ⟨ne_true_of_eq_false hpool, ne_true_of_eq_false hframes⟩⟩⟩⟩⟩⟩⟩⟩⟩⟩

section Destroys

variable (hlive : (s.proc (bits (operandOf m 0) 0 10)).live = true)
include hlive

omit h in
/-- A DESTROY ends what the process runs, and waits until nothing uses its translations and KIDs (spec 02 R45, R52). -/
theorem execDestroy_waits (hpass : s.mgmtPasses m = true) (hheld : s.holdsOn (bits (operandOf m 0) 0 10) = true) :
    exec (.destroy m) s = .next (s.run (endProcess (bits (operandOf m 0) 0 10))) :=
  congrArg (fun l => Host.Outcome.next (s.apply l)) (if_pos (by rw [hpass, hlive, hheld]; rfl))

theorem execDestroy_destroys {tcid : Nat} (htcid : bits (operandOf m 0) 0 10 = tcid) (hfree : s.holdsOn tcid = false) :
    exec (.destroy m) s = .next (managed s true m [] [] (Prog.seq
      [endProcess tcid,
       Prog.forEach ((s.served.filter (fun x => x.2 = tcid)).map (fun x => x.1)) (fun c => Prog.seq
         [zeroCore c, fun s => (entriesIn s.binding (128 * c) (128 * c + 128)).map (fun x => .bind x.1 0), fun _ => [.served c 0]]),
       fun u => .root tcid 0 :: u.untranslate (fun e => e.tcid = tcid) (fun e => e.tcid = tcid),
       purgeKids (s.proc tcid).kids,
       fun s => (s.hostKeys.filter (fun x => bits x.2.toNat 204 10 = tcid && x.1 ≠ 0)).map (fun x => .hostKey x.1 0),
       fun _ => [.proc tcid Proc.reset]])) := by
  subst htcid
  have hgo : ¬ (s.mgmtPasses m && (s.proc (bits (operandOf m 0) 0 10)).live && s.holdsOn (bits (operandOf m 0) 0 10)) = true := by
    rw [hfree, Bool.and_false]
    exact Bool.false_ne_true
  refine (congrArg (fun l => Host.Outcome.next (s.apply l)) (if_neg hgo)).trans (congrArg Host.Outcome.next (run_mgmtTurn_done h ?_))
  exact (if_neg (not_dead hlive)).trans rfl

end Destroys

end Signed

end Sys2Proof.Machine
end

section
/-! SUPPORT. The management operations settled: those that the owner signs, the reads, and the packets that are refused (spec 18 R421, R422). -/

namespace Sys2Proof.Machine

/-- Settles O47: MAPQ starts at the read index that the ring holds (log 53), tables come from the pool in order (log 10), and a thaw or a discard does
what the frozen master needs (log 55). -/
theorem managementComplete : Obligations.ManagementComplete := by
  intro s m hf hphase hsig hseq t o tcid queue done
  have h : s.mgmtTakes true m := ⟨hf, hphase, fun _ => ⟨hsig, hseq⟩⟩
  have htcid : bits (operandOf m 0) 0 10 = tcid := bits_low _ 10
  have hpass : s.mgmtPasses m = true := by simp [State.mgmtPasses, State.running, hf, hphase, hsig, hseq]
  refine ⟨?create, fun hlive hheld => ?waits, fun hlive hfree => ?destroy, fun hlive hfree halign x hread => ?mapq, fun hbound => ?unmapq,
    ?key, fun p hp => ⟨execThaw_thaws h hp, execDiscard_discards h hp⟩, ?enroll, ?domain, ?pages⟩
  case create =>
    intro new hnew kids hlow hhigh hkids hring hringAligned htraps hsave hsize hend hpool hframes hidle
    exact execCreate_creates h hnew ⟨hlow, hhigh, hkids, hring, hringAligned, htraps, hsave, hsize, hend, hpool, hframes⟩ hidle
  case waits => exact htcid ▸ execDestroy_waits (htcid.symm ▸ hlive) hpass (htcid.symm ▸ hheld)
  case destroy => exact execDestroy_destroys h (htcid.symm ▸ hlive) htcid hfree
  case mapq => exact execMapq_maps h htcid hlive hfree halign hread
  case unmapq => exact execUnmapq_unmaps h htcid hbound
  case key => exact execKey_sets h htcid rfl
  case enroll =>
    intro n b slot
    have hn : bits (operandOf m 0) 0 4 = n := bits_low _ 4
    exact ⟨execEnroll_installs h hn, execEnroll_revokes h hn⟩
  case domain =>
    intro win digest hwindows
    have hpkg : bits (operandOf m 0) 0 6 = o 0 % 64 := bits_low _ 6
    exact hpkg ▸ execDomain_sets h hwindows
  case pages =>
    intro size page n hlive hcode halign hpages hend
    have hn : bits (operandOf m 3) 0 32 = n := bits_low _ 32
    exact ⟨execMap_maps h htcid rfl rfl rfl hn hlive hcode halign hpages hend,
      execUnmap_unmaps h htcid rfl rfl hn hlive hcode halign hpages hend⟩

/-! The reads and the packets that are not performed (spec 18 R422, R435, R436, R440). -/

section Answers

variable {s : State} {m : MgmtPacket} (hf : s.focus = .management) (hphase : s.root.phase = .normal)
include hf hphase

theorem State.mgmtTakes_unsigned : s.mgmtTakes false m := ⟨hf, hphase, nofun⟩

theorem execAttest_signs (hleaves : s.root.leaves < 2 ^ 40) :
    let w := operandOf m 4
    let b := s.reportBody (if bits w 15 1 = 1 then some (bits w 0 10) else none) ((operandBytes m).take 32)
    exec (.attest m) s = .next (managed s false m [] (b ++ sized 3700 (Config.deviceSign s.root.leaves b))
      (fun _ => [.rootState { s.root with leaves := s.root.leaves + 1 }, s.countEvent 405 3])) :=
  congrArg Host.Outcome.next (run_mgmtTurn_done (State.mgmtTakes_unsigned hf hphase) (if_neg (Nat.not_le.mpr hleaves)))

theorem execTelem_reads {first n : Nat} (hfirst : bits (operandOf m 0) 0 9 = first) (hn : bits (operandOf m 0) 16 10 = n) (hsome : 1 ≤ n)
    (hend : first + n ≤ 512) (hreply : mgmtReplyAt m + 64 + 64 * n ≤ 0x100000) :
    exec (.telem m) s = .next (managed s false m []
      ((List.range n).flatMap (fun i => leBytes 64 (Map.get 0 s.telemetry (first + i)).toNat)) (fun _ => [])) := by
  subst hfirst hn
  refine (congrArg (fun l => Host.Outcome.next (s.apply l)) (Prog.when_true (decide_eq_true hphase))).trans
    (congrArg Host.Outcome.next (run_mgmtTurn_done (State.mgmtTakes_unsigned hf hphase) (if_neg ?_)))
  exact not_or.mpr ⟨Nat.one_le_iff_ne_zero.mp hsome, not_or.mpr ⟨Nat.not_lt.mpr hend, Nat.not_lt.mpr hreply⟩⟩

theorem execManagementPacketMalformed_answers (hlow : 0xC0000 ≤ mgmtReplyAt m) (hend : mgmtReplyAt m + 64 ≤ 0x100000) :
    exec (.managementPacketMalformed m) s = .next (s.run (writeReply m { status := 3, cause := 0, words := [], extra := [] })) :=
  congrArg (fun l => Host.Outcome.next (s.apply l)) ((if_neg (by simp [hf, State.running, hphase])).trans (if_pos ⟨hlow, hend⟩))

end Answers

section Refused

variable {s : State} {m : MgmtPacket}

/-- What a packet that is not performed leaves: it is counted and answered. -/
def State.mgmtRefused (s : State) (m : MgmtPacket) (status : Nat) : State :=
  State.run { s with root := { s.root with rejected := s.root.rejected + 1 } } (writeReply m { status := status, cause := 0, words := [], extra := [] })

/-- CREATE, DESTROY and MAP take their turn where the packet does not pass; what it leaves does not depend on what each would do. -/
theorem execSigned_refused {status : Nat} (hpass : s.mgmtPasses m = false)
    (hturn : ∀ body, s.run (mgmtTurn true m body) = s.run (rejectMgmt m status)) :
    exec (.create m) s = .next (s.mgmtRefused m status) ∧ exec (.destroy m) s = .next (s.mgmtRefused m status)
      ∧ exec (.map m) s = .next (s.mgmtRefused m status) := by
  have hrefused (body : MgmtBody) : (.next (s.run (mgmtTurn true m body)) : Host.Outcome State Fault Refusal) = .next (s.mgmtRefused m status) :=
    congrArg Host.Outcome.next ((hturn body).trans (run_rejectMgmt s m status))
  refine ⟨?create, ?destroy, hrefused _⟩
  case create =>
    exact (congrArg (fun l => Host.Outcome.next (s.apply l)) (Prog.when_true (by rw [hpass, Bool.false_and, Bool.not_false]))).trans (hrefused _)
  case destroy => exact (congrArg (fun l => Host.Outcome.next (s.apply l)) (if_neg (by simp [hpass]))).trans (hrefused _)

end Refused

/-- Settles O48: a report is signed by the device (log 8); a packet that does not pass is counted and answered. -/
theorem managementReads : Obligations.ManagementReads := by
  intro s m hf hphase w b first n counted
  have hfirst : bits (operandOf m 0) 0 9 = first := bits_low _ 9
  refine ⟨execAttest_signs hf hphase, execTelem_reads hf hphase hfirst rfl, execManagementPacketMalformed_answers hf hphase,
    fun hsig => ?unsigned, fun hsig hseq => ?stale⟩
  case unsigned =>
    exact execSigned_refused (by simp [State.mgmtPasses, hsig]) (fun _ => run_mgmtTurn_unsigned hf hphase hsig)
  case stale =>
    exact execSigned_refused (by simp [State.mgmtPasses, Nat.not_lt.mpr hseq]) (fun _ => run_mgmtTurn_stale hf hphase hsig hseq)

end Sys2Proof.Machine
end

section
/-! SUPPORT. The Daxara link, neighbours and their reports, and the requests of other packages (spec 18 R424 to R429, R438). -/

namespace Sys2Proof.Machine

variable {s : State} {port : Nat}

/-! What a port event leaves. -/

/-- The state with a port, and with an event of a port counted (spec 18 R440). -/
def State.putPort (s : State) (port : Nat) (p : Port) : State := { s with ports := Map.set Port.reset s.ports port p }
def State.portCounted (s : State) (port i : Nat) : State := s.perform (s.countEvent (portRecord port) i)

theorem State.apply_map_reply {α : Type} (g : α → OutMsg) (l : List α) (s : State) :
    s.apply (l.map (fun x => .reply (g x))) = { s with replies := s.replies ++ l.map g } := by
  induction l generalizing s with
  | nil => exact congrArg (fun z => { s with replies := z }) (List.append_nil s.replies).symm
  | cons x l ih =>
    refine (ih { s with replies := s.replies ++ [g x] }).trans ?_
    exact congrArg (fun z => { s with replies := z }) (List.append_assoc s.replies [g x] (l.map g))

/-- Two messages leave in order. -/
theorem State.replies_two (t : State) (a b : OutMsg) : t.apply [.reply a, .reply b] = { t with replies := t.replies ++ [a, b] } :=
  congrArg (fun z => { t with replies := z }) (List.append_assoc t.replies [a] [b])

section Link

theorem State.portUp_iff : s.portUp port = true ↔ s.running = true ∧ port < 12 ∧ (s.port port).attested = true ∧ (s.port port).keyed = true
    ∧ (s.port port).failed = false := by
  simp only [State.portUp, Bool.and_eq_true, decide_eq_true_eq, Bool.not_eq_true', and_assoc]

/-- The frames in the replay buffer go out again, and the resend is counted (spec 18 R425, R440). -/
theorem State.run_resendAll (h : (s.port port).replay ≠ []) :
    s.run (resendAll port) = State.portCounted { s.putPort port { s.port port with resends := (s.port port).resends + 1 } with
      replies := s.replies ++ (s.port port).replay.map (fun x => .frame port 0 x.1) } port 2 := by
  have heffects : resendAll port s = (s.port port).replay.map (fun x => .reply (.frame port 0 x.1))
      ++ [.port port { s.port port with resends := (s.port port).resends + 1 }, s.countEvent (portRecord port) 2] := if_neg h
  rw [State.run, heffects, State.apply_append, State.apply_map_reply]
  rfl

variable (hup : s.portUp port = true)
include hup

/-! Data frames (spec 18 R425, R426). -/

section Frames

variable {f : Frame} (hfrozen : (s.port port).frozen = false)
include hfrozen

theorem execDaxaraDataFrame_open :
    ¬ (!s.running || decide (12 ≤ port) || (s.port port).frozen || (s.port port).failed || !(s.port port).attested) = true := by
  obtain ⟨hrun, hport, hattested, -, hfailed⟩ := State.portUp_iff.mp hup
  simp [hrun, hport, hattested, hfailed, hfrozen]

/-- The port after it has taken a frame. -/
def Port.taken (p : Port) (f : Frame) : Port :=
  { (match f.ack with | some a => p.ackTo a | none => p) with rxNext := nextSeq p.rxNext, retraining := false }

theorem execDaxaraDataFrame_takes (htakes : (s.port port).takes f = true) :
    let taken : State := { s.putPort port ((s.port port).taken f) with
      replies := s.replies ++ [.frame port 1 (nextSeq (s.port port).rxNext), .frame port 3 (f.flits.length / 64 * 2 ^ (8 * f.vc))] }
    exec (.daxaraDataFrame port f) s = .next (taken.run (if f.vc = 1 ∨ f.vc = 4 ∨ f.vc = 6 then Prog.forEach (Config.answersOf f.flits) peerAnswered
      else Prog.skip)) := by
  intro taken
  have hkeyed := (State.portUp_iff.mp hup).2.2.2.1
  have hvc : (answerVc f.vc = true) = (f.vc = 1 ∨ f.vc = 4 ∨ f.vc = 6) := by simp [answerVc, or_assoc]
  have heffects : exec (.daxaraDataFrame port f) s = .next (s.apply (Prog.seq
      [fun _ => [.port port ((s.port port).taken f), .reply (.frame port 1 (nextSeq (s.port port).rxNext)),
         .reply (.frame port 3 (f.flits.length / 64 * 2 ^ (8 * f.vc)))],
       if answerVc f.vc then Prog.forEach (Config.answersOf f.flits) peerAnswered else Prog.skip] s)) := by
    refine congrArg (fun l => Host.Outcome.next (s.apply l)) ((if_neg (execDaxaraDataFrame_open hup hfrozen)).trans
      ((if_neg (not_dead hkeyed)).trans ((if_pos htakes).trans rfl)))
  have htaken : s.apply [.port port ((s.port port).taken f), .reply (.frame port 1 (nextSeq (s.port port).rxNext)),
      .reply (.frame port 3 (f.flits.length / 64 * 2 ^ (8 * f.vc)))] = taken := State.replies_two (s.putPort port ((s.port port).taken f)) _ _
  rw [heffects, State.apply_seq_cons, htaken]
  simp only [hvc]
  exact congrArg Host.Outcome.next (State.apply_seq_cons _ [] taken)

theorem execDaxaraDataFrame_drops (htakes : (s.port port).takes f = false) :
    let dropped : State := { s.putPort port { s.port port with naks := (s.port port).naks + 1 } with
      replies := s.replies ++ [.frame port 2 (s.port port).rxNext] }
    exec (.daxaraDataFrame port f) s = .next (if f.good then dropped else dropped.portCounted port 1) := by
  intro dropped
  have hkeyed := (State.portUp_iff.mp hup).2.2.2.1
  have heffects : exec (.daxaraDataFrame port f) s = .next (s.apply (
      [.port port { s.port port with naks := (s.port port).naks + 1 }, .reply (.frame port 2 (s.port port).rxNext)]
        ++ (if f.good then [] else [s.countEvent (portRecord port) 1]))) :=
    congrArg (fun l => Host.Outcome.next (s.apply l)) ((if_neg (execDaxaraDataFrame_open hup hfrozen)).trans
      ((if_neg (not_dead hkeyed)).trans (if_neg (ne_true_of_eq_false htakes))))
  rw [heffects, State.apply_append, apply_ite (State.apply _)]
  rfl

end Frames

/-! Acknowledgements, credits and time-outs (spec 18 R424 to R426). -/

theorem execDaxaraAck_retires (a : Nat) : exec (.daxaraAck port a) s = .next (s.putPort port ((s.port port).ackTo a)) :=
  congrArg (fun l => Host.Outcome.next (s.apply l)) (if_pos hup)

theorem execDaxaraNak_resends (a : Nat) :
    exec (.daxaraNak port a) s = .next ((s.putPort port ((s.port port).ackTo a)).run (resendAll port)) := by
  have heffects : exec (.daxaraNak port a) s = .next (s.apply (Prog.seq [fun s => [.port port ((s.port port).ackTo a)], resendAll port] s)) :=
    congrArg (fun l => Host.Outcome.next (s.apply l)) (Prog.when_true hup)
  rw [heffects, State.apply_seq_cons, State.apply_seq_cons, State.apply_seq_nil]
  rfl

theorem execDaxaraCredit_adds (l : List Nat) : exec (.daxaraCredit port l) s = .next (s.putPort port { s.port port with
    credits := (List.range 7).foldl (fun m v => Map.set 0 m v (Map.get 0 m v + l.getD v 0 % 256)) (s.port port).credits }) :=
  congrArg (fun l => Host.Outcome.next (s.apply l)) (if_pos hup)

theorem execReplayTimeout_resends : exec (.replayTimeout port) s = .next (s.run (resendAll port)) :=
  congrArg (fun l => Host.Outcome.next (s.apply l)) (Prog.when_true hup)

theorem execLinkRetrain_retrains (hresends : 16 ≤ (s.port port).resends) (hsteady : (s.port port).retraining = false) :
    exec (.linkRetrain port) s
      = .next ((s.putPort port { s.port port with retraining := true, resends := 0 }).portCounted port 0) :=
  congrArg (fun l => Host.Outcome.next (s.apply l)) (if_pos (by rw [hup, hsteady, decide_eq_true hresends]; rfl))

theorem execLinkFailed_loses (hretraining : (s.port port).retraining = true) :
    let t := (s.putPort port { s.port port with failed := true, retraining := false, replay := [], outq := [] }).portCounted port 4
    exec (.linkFailed port) s = .next (t.run (Prog.seq
      [Prog.forEach (t.pending.filter (fun a => a.pkg ≠ t.pkgNum && t.portTo a.pkg = port)) (fun a s => s.loseAccess a (linkFail a.pkg a.pa)),
       requestsLost (s.sentThrough port), wordsLost (s.sentThrough port)])) := by
  intro t
  have heffects : exec (.linkFailed port) s = .next (s.apply (Prog.seq
      [fun s' => [.port port { s.port port with failed := true, retraining := false, replay := [], outq := [] }, s'.countEvent (portRecord port) 4],
       fun s => Prog.forEach (s.pending.filter (fun a => a.pkg ≠ s.pkgNum && s.portTo a.pkg = port)) (fun a s => s.loseAccess a (linkFail a.pkg a.pa)) s,
       requestsLost (s.sentThrough port), wordsLost (s.sentThrough port)] s)) :=
    congrArg (fun l => Host.Outcome.next (s.apply l)) (if_pos (by rw [hup, hretraining]; rfl))
  have ht : s.apply [.port port { s.port port with failed := true, retraining := false, replay := [], outq := [] }, s.countEvent (portRecord port) 4] = t := rfl
  rw [heffects, State.apply_seq_cons, ht]
  exact congrArg (fun e => Host.Outcome.next (t.apply e)) (Prog.seq_head_congr rfl)

end Link

/-! A neighbour is let in on its report alone (spec 18 R428, log 35). -/

/-- Whether a report is genuine and matches the measurements that the domain expects (spec 18 R428, R436). -/
def State.reportMatches (s : State) (report : List Byte) : Bool :=
  natAt report 0 4 = 1 && natAt report 64 48 = (Map.get 0 s.measures 0).toNat && natAt report 112 48 = (Map.get 0 s.measures 1).toNat
    && Config.reportGenuine report

theorem execPeerAttestation_checks {report : List Byte} (hphase : s.root.phase = .normal) (hport : port < 12) :
    exec (.peerAttestation port report) s = .next (s.apply
      (.port port { s.port port with attested := s.reportMatches report, keyed := s.reportMatches report }
        :: (if s.reportMatches report then [.reply (.frame port 3 (packFields (List.replicate 7 (8, 64))))] else []))) :=
  congrArg (fun l => Host.Outcome.next (s.apply l)) (if_neg (by simp [State.running, hphase, hport]))

/-! Requests of other packages (spec 18 R429). -/

section Requests

variable {r : PeerReq} (hup : s.portUp r.port = true) (hfrozen : (s.port r.port).frozen = false)
include hup hfrozen

theorem execPeerRequest_acts : exec (.peerRequest r) s = .next (s.run (peerAccess r)) :=
  congrArg (fun l => Host.Outcome.next (s.apply l)) (Prog.when_true (by rw [hup, hfrozen]; rfl))

theorem execPeerRequest_refuses (hrefused : s.peerPasses r = none) : exec (.peerRequest r) s = .next (s.perform (.send (.refuse r))) := by
  have haccess : peerAccess r s = [.send (.refuse r)] := by simp only [peerAccess, hrefused]
  exact (execPeerRequest_acts hup hfrozen).trans (congrArg (fun l => Host.Outcome.next (s.apply l)) haccess)

theorem execPeerRequest_performs {kid : Nat} (hpasses : s.peerPasses r = some kid) (hopen : opTells r.op = true ∨ s.gatedFor s.pkgNum r.pa = none) :
    exec (.peerRequest r) s = .next (s.run (peerPerform kid r)) := by
  have hgate : (if opTells r.op then none else s.gatedFor s.pkgNum r.pa) = none := by
    rcases hopen with h | h
    · exact if_pos h
    · rw [h, ite_self]
  have haccess : peerAccess r s = peerPerform kid r s := by simp only [peerAccess, hpasses, hgate]
  exact (execPeerRequest_acts hup hfrozen).trans (congrArg (fun l => Host.Outcome.next (s.apply l)) haccess)

theorem execPeerRefusal_freezes (hours : r.srcPkg = s.pkgNum) : exec (.peerRefusal r) s = .next (s.run (Prog.seq
    [bindRefused r.tag, requestRefused r.tag, freezeMaster (BitVec.ofNat 26 r.issuer) r.pa (peerKind r.op)])) :=
  congrArg (fun l => Host.Outcome.next (s.apply l)) (Prog.when_true (by simp [hup, hfrozen, hours]))

end Requests

/-- Settles O49: a neighbour's report alone opens its port (log 35); requests and answers are the model's records (log 34). -/
theorem peersComplete : Obligations.PeersComplete := by
  intro s port p put counted
  refine ⟨fun hup => ⟨fun f hfrozen => ⟨execDaxaraDataFrame_takes hup hfrozen, execDaxaraDataFrame_drops hup hfrozen⟩,
      fun a => ⟨execDaxaraAck_retires hup a, execDaxaraNak_resends hup a⟩, execDaxaraCredit_adds hup,
      fun hreplay => ⟨_, (execReplayTimeout_resends hup).trans (congrArg Host.Outcome.next (State.run_resendAll hreplay)), rfl⟩,
      execLinkRetrain_retrains hup, execLinkFailed_loses hup⟩, fun report hphase hport => ?attests,
    fun r hup hfrozen => ⟨execPeerRequest_refuses hup hfrozen, fun kid => execPeerRequest_performs hup hfrozen, execPeerRefusal_freezes hup hfrozen⟩⟩
  case attests =>
    intro ok
    have hchecks := execPeerAttestation_checks (report := report) hphase hport
    have hok : s.reportMatches report = ok := rfl
    rw [hok] at hchecks
    exact ⟨fun h => by rw [hchecks, h]; rfl, fun h => by rw [hchecks, h]; rfl⟩

end Sys2Proof.Machine
end

section
/-! SUPPORT. Boot, the owner's keys, telemetry, the clock, emergencies and loss of power (spec 18 R431, R434, R435, R440, R442). -/

namespace Sys2Proof.Machine

variable {s : State}

/-! Boot (spec 18 R431). -/

/-- The part that starts the first image that verifies, or stays in recovery. -/
def bootImage (s : State) : Prog :=
  if s.imageRuns s.root.primary then startFirmware s.root.primary
  else if s.imageRuns s.root.backup then startFirmware s.root.backup
  else fun s => [.rootState { s.root with phase := .recovery }]

theorem execBoot_boots {p : Prog} (hphase : s.root.phase = .reset) (hp : bootImage s = p) :
    exec .boot s = .next ((s.perform (s.countEvent 405 1)).run p) := by
  subst hp
  have heffects : exec .boot s = .next (s.apply (Prog.seq [fun s => [s.countEvent 405 1], bootImage s] s)) :=
    congrArg (fun l => Host.Outcome.next (s.apply l)) (if_neg (not_not_intro hphase))
  rw [heffects, State.apply_seq_cons, State.apply_seq_cons, State.apply_seq_nil]
  rfl

/-! The owner's keys and the records (spec 18 R434, R440). -/

theorem execOwnerKeyProvisioning_sets {a b : List Byte} (hphase : s.root.phase = .normal) (hblank : s.root.owner.state = 0) (ha : a.length = 96)
    (hb : b.length = 60) :
    exec (.ownerKeyProvisioning a b) s = .next { s with root := { s.root with owner := { state := 1, ecdsa := a, hss := b } } } :=
  congrArg (fun l => Host.Outcome.next (s.apply l)) (if_pos (by simp [State.running, hphase, hblank, ha, hb]))

theorem execTelemetryUpdate_sets {r : Nat} {v : BitVec 512} (hr : r < 406) :
    exec (.telemetryUpdate r v) s = .next { s with telemetry := Map.set 0 s.telemetry r v } :=
  congrArg (fun l => Host.Outcome.next (s.apply l)) (if_pos hr)

/-! The fabric clock (spec 18 R442). -/

theorem execClockThrottle_slows (hfast : 1500 < s.clock) :
    ∃ f, 1500 ≤ f ∧ f < s.clock ∧ exec .clockThrottle s = .next { s with clock := f, free := s.free + 1 } := by
  have hstep : (Config.freeValue s.free).toNat % (s.clock - 1500) < s.clock - 1500 := Nat.mod_lt _ (Nat.sub_pos_of_lt hfast)
  exact ⟨1500 + (Config.freeValue s.free).toNat % (s.clock - 1500), Nat.le_add_right _ _, by omega,
    congrArg (fun l => Host.Outcome.next (s.apply l)) (if_neg (Nat.not_le.mpr hfast))⟩

theorem execClockRestore_speeds (hslow : s.clock < 2250) :
    ∃ f, s.clock < f ∧ f ≤ 2250 ∧ exec .clockRestore s = .next { s with clock := f, free := s.free + 1 } := by
  have hstep : (Config.freeValue s.free).toNat % (2250 - s.clock) < 2250 - s.clock := Nat.mod_lt _ (Nat.sub_pos_of_lt hslow)
  exact ⟨s.clock + 1 + (Config.freeValue s.free).toNat % (2250 - s.clock), by omega, by omega,
    congrArg (fun l => Host.Outcome.next (s.apply l)) (if_neg (Nat.not_le.mpr hslow))⟩

/-! Emergencies and loss of power (spec 18 R435, R442). -/

theorem execEmergencyStop_stops (s : State) :
    let t := s.perform (s.countEvent 405 2)
    exec .emergencyStop s = .next (t.run (Prog.forEach
      (t.liveRegions.filter (fun b => (t.region b).state = .running || (t.region b).state = .preempting))
      (fun b s => s.asyncStop b 0x56 5 (elemIx ((s.regionElems b).headD 0)) 0))) := by
  intro t
  have heffects : exec .emergencyStop s = .next (s.apply (Prog.seq
      [fun s => [s.countEvent 405 2],
       fun s => Prog.forEach (s.liveRegions.filter (fun b => (s.region b).state = .running || (s.region b).state = .preempting))
         (fun b s => s.asyncStop b 0x56 5 (elemIx ((s.regionElems b).headD 0)) 0) s] s)) := rfl
  rw [heffects, State.apply_seq_cons, State.apply_seq_cons, State.apply_seq_nil]
  rfl

theorem execPowerLoss_stops (s : State) : ∃ n, (n = s.root.leaves ∨ n = s.root.leaves + 1) ∧
    exec .powerLoss s = .next { s with powered := false, root := { s.root with leaves := n }, free := s.free + 1 } := by
  refine ⟨s.root.leaves + (Config.freeValue s.free).toNat % 2, ?_, rfl⟩
  rcases Nat.mod_two_eq_zero_or_one (Config.freeValue s.free).toNat with h | h
  · exact .inl (by rw [h, Nat.add_zero])
  · exact .inr (by rw [h])

/-- Settles O50: an emergency stops the regions that run, and those whose pre-emption is under way (log 55). -/
theorem powerComplete : Obligations.PowerComplete := by
  intro s
  refine ⟨fun hphase => ⟨fun hprimary => execBoot_boots hphase (if_pos hprimary), fun hprimary hbackup => ?backup, fun hprimary hbackup => ?recovery⟩,
    fun a b => execOwnerKeyProvisioning_sets, fun r v => execTelemetryUpdate_sets, execClockThrottle_slows, execClockRestore_speeds,
    execEmergencyStop_stops s, execPowerLoss_stops s⟩
  case backup => exact execBoot_boots hphase ((if_neg (ne_true_of_eq_false hprimary)).trans (if_pos hbackup))
  case recovery => exact execBoot_boots hphase ((if_neg (ne_true_of_eq_false hprimary)).trans (if_neg (ne_true_of_eq_false hbackup)))

end Sys2Proof.Machine
end
